-- ==== Sys2Proof/Word.lean ====
section
/-! DEFINITION. The words of the model and its one sparse container.

A register word of the package is 32 bits (R37), a hart word 64 bits (R80), a cache line 64 bytes (R132). `Map` is
the sparse array every memory and every register file of the model is held in: pairs of a key and a value with keys
strictly rising. Its operations stand in Machine/Store.lean. -/
namespace Sys2Proof

/-- A hart word (XLEN 64, R80). -/
abbrev Word := BitVec 64

/-- A byte. -/
abbrev Byte := BitVec 8

/-- A cache line of 64 bytes, byte 0 in the lowest bits (little-endian, R80). -/
abbrev Line := BitVec 512

/-- A sparse array: keys strictly rising; an unlisted key holds the default its reader names. -/
abbrev Map (β : Type) := List (Nat × β)

end Sys2Proof
end

