-- ==== Sys2Proof/Syntax.lean ====
section
/-! DEFINITION. The commands of the block, one constructor of `Instr` per row of spec/opcode_table.json, and the
operand types they carry. The table gives its rows no bits and no operands, so the operands are the model's: what a
rule says the operation or event depends on, and nothing that the state already holds. Physical outcomes (a training
result, an ECC finding, a frame or message from outside the package) are operands. -/
namespace Sys2Proof

/-- A block of the register space: a die ID and a block slot (R36, R39). -/
structure Blk where
  die : Nat
  slot : Nat
deriving DecidableEq, Repr

/-- Who makes an access (R52, R313): a hart, the Warden, a hub engine acting on descriptors of firmware or M-mode
software, or an I/O master with its regulated master number and the world tag its window or context carries. -/
inductive Master where
  | hart (h : Nat)
  | warden
  | engine
  | io (num : Nat) (secure : Bool)
deriving DecidableEq, Repr

/-- The four views of a block page (R36). -/
inductive View where
  | base | set | clear | toggle
deriving DecidableEq, Repr

/-- The width of a register-space access (R37): bytes and halfwords, which a hart may not use, words, doublewords, and
an I/O master's word with byte enables. -/
inductive Width where
  | w8 | w16 | w32 | w64
  | bytes (be : BitVec 4)
deriving DecidableEq, Repr

/-- Loads: integer, floating-point, and the hypervisor's HLV and HLVX. -/
inductive LoadKind where
  | int (unsigned : Bool) | fp | hlv (unsigned : Bool) | hlvx
deriving DecidableEq, Repr

/-- Stores: integer, floating-point, and the hypervisor's HSV. -/
inductive StoreKind where
  | int | fp | hsv
deriving DecidableEq, Repr

/-- The AMOs of the A extension. -/
inductive AmoOp where
  | swap | add | xor | and | or | min | max | minu | maxu
deriving DecidableEq, Repr

/-- Register-register and register-immediate integer operations of RV64I, Zba, Zbb and Zbs. -/
inductive AluOp where
  | add | sub | sll | slt | sltu | xor | srl | sra | or | and
  | addw | subw | sllw | srlw | sraw
  | addUw | sh1add | sh2add | sh3add | sh1addUw | sh2addUw | sh3addUw | slliUw
  | andn | orn | xnor | clz | clzw | ctz | ctzw | cpop | cpopw | max | maxu | min | minu
  | sextB | sextH | zextH | rol | rolw | ror | rorw | orcB | rev8
  | bclr | bext | binv | bset
deriving DecidableEq, Repr

/-- Conditional branches. -/
inductive BrOp where
  | eq | ne | lt | ge | ltu | geu
deriving DecidableEq, Repr

/-- The M extension. -/
inductive MulOp where
  | mul | mulh | mulhsu | mulhu | mulw | div | divu | rem | remu | divw | divuw | remw | remuw
deriving DecidableEq, Repr

/-- The classes of floating-point operation that R94 and R106 time, each with whether it works on doubles. -/
inductive FpOp where
  | add | sub | mul | sgnj | sgnjn | sgnjx | min | max | feq | flt | fle | fclass
  | cvtToInt (k : Nat) | cvtFromInt (k : Nat) | cvtFloat | mvToInt | mvFromInt
  | madd | msub | nmsub | nmadd | div | sqrt
deriving DecidableEq, Repr

/-- An instruction that INSTRUCTION_EXECUTE issues, decoded. `raw` is an encoding that no other constructor of this
type and no other command stands for. -/
inductive Insn where
  | lui (rd : Nat) (imm : BitVec 20)
  | auipc (rd : Nat) (imm : BitVec 20)
  | jal (rd : Nat) (imm : BitVec 21)
  | jalr (rd rs1 : Nat) (imm : BitVec 12)
  | branch (op : BrOp) (rs1 rs2 : Nat) (imm : BitVec 13)
  | opImm (op : AluOp) (rd rs1 : Nat) (imm : BitVec 12)
  | op (op : AluOp) (rd rs1 rs2 : Nat)
  | mul (op : MulOp) (rd rs1 rs2 : Nat)
  | fp (op : FpOp) (dbl : Bool) (rm rd rs1 rs2 rs3 : Nat)
  | hint
  | raw (w : BitVec 32)
deriving DecidableEq, Repr

/-- The CSR instructions of Zicsr. -/
inductive CsrOp where
  | rw | rs | rc
deriving DecidableEq, Repr

/-- The source of a CSR instruction: a register, or a 5-bit immediate. -/
inductive CsrSrc where
  | reg (n : Nat) | imm (n : Nat)
deriving DecidableEq, Repr

/-- The three timer compares (R86). -/
inductive TimerKind where
  | m | s | vs
deriving DecidableEq, Repr

/-- How a walk read came back (R126): data, an error response, or uncorrectable or poisoned data. -/
inductive WalkReply where
  | ok | busError | ue
deriving DecidableEq, Repr

/-- What a coherent request asks of its home (R166, R136). -/
inductive ReqKind where
  | read | own | ownLr
  | fullWrite (v : Line)
deriving DecidableEq, Repr

/-- A coherent request of cluster `cl` for a line number, with the world tag and partition class it carries. -/
structure CohReq where
  cl : Nat
  line : Nat
  kind : ReqKind
  sec : Bool
  pclass : Nat
deriving DecidableEq, Repr

/-- What an I/O-coherent request does to its line (R167). -/
inductive IoOp where
  | read | full (v : Line) | part (mask : BitVec 64) (v : Line)
deriving DecidableEq, Repr

/-- What the controller's read of a line finds when the home must read memory (R212, R221): good data, an error
corrected by the controller or by the stack's own code (R216), or uncorrectable words of the line (`words`, one bit each), in the primary copy only or in both copies. -/
inductive EccFind where
  | good | corrected | onDie | primary (words : Nat) | both (words : Nat)
deriving DecidableEq, Repr

/-- What the header of a Yilust message that arrives says (R354): its port, sender, receiver and broadcast bit, and whether
a reserved bit or an unlisted type makes it bad (R355). -/
structure YHdr where
  port : Nat
  src : Nat
  dst : Nat
  bcast : Bool
  bad : Bool
deriving DecidableEq, Repr

/-- What a host configuration request does (R329, R330): read a dword of the Type 0 header; write Bus Master Enable and Memory
Space Enable; write a dword of a BAR (4-9) or the Expansion ROM BAR (12); write the enable and function mask of MSI-X; select
a Completion Timeout sub-range by its upper end in microseconds. -/
inductive HostCfg where
  | read (dw : Nat)
  | command (bme mse : Bool)
  | bar (n : Nat) (v : BitVec 32)
  | msix (en mask : Bool)
  | timeout (us : Nat)
deriving DecidableEq, Repr

/-- What one scrub read finds (R223). -/
inductive ScrubFind where
  | clean | corrected | uncorrectable (words : Nat)
deriving DecidableEq, Repr

/-- What a link training attempt finds (R184): the modules good at both ends, the lanes repaired per module, and
whether the sideband held and verification saw no CRC error. -/
structure TrainFind where
  mask : Nat
  lanes : List Nat
  ok : Bool
deriving DecidableEq, Repr

/-- The straps sampled at the power-on reset of the always-on domain (R435, R357). -/
structure Straps where
  bootSrc : Nat
  clPos : Nat
  mgrSel : Bool
deriving DecidableEq, Repr

/-- What a DIMM population or training finds on one DDR5 channel (R206): the log2 of the bytes it holds, a code that
stands for its DIMM count, rank count and organisation, and whether it trained. -/
structure DimmFind where
  exp : Nat
  kind : Nat
  ok : Bool
deriving DecidableEq, Repr

/-- What bring-up finds at steps 1-6 of R77: the dies that power up with their roots locked, the revision and
capability vector each advertises, the modules good at both ends of each Hinge, keyed by die × 8 + instance, the vertical
ports that trained, the cores the fuses mark as spares, and which configuration copies were read without error. -/
structure BootFind where
  up : List Nat
  revs : List (Nat × Nat)
  caps : List (Nat × Nat)
  hinges : List (Nat × TrainFind)
  vports : List Nat
  spares : List Nat
  copyA : Bool
  copyB : Bool
deriving DecidableEq, Repr

/-- What step 7 of R77 finds: the HBM3E stacks that trained and the DDR5 channels. -/
structure MemFind where
  stks : List Nat
  dimms : List DimmFind
deriving DecidableEq, Repr

/-- What the re-admission of a die finds (R182, R186, R203): whether its roots and links came up, the revision and
capabilities it advertises, its Hinges' modules, and for the open site its profile. -/
structure ReadmitFind where
  ok : Bool
  rev : Nat
  cap : Nat
  hinges : List (Nat × TrainFind)
  profile : BitVec 512
deriving DecidableEq, Repr

/-- What a debugger asks of a halted hart or of the system bus (R326): an integer register or a CSR read, or written with
a value; a system-bus access of `size` bytes with a world tag; the PC-sample register of the debug module. -/
inductive DbgOp where
  | gpr (n : Nat) (v : Option (BitVec 64))
  | csr (n : Nat) (v : Option (BitVec 64))
  | bus (pa size : Nat) (secure : Bool) (v : Option Nat)
  | pcSample
deriving DecidableEq, Repr

/-- The commands of the block: one constructor per row of spec/opcode_table.json. -/
inductive Instr where
  /-- A hart issues an integer, floating-point or other computational instruction and completes it in its tabulated cycles. (R94) -/
  | instructionExecute (h : Nat) (c : Bool) (i : Insn)
  /-- A hart load is checked for misalignment, translated, checked against PMP and world rules, forwarded from the store buffer or sent to cache, local store or I/O. (R128) -/
  | load (h : Nat) (c : Bool) (rd rs1 : Nat) (imm : BitVec 12) (size : Nat) (k : LoadKind)
  /-- A hart store is checked and translated, then leaves the pipeline into the store buffer, or stalls while the buffer is full. (R138) -/
  | store (h : Nat) (c : Bool) (rs1 rs2 : Nat) (imm : BitVec 12) (size : Nat) (k : StoreKind)
  /-- A hart AMO drains the store buffer, takes ownership of the line and performs the atomic operation within its cluster. (R166) -/
  | amo (h : Nat) (op : AmoOp) (rd rs1 rs2 size : Nat)
  /-- A hart LR takes ownership of the line and places a reservation on it. (R166) -/
  | lr (h rd rs1 size : Nat)
  /-- A hart SC stores only if its reservation still holds; otherwise it fails. (R166) -/
  | sc (h rd rs1 rs2 size : Nat)
  /-- FENCE drains the store buffer and orders the hart's accesses. (R140) -/
  | fence (h : Nat)
  /-- FENCE.I drains the store buffer, invalidates the L1 instruction cache and flushes the prefetch queue. (R141) -/
  | fenceI (h : Nat)
  /-- SFENCE.VMA drains the store buffer and invalidates the selected entries of the hart's own TLBs. (R129) -/
  | sfenceVma (h rs1 rs2 : Nat)
  /-- HFENCE.VVMA or HFENCE.GVMA drains the store buffer and invalidates the selected guest entries of the hart's TLBs. (R129) -/
  | hfence (h : Nat) (gvma : Bool) (rs1 rs2 : Nat)
  /-- CBO.CLEAN writes back every dirty copy of the line in every cache, keeping copies valid. (R145) -/
  | cboClean (h rs1 : Nat)
  /-- CBO.FLUSH writes back and invalidates every copy of the line. (R145) -/
  | cboFlush (h rs1 : Nat)
  /-- CBO.INVAL invalidates every copy of the line, or acts as a flush or raises an exception according to CBIE. (R145) -/
  | cboInval (h rs1 : Nat)
  /-- A CSR instruction reads or writes a CSR; held writes wait for SYNC.CR, settling writes take effect within four instructions. (R89) -/
  | csrAccess (h : Nat) (op : CsrOp) (n rd : Nat) (src : CsrSrc)
  /-- ECALL raises an environment call exception to the handler selected by delegation. (R97) -/
  | ecall (h : Nat)
  /-- EBREAK enters debug mode where the invasive enable permits, otherwise raises a breakpoint exception. (R326) -/
  | ebreak (h : Nat) (c : Bool)
  /-- MRET returns within M-mode when MPP is M and raises illegal instruction when MPP is below M. (R312) -/
  | mret (h : Nat)
  /-- SRET returns from a supervisor trap and brings settling writes into effect. (R91) -/
  | sret (h : Nat)
  /-- WFI stalls the hart with untabulated timing until an interrupt wakes it. (R107) -/
  | wfi (h : Nat)
  /-- KEYCALL drains the store buffer, saves state, records SVC and enters the secure world at mkeyvec. (R314) -/
  | keycall (h : Nat) (svc : BitVec 12)
  /-- KEYRET drains the store buffer and returns to the normal world at mepc with the privilege in MPP. (R315) -/
  | keyret (h : Nat)
  /-- SYNC.CR starts bringing every held and settling CSR change into effect. (R90) -/
  | syncCr (h : Nat)
  /-- SYNC.CR completes once drains, write-backs and the cluster voltage are ready, running deterministic entry or exit where DET changes. (R104) -/
  | syncCrComplete (h : Nat)
  /-- SCAN.DONE reports the task status once per release, then consumes a pending wake or enters scan-wait. (R108) -/
  | scanDone (h rs1 : Nat)
  /-- A pending, enabled interrupt is taken at an instruction boundary and control passes to its handler. (R102) -/
  | interruptTake (h : Nat)
  /-- time reaches mtimecmp, stimecmp or vstimecmp and the timer interrupt becomes pending. (R86) -/
  | timerCompare (h : Nat) (t : TimerKind)
  /-- A hart counter overflows with OF = 0, sets OF and raises the counter-overflow interrupt. (R425) -/
  | hpmOverflow (h n : Nat)
  /-- The whole line of a blocking L1 data miss arrives and the stalled access completes. (R134) -/
  | l1MissFill (h : Nat)
  /-- The oldest store-buffer entry is accepted by the L1, local store, L2 or I/O range. (R138) -/
  | storeBufferDrain (h : Nat)
  /-- 256 CoreClk cycles pass with no store draining and the streaming-store detector leaves streaming. (R136) -/
  | streamTimeout (h : Nat)
  /-- A page-table walk read returns and the walk proceeds to the next level, a TLB fill or a fault. (R125) -/
  | walkReadResponse (h : Nat) (r : WalkReply)
  /-- A message from the hub interrupt router reaches a hart's interrupt file and sets its pending bit. (R99) -/
  | interruptMessageDeliver (n : Nat)
  /-- A write of HUB.IPI sends one message to a normal-world file, or sets BAD_WRITE for a reserved target. (R100) -/
  | hubIpiWrite (m : Master) (v : BitVec 32)
  /-- A write of HUB.IPI_SEC sends one message to a hart's secure file. (R100) -/
  | hubIpiSecWrite (m : Master) (v : BitVec 32)
  /-- A write of a route entry is accepted or, for an enabled reserved encoding, left unchanged with BAD_WRITE. (R100) -/
  | routeEntryWrite (m : Master) (v : BitVec 32)
  /-- A write of an APLIC source entry updates it and resends a message for an active level source. (R101) -/
  | aplSrcWrite (m : Master) (k : Nat) (v : BitVec 32)
  /-- A wired interrupt source becomes active and the hub APLIC sends a message. (R101) -/
  | aplicSourceEdge (k : Nat) (active : Bool)
  /-- A write of EVT_MASK changes the mask and sends a router message when the event output is asserted after it. (R100) -/
  | evtMaskWrite (m : Master) (b : Blk) (v : BitVec 32)
  /-- A write to a register that has no row of its own, with guard, width, reserved-encoding, absent-slot and alias checks. (R13) -/
  | registerWrite (m : Master) (a : Nat) (w : Width) (v : BitVec 64)
  /-- A write through the SET, CLEAR or TOGGLE view changes the RW bits written as 1. (R45) -/
  | viewBitWrite (m : Master) (b : Blk) (view : View) (off : Nat) (v : BitVec 32)
  /-- A write to a bit-addressed alias word stores bit 0 into the addressed RW bit. (R49) -/
  | aliasWrite (m : Master) (b : Blk) (r n : Nat) (v : BitVec 32)
  /-- A base-view read of EVT_STAT returns pending events and sequence and sets the block's read flag. (R53) -/
  | evtStatRead (m : Master) (b : Blk)
  /-- A write of EVT_ACK clears the events captured up to the sequence given, or sets STALE_ACK. (R53) -/
  | evtAck (m : Master) (b : Blk) (v : BitVec 32)
  /-- A base-view read of an RC register returns and clears it in one register-port cycle. (R55) -/
  | clearOnRead (m : Master) (b : Blk) (off : Nat)
  /-- A base-view read of HIST_SEQ increments the sequence number and copies the live bins into the snapshot bank. (R56) -/
  | histSeqRead (m : Master)
  /-- A write of HIST_ACK with the current sequence subtracts the snapshot from the live bins; another value sets STALE_ACK. (R56) -/
  | histAck (m : Master) (v : BitVec 32)
  /-- A write of a valid HIST_CFG.SHIFT clears the selected class's live bins and snapshot. (R260) -/
  | histCfgWrite (m : Master) (v : BitVec 32)
  /-- A write of COMMIT.ARM = 1 arms the shadow for the block's next commit point. (R58) -/
  | commitArm (m : Master) (b : Blk)
  /-- A write of COMMIT.DISCARD copies the active settings into the shadow. (R42) -/
  | commitDiscard (m : Master) (b : Blk) (arm : Bool)
  /-- At a block's commit point an armed shadow is checked and applied or refused, and COMMIT_DONE is captured. (R58) -/
  | commitPoint (b : Blk)
  /-- A write of BLK_CTRL.SOFT_RESET returns block-specific registers and the shadow to reset values. (R42) -/
  | softReset (m : Master) (b : Blk)
  /-- The block reset ends and BLK_STAT.READY rises. (R42) -/
  | softResetDone (b : Blk)
  /-- A die's root VCO locks and its derived clocks start. (R61) -/
  | rootLock (d us : Nat)
  /-- Loss of the reference or of root lock in Boot, Run, Shadow or Hold is fatal. (R63) -/
  | refLoss (d : Nat)
  /-- LD_HOLD_MS after unpaired Lockdown entry the hub stops sending OUT_FLIP and takes the barrier down. (R382) -/
  | lockdownHoldExpire
  /-- Every 2^20 GTIME units the hub's sync pulse checks each die's counter and records its deviation. (R72) -/
  | syncPulse (devs : List (Nat × Int))
  /-- The cluster regulator finishes raising the voltage for a committed operating-point change. (R67) -/
  | dvfsRaiseDone (d n : Nat)
  /-- CoreClk switches to the new division at the first aligned GTIME after settling, stalling normal-mode harts briefly. (R67) -/
  | dvfsSwitch (d n : Nat)
  /-- The regulator finishes lowering the voltage; TRANS clears and DVFS_DONE is captured. (R67) -/
  | dvfsLowerDone (d n : Nat)
  /-- VSTBY rising or a brown-out resets the always-on domain, starts GTIME at 0 and samples the straps. (R74) -/
  | powerOnReset (brown : Bool) (st : Straps)
  /-- Every main rail in range in Standby starts Boot: hub lock, configuration choice, base and compute dies, links and memory initialisation. (R77) -/
  | bootStart (f : BootFind)
  /-- HBM3E training and zero-fill complete and the hart image starts loading from the boot source. (R77) -/
  | bootMemoryReady (f : MemFind)
  /-- The hart image is loaded; the hart map is built, BOOT_US written and logical hart 0 released. (R77) -/
  | bootImageLoaded (img : List Byte)
  /-- A hart reset reaches the parked state with its CSRs reset and its L1 written back. (R75) -/
  | hartResetDone (h : Nat)
  /-- A reset die finishes training and checks and is re-admitted, or is fenced again. (R182) -/
  | dieReadmit (d : Nat) (f : ReadmitFind)
  /-- The condition for parking a hart for a spare swap arises and the Warden parks it and copies its state. (R111) -/
  | swapPark (h : Nat)
  /-- No park window for a deterministic hart arises within 1 s and the swap is refused. (R111) -/
  | swapParkTimeout (h : Nat)
  /-- The spare swap finishes, the hart map is rewritten and the hart resumes on the spare. (R109) -/
  | swapComplete (h : Nat)
  /-- A coherent request reaches its home bank and is served, snooped, queued or retried under the directory state. (R168) -/
  | homeRequest (r : CohReq) (e : EccFind)
  /-- An I/O-coherent read or write acts at the home bank, recalling or invalidating L2 copies. (R167) -/
  | ioRequest (m : Master) (line : Nat) (op : IoOp) (pclass : Nat)
  /-- A snoop reaches a cluster L2 and changes the line state, or is held by a latch window. (R166) -/
  | snoop (cl line : Nat)
  /-- A line's latch window ends and the held snoop is honoured. (R173) -/
  | latchWindowEnd (cl line : Nat)
  /-- A snoop answer reaches the home bank, which updates the entry and completes the transaction. (R169) -/
  | snoopResponse (cl line : Nat)
  /-- A retried requester's backoff ends and it resends its request. (R171) -/
  | retryBackoffExpire (cl line : Nat) (e : EccFind)
  /-- A busy entry becomes free and the oldest pending request for it is served. (R172) -/
  | pendingServe (line : Nat) (e : EccFind)
  /-- An L2 write-back of a dirty line arrives at the home and is written to L3, and to both mirror copies. (R166) -/
  | writeBack (cl line : Nat)
  /-- A completion arrives for a hub-issued request and is delivered, or discarded as late when its generation is old. (R157) -/
  | hubCompletion (tag gen : Nat) (v : BitVec 64) (err : Bool)
  /-- A non-posted I/O request's timer expires; it completes with an error, its header is recorded and its generation bumped. (R159) -/
  | ioTimeout (tag : Nat)
  /-- A sleeping domain woken by a packet is awake and its buffered packets are delivered. (R160) -/
  | domainWakeDone (d n : Nat)
  /-- An uncorrectable flit header captures FATAL, writes a record and enters Lockdown. (R178) -/
  | flitHeaderUe (d : Nat)
  /-- A write of DIR.PROBE_CTRL.GO clears DONE and starts a probe of a directory entry. (R168) -/
  | dirProbeGo (m : Master) (d : Nat)
  /-- The probe reads the entry once it is not busy, sets DONE and captures PROBE_DONE. (R168) -/
  | dirProbeDone (d : Nat)
  /-- A Hinge training attempt ends, bringing the link up at the agreed width or failing. (R184) -/
  | hingeTrainAttempt (d i : Nat) (f : TrainFind)
  /-- 100 µs after a failed attempt the Hinge retries, or is fenced after three failures. (R184) -/
  | hingeAttemptRetry (d i : Nat)
  /-- A retrain request reaches a Hinge end and both ends run a full attempt and advance the epoch. (R186) -/
  | retrainRequest (d i : Nat) (f : TrainFind)
  /-- A write of HNG.RECAL.GO starts a recalibration of one module, or is refused. (R189) -/
  | recalGo (m : Master) (d i : Nat) (v : BitVec 32)
  /-- The AUTO_MS interval expires and the Warden starts a module recalibration. (R189) -/
  | recalAuto (d i md : Nat)
  /-- A recalibration ends, returning the module or dropping it. (R189) -/
  | recalDone (d i : Nat) (ok : Bool)
  /-- A Hinge flit fails its CRC and is replayed. (R190) -/
  | hingeCrcFail (d i : Nat)
  /-- More than 64 replays on a module within 1 ms start its recalibration. (R190) -/
  | hingeReplayRate (d i md : Nat)
  /-- A flit fails 8 replays in a row and its module is dropped. (R190) -/
  | hingeReplayExhausted (d i md : Nat)
  /-- A vertical port fails training or reports an uncorrectable error and fences its compute die. (R192) -/
  | verticalPortFail (d : Nat)
  /-- After UCIe link-up the hub reads the site's profile and admits or fences it. (R197) -/
  | openSiteProfileRead (p : BitVec 512)
  /-- A transaction from the open site is checked by the Ward and forwarded, held or treated as a violation. (R201) -/
  | wardTransaction (hdr : BitVec 128) (data : BitVec 2048)
  /-- Every 2^20 GTIME units the hub sends a time message to a site that needs time. (R200) -/
  | openSiteTime
  /-- A DDR5 channel in use loses its link, which is fatal. (R206) -/
  | ddrChannelLoss (c : Nat)
  /-- A stack finishes resynchronising from its partner; home maps return after a base die's stacks finish. (R215) -/
  | resyncDone (st : Nat)
  /-- A write of SCB.CTRL.GO starts a scrub of the range, or sets REFUSED. (R222) -/
  | scrubGo (m : Master) (b : Blk) (v : BitVec 32)
  /-- A write of SCB.CTRL.ABORT stops the scrub after the current line. (R223) -/
  | scrubAbort (m : Master) (b : Blk)
  /-- After its gap the scrubber reads one line, corrects or repairs it and updates its summary. (R223) -/
  | scrubLine (b : Blk) (f : ScrubFind)
  /-- The scrub reaches the end of its range or is aborted and captures SCRUB_DONE. (R223) -/
  | scrubDone (b : Blk)
  /-- A write of FIL.CTRL.GO starts a pattern fill of the target range, or sets ERR. (R218) -/
  | fillGo (m : Master) (v : BitVec 32)
  /-- A write of FIL.CTRL.ABORT stops the fill after the current line. (R218) -/
  | fillAbort (m : Master)
  /-- The fill engine finishes its range and captures FILL_DONE. (R218) -/
  | fillDone
  /-- A regulation window starts: meters clear, capacity changes are applied and held traffic resumes. (R228) -/
  | regulationWindowStart
  /-- A write of BWR.MON_SEL restarts monitoring of a master and resource and clears MON_DEMOTE. (R230) -/
  | monSelWrite (m : Master) (v : BitVec 32)
  /-- At a class boundary segments flip, the sequence advances, tasks are sampled, pushes start and OUT_FLIP is sent. (R248) -/
  | classBoundary
  /-- At the release instant, with pushes written, the engine wakes the task's hart or marks it delayed or skipped. (R251) -/
  | taskRelease
  /-- The last push line of a late task is written and its release proceeds with DELAYED and PUSH_LATE set. (R251) -/
  | delayedRelease
  /-- At a task's deadline it is pulled into the pending output image or handled as a miss. (R253) -/
  | taskDeadline
  /-- A write of SCN.TS_DATA stores a task-store word, or is dropped for an enabled descriptor with DENIED set. (R243) -/
  | tsDataWrite (m : Master) (v : BitVec 64)
  /-- A read of SCN.TS_DATA loads a task-store word and advances OFFSET when INC is set. (R243) -/
  | tsDataRead (m : Master)
  /-- The engine finishes preparing commit checks for a changed TASK_EN bit and CHK_BUSY clears. (R261) -/
  | taskCheckPrepDone
  /-- A write of SPL.DESC_DATA queues a descriptor, or is dropped when the queue is full. (R267) -/
  | descWrite (m : Master) (v : BitVec 32)
  /-- A base-view read of SPL.DESC_DATA returns the descriptor in effect and advances INDEX when INC is set. (R267) -/
  | descRead (m : Master)
  /-- A queued descriptor takes effect at its segment's flip, or at the next TimeClk cycle for an unassigned segment. (R267) -/
  | descQueueApply
  /-- A read through a view window returns the permitted slots and counts denied ones. (R274) -/
  | viewWindowRead (m : Master) (v o size : Nat)
  /-- A write through a view window stores the permitted slots and drops and counts denied ones. (R274) -/
  | viewWindowWrite (m : Master) (v o size : Nat) (x : BitVec 64) (be : BitVec 8)
  /-- The DMA engine issues a view's slot lines and log entries, paced per regulation window. (R278) -/
  | viewDmaLineIssue
  /-- Every slot line is accepted and the header is written again with COMPLETE set. (R277) -/
  | viewDmaComplete
  /-- A DMA translation or address fails; the buffer is dropped, FAULT recorded and the view's DMA suspended. (R280) -/
  | viewDmaFault
  /-- A write of VIEW_CTRL.RESET advances the view's generation and clears its log counters and suspension. (R283) -/
  | viewReset (m : Master)
  /-- A write of VIEW_CTRL.RESUME clears DMA_SUSP. (R280) -/
  | viewResume (m : Master)
  /-- A write of 0 to VIEW_CTRL.LOG_OVF clears the overflow flag. (R282) -/
  | logOvfClear (m : Master)
  /-- A write of LOG_CONS advances the consumer count, or is ignored with BAD_WRITE when out of range. (R281) -/
  | logConsWrite (m : Master) (v : BitVec 32)
  /-- A write of SPL.CTX_INV starts invalidating cached view DMA translations. (R279) -/
  | splCtxInv (m : Master) (v : BitVec 32)
  /-- The view DMA translation invalidation ends and BUSY clears. (R279) -/
  | splCtxInvDone
  /-- A LINK frame acknowledges received frames and returns credits. (R291) -/
  | link
  /-- A RETRY frame makes the sender replay from the named SEQ. (R291) -/
  | retry
  /-- More than 16 replays within 1 ms take the barrier down. (R291) -/
  | barrierReplayLimit
  /-- An IN_LINE frame writes samples of one line into the pending input image. (R269) -/
  | inLine
  /-- An OUT_LINE frame gives the field die the next output values of one line. (R298) -/
  | outLine
  /-- A SAFE_LINE frame refreshes the field die's copy of one safe-image line. (R299) -/
  | safeLine
  /-- An OUT_FLIP makes the field die adopt received lines as current output, or the safe copy in Hold, and send CYC_OUT. (R298) -/
  | outFlip
  /-- A SEG_MAP frame gives the field die one word of the segment-to-class map. (R290) -/
  | segMap
  /-- A TIME frame, sent every 2^20 GTIME units, makes the field die slew its time counter. (R294) -/
  | barrierTime (dev : Int)
  /-- An access to die ID 24 is sent as REG_RD and the field die reads the register. (R293) -/
  | regRd
  /-- A REG_WR frame writes a field-die register in issue order. (R293) -/
  | regWr
  /-- A REG_RSP frame completes the hub's read, or is discarded as late. (R293) -/
  | regRsp
  /-- A field-die register read without response for 100 µs completes with an error. (R293) -/
  | fldRegTimeout (tag : Nat)
  /-- An EVENT frame updates the hub's copy of an FLD instance's event output. (R293) -/
  | fldEvent
  /-- A WATCH_WAKE frame reaches the always-on host side and wakes the package. (R308) -/
  | watchWake
  /-- A FW_DATA frame writes part of an image into the field die's unused bank. (R310) -/
  | fwData (err : Bool)
  /-- A FW_ACK frame reports whether an image block was written. (R415) -/
  | fwAck
  /-- A barrier channel fails, the barrier goes down and LINK_DOWN is captured. (R288) -/
  | barrierChannelFail
  /-- Every 10 ms while down each side tries to train the barrier and resends SEG_MAP and SAFE_LINE once up. (R292) -/
  | barrierTrainAttempt (mask : Nat)
  /-- At the pre-send instant the host sends OUT_LINE for every refreshed or forced output line of the class. (R298) -/
  | presend (c : Nat)
  /-- A node HELLO is matched against the admission table, admitting the session or announcing the node. (R301) -/
  | fieldHello (p node req inL outL boot : Nat)
  /-- A CYC_IN of the current generation makes the session Cyclic and sends IN_LINE frames; others are dropped. (R302) -/
  | cycIn (p n gen lines : Nat) (slots : List Nat)
  /-- A BYE from the node removes the session. (R302) -/
  | bye (p n gen : Nat)
  /-- A session stays in Lost for LOST_TMO ms and is removed. (R302) -/
  | sessionLostTimeout (n : Nat)
  /-- At the next frame boundary a Removed session sends invalid IN_LINE frames and returns to Unknown. (R302) -/
  | sessionRemovedCleanup (n : Nat)
  /-- An announce record sees no HELLO for 1 s and is dropped. (R302) -/
  | announceExpire (i : Nat)
  /-- With the barrier down the field die counts a class boundary itself and applies the Lost and Removed rows. (R302) -/
  | fieldLocalBoundary (c : Nat)
  /-- An 802.1AS announcement arrives; a better grandmaster makes the port passive and captures GM_LOST. (R296) -/
  | gmAnnounce (p prio : Nat) (tie : Bool)
  /-- Every sync interval a master port sends an 802.1AS sync message. (R296) -/
  | ptpSyncSend (p : Nat)
  /-- A field port's link goes up or down and its 802.1AS role follows. (R295) -/
  | fieldPortLinkChange (p : Nat) (up : Bool)
  /-- Every PERIOD_MS in Watch the watch engine wakes and sends POLL to watched sessions. (R306) -/
  | watchWakeTimer
  /-- The 2 ms poll wait ends and the watch points are evaluated for crossings. (R307) -/
  | watchPollTimeout
  /-- The field die finishes restarting from its new bank and FW_DONE is captured, or reverts. (R310) -/
  | fieldFwRestartDone (ok : Bool)
  /-- VFLD_3V3 leaves its range; the field die is held in reset and the barrier goes down. (R286) -/
  | vfldOutOfRange
  /-- VFLD_3V3 returns; the field die starts its firmware and trains the barrier. (R286) -/
  | vfldInRange
  /-- A write of HUB.SREG_LO buffers the low word of a secure region. (R319) -/
  | sregLoWrite (m : Master) (v : BitVec 32)
  /-- A write of HUB.SREG_HI updates the region in one step and starts propagation with BUSY set. (R319) -/
  | sregHiWrite (m : Master) (v : BitVec 32)
  /-- The region change reaches every table copy and BUSY clears. (R319) -/
  | sregPropagateDone
  /-- A write of HUB.DBG_CTRL changes the debug enables, resuming harts whose invasive enable goes off. (R327) -/
  | dbgCtrlWrite (m : Master) (v : BitVec 32)
  /-- A debugger halt request halts the hart, or stays pending until its world's enable is in effect. (R326) -/
  | debugHaltRequest (h : Nat)
  /-- A resume from debug mode returns the hart, possibly to a lower privilege leaving the secure world. (R312) -/
  | debugResume (h : Nat)
  /-- A system-bus or abstract debug access is performed, or fails with a KIND 6 secure event. (R326) -/
  | debugAbstractAccess (h : Nat) (op : DbgOp)
  /-- A host configuration request is answered, or retried with RRS until SEP is enabled. (R330) -/
  | hostConfigRequest (tag : Nat) (q : HostCfg)
  /-- A host request to BAR2 or BAR4 is matched to a window and served, or refused with UR. (R334) -/
  | hostWindowRequest (tag bar_ off len : Nat) (data : Option (List Byte)) (ep : Bool)
  /-- A host write to a BAR0 doorbell sets its DB_PEND bit and captures DOORBELL. (R331) -/
  | doorbellWrite (n : Nat)
  /-- A write setting WIN_CTRL.EN enables a window or is refused with REFUSED set. (R335) -/
  | sepWinEnable (m : Master) (w : Nat) (v : BitVec 32)
  /-- A host completion for an outbound read is delivered, or discarded as late or of an old generation. (R338) -/
  | hostCompletion (tag gen status : Nat) (v : BitVec 64) (ep : Bool)
  /-- An outbound read's timer expires; the load faults and AER reports a Completion Timeout. (R338) -/
  | sepReadTimeout (tag : Nat)
  /-- A write of HOST_IRQ.VECTOR sends an MSI-X vector or sets its pending bit. (R340) -/
  | hostIrqVector (m : Master) (n : Nat)
  /-- A write of HOST_IRQ.PME sends a PME message in D3hot or drives WAKE# while PERST# is asserted. (R344) -/
  | hostIrqPme (m : Master)
  /-- A pending MSI-X vector is sent once unmasked and the function can send. (R340) -/
  | msixPendingSend
  /-- Bus Master Enable goes to 0; outstanding reads end ABORTED and the generation advances. (R342) -/
  | bmeClear
  /-- Initiate Function Level Reset advances the generation and resets the function's configuration state. (R343) -/
  | flr
  /-- The function level reset completes and FLR is captured. (R343) -/
  | flrDone
  /-- PERST# assertion runs the function reset steps and applies BAR_CFG. (R343) -/
  | perstAssert
  /-- A hot reset runs the function reset steps and applies BAR_CFG. (R343) -/
  | hotReset
  /-- The endpoint link goes to DL_Down and the function generation advances. (R341) -/
  | sepLinkDown
  /-- The function changes D-state and DSTATE is captured. (R344) -/
  | dstateChange (d3 : Bool)
  /-- A root-port device request is translated by its device context and served or failed. (R349) -/
  | deviceRequest (p link rid a len : Nat) (data : Option (List Byte)) (ep : Bool)
  /-- A device write to MSI_ADDR becomes an interrupt message to the router. (R350) -/
  | deviceMsi (p link rid data : Nat)
  /-- A device INTx message drives the corresponding APLIC wired source. (R347) -/
  | intxMessage (p x : Nat) (on : Bool)
  /-- A root-port completion reaches the hart, or is discarded as late or of an old generation. (R348) -/
  | rcxCompletion (p tag gen status : Nat) (v : BitVec 64) (ep : Bool)
  /-- A root-port link goes to DL_Down; its generation advances and outstanding reads fail. (R348) -/
  | rcxLinkDown (p l : Nat)
  /-- A write of LINK_CFG.HOLD takes every link of the port down, allowing MODE to change. (R346) -/
  | rcxHoldWrite (m : Master) (p : Nat) (v : BitVec 32)
  /-- A write of RCX.CTX_INV starts invalidating cached contexts and translations. (R349) -/
  | rcxCtxInv (m : Master) (p : Nat) (v : BitVec 32)
  /-- The device-context invalidation ends and BUSY clears. (R349) -/
  | rcxCtxInvDone (p : Nat)
  /-- A Yilust port trains at full width and rate within the round-trip limit and comes up. (R353) -/
  | ylkLinkUp (p rtt : Nat) (full : Bool)
  /-- Every 10 ms a held-down Yilust port retries training. (R353) -/
  | ylkTrainRetry (p : Nat)
  /-- A Yilust port goes down and its generation advances. (R366) -/
  | ylkLinkDown (p : Nat)
  /-- More than 16 replays within 1 ms take the Yilust port down. (R353) -/
  | ylkReplayLimit (p : Nat)
  /-- Every 10 ms each up port sends HELLO. (R358) -/
  | ylkHelloTimer
  /-- A HELLO updates membership, parent choice and distance, and the manager records or refuses the sender. (R358) -/
  | ylkHello (m : YHdr) (gt : Nat) (sel : Bool) (role mgr dist var serial : Nat)
  /-- A LEAVE drops the member, or refuses the receiving package with its reason. (R359) -/
  | ylkLeave (m : YHdr) (reason : Nat)
  /-- No HELLO names a manager within 100 ms and the lowest MGR_SEL package becomes manager. (R358) -/
  | managerElectTimeout
  /-- The manager hears no HELLO from a member for 50 ms and drops it. (R359) -/
  | memberTimeout (n : Nat)
  /-- A member's parent port names no live manager for 100 ms; it is orphaned or a standby becomes manager. (R360) -/
  | orphanTimeout
  /-- Every 2^16 GTIME units a parent sends TIME to its children. (R361) -/
  | ylkTimeTimer
  /-- A TIME message makes the child compare its GTIME and slew, capturing TIME_DEV on large deviation. (R361) -/
  | ylkTime (m : YHdr) (t : Nat)
  /-- Every 2^20 GTIME units the child sends DELAY_REQ. (R361) -/
  | ylkDelayTimer
  /-- A DELAY_REQ makes the parent answer with DELAY_RSP. (R361) -/
  | delayReq (m : YHdr) (t : Nat)
  /-- A DELAY_RSP gives the child its one-way link delay. (R361) -/
  | delayRsp (m : YHdr) (sent got : Nat)
  /-- A catch-up reaches within 1,024 units of the target and normal slewing resumes. (R362) -/
  | catchupDone
  /-- Every 1 s, and on a change, the manager sends SETTINGS. (R363) -/
  | settingsTimer
  /-- A SETTINGS message is compared with the member's active settings and MISMATCH captured on a difference. (R363) -/
  | settings (m : YHdr) (epoch : Nat) (cfg : List Nat)
  /-- A Yilust IRQ sends one message to a normal-world file, if permitted. (R367) -/
  | ylkIrq (m : YHdr) (hart file ident : Nat)
  /-- A Yilust WR is written through an inbound window or refused, and answered by CPL. (R364) -/
  | ylkWr (m : YHdr) (gen tag o aux : Nat) (data : List Line)
  /-- A CPL completes a copy-engine write, setting ERR on failure or discarding a late completion. (R365) -/
  | ylkCpl (m : YHdr) (gen tag status : Nat)
  /-- A write of COPY_CTRL.GO starts the copy engine. (R365) -/
  | copyGo (m : Master) (p : Nat)
  /-- A write of COPY_CTRL.ABORT advances the port generation and ends the copy with ERR. (R366) -/
  | copyAbort (m : Master) (p : Nat)
  /-- A PAIR_REQ makes the manager replicate its images, descriptors, sessions and outputs to the standby. (R368) -/
  | pairReq (m : YHdr)
  /-- A PAIR_ACK makes both ends paired. (R368) -/
  | pairAck (m : YHdr)
  /-- Every 4 µs without other traffic each pair member sends ALIVE. (R369) -/
  | aliveTimer
  /-- An ALIVE marks the partner as not silent. (R369) -/
  | alive (m : YHdr)
  /-- A replicated output line is buffered at the standby, or dropped if it arrives too late. (R369) -/
  | replLine (m : YHdr) (c k line : Nat) (slots : List Nat)
  /-- A replicated safe or force line is written at the standby on arrival. (R370) -/
  | replImg (m : YHdr) (force : Bool) (line : Nat) (slots : List Nat)
  /-- Replicated descriptors are queued at the standby on arrival. (R370) -/
  | replDesc (m : YHdr) (ds : List (Nat × Nat))
  /-- Replicated session records update the standby's field die sessions. (R370) -/
  | replSess (m : YHdr) (rs : List (Nat × Nat × Nat × Nat))
  /-- A REPL_END gives the standby the line count of a class's scan. (R371) -/
  | replEnd (m : YHdr) (c k count : Nat)
  /-- At the cut-off the standby sends GRANT, or withholds it and takes over. (R371) -/
  | grantCutoff (c : Nat)
  /-- A GRANT received before the boundary lets the manager drive it. (R371) -/
  | grant (m : YHdr) (c b : Nat)
  /-- A HANDOVER makes the standby withhold the named boundary's grant and take over. (R374) -/
  | handover (m : YHdr) (c b : Nat)
  /-- A YIELD tells the standby that the manager has stopped driving. (R371) -/
  | yield (m : YHdr)
  /-- A TAKEOVER tells the old manager that its partner now drives. (R372) -/
  | takeover (m : YHdr)
  /-- The mailbox MODE command requests a mode transition, answered ACCEPTED, DENIED, BUSY or UNSUPPORTED. (R377) -/
  | mode (c : Nat)
  /-- POWER_FAIL# is asserted; the final record is written and lifetime counters saved until the rails fall. (R410) -/
  | powerFailAssert
  /-- The main rails are still in range 100 ms after POWER_FAIL# and the Warden enters Standby. (R432) -/
  | powerFailTimeout
  /-- The last main rail has been in range for 1 ms with POWER_FAIL# deasserted, starting Boot. (R431) -/
  | mainRailsInRange
  /-- A main rail stays below range for 20 µs: Standby after POWER_FAIL#, otherwise fatal. (R429) -/
  | mainRailOutOfRange
  /-- VSTBY leaves its range and the package goes Off. (R377) -/
  | vstbyOutOfRange
  /-- An overload or low VSTBY in low-power mode causes a brown-out reset of the always-on domain. (R386) -/
  | brownout (st : Straps)
  /-- REFCLK is absent or out of tolerance; REF_OK clears, and in Standby or Watch a 1 µs absence is a brown-out. (R434) -/
  | refclkAbsent (st : Straps)
  /-- A write of PWR.DOM_CTRL.REQ asks a domain to sleep or wake, answered busy, denied or pending. (R384) -/
  | domCtrlRequest (m : Master) (d n req : Nat)
  /-- The domain reaches its requested state and DOM_DONE is captured. (R384) -/
  | domainStateReached (d n : Nat)
  /-- A falling edge on GPIO line 0 in Standby or Watch drives WAKE# low. (R385) -/
  | gpio0WakeEdge
  /-- A write of 0x57 to the I3C WAKE register is the wake command. (R436) -/
  | i3cWake
  /-- Every 100 µs die sensors are read and CoreClk forcing starts or ends at THROT and hysteresis. (R390) -/
  | thermalSample (temps : List (Nat × Int))
  /-- Every 100 µs main-rail power is sampled and power limiting starts or ends. (R392) -/
  | powerSample (w : Nat)
  /-- The INFO command returns firmware, configuration and power-cycle information. (R400) -/
  | info (c : Nat)
  /-- The CL_LEAVE command sends LEAVE on every up Yilust port. (R359) -/
  | clLeave (c : Nat)
  /-- The HART_START command starts a parked hart in M-mode at the given address. (R312) -/
  | hartStart (c : Nat)
  /-- The HART_PARK command parks a hart, deferred while it is secure. (R400) -/
  | hartPark (c : Nat)
  /-- The HART_RESET command resets a hart, subject to deferral, refusal and superseding rules. (R76) -/
  | hartReset (c : Nat)
  /-- The SWAP command requests a spare-core swap of a hart, choosing or validating the spare. (R110) -/
  | swap (c : Nat)
  /-- The FENCE command fences a die, Hinge or stack if allowed, draining and rerouting as needed. (R181) -/
  | fenceCommand (c : Nat)
  /-- The DIE_RESET command fences a die in service or resets and re-admits a fenced one. (R400) -/
  | dieReset (c : Nat)
  /-- The WARM_RESET command resets the package, keeping memory in self-refresh and the hart map. (R79) -/
  | warmReset (c : Nat)
  /-- The FW_STAGE command checks an image and writes it to the unused Warden or field-die bank. (R415) -/
  | fwStage (c : Nat)
  /-- The FW_SWITCH command checkpoints, records and restarts the target from its new bank. (R416) -/
  | fwSwitch (c : Nat)
  /-- New Warden firmware declares itself healthy; FW_SWITCH ends ACCEPTED. (R416) -/
  | fwHealthy
  /-- New firmware is not healthy within 1 s; the old bank is restarted and FW_SWITCH ends REFUSED. (R416) -/
  | fwHealthTimeout
  /-- The CFG_READ command copies part of a configuration copy to memory. (R400) -/
  | cfgRead (c : Nat)
  /-- The CFG_STAGE command copies new content into the configuration copy not in use. (R405) -/
  | cfgStage (c : Nat)
  /-- The CFG_COMMIT command sets the hart map, SEQ and CRC, validates the copy and makes it in use. (R405) -/
  | cfgCommit (c : Nat)
  /-- The LBX_READ command returns a Lockbox ring record. (R411) -/
  | lbxRead (c : Nat)
  /-- The SEAL_READ command returns a sealed slot's record. (R411) -/
  | sealRead (c : Nat)
  /-- The SEAL_CLEAR command frees every sealed slot. (R409) -/
  | sealClear (c : Nat)
  /-- The LIFE_READ command returns lifetime counter values. (R412) -/
  | lifeRead (c : Nat)
  /-- The FUSE command irreversibly blows the selected debug fuses. (R325) -/
  | fuse (c : Nat)
  /-- The Warden's two cores disagree and the Warden restarts. (R396) -/
  | lockstepMismatch
  /-- Warden SRAM returns an uncorrectable byte and the Warden restarts. (R396) -/
  | wardenSramUe
  /-- The Warden watchdog goes unserved for 100 ms and the Warden restarts. (R396) -/
  | watchdogExpire
  /-- New firmware serves the mailbox again and latched events are acted on in order. (R413) -/
  | managementPauseEnd
  /-- A queued Lockbox record is written to its ring slot, or a records-lost record after overflow. (R408) -/
  | lockboxRecordWrite
  /-- Every 60 s the Warden writes a lifetime-counter checkpoint to the alternate bank. (R412) -/
  | lifetimeCheckpoint
  /-- A write of LBX.RD_SEQ starts loading a ring record into LBX.REC. (R411) -/
  | lbxRdSeqWrite (m : Master) (v : BitVec 32)
  /-- A write of LBX.RD_SLOT starts loading a sealed slot into LBX.REC. (R411) -/
  | lbxRdSlotWrite (m : Master) (v : BitVec 32)
  /-- The record load ends with VALID or GONE and BUSY clears. (R411) -/
  | lbxLoadDone
  /-- A block counter wraps, sets OVF, records OVF_SRC and captures OVF. (R419) -/
  | counterOverflow (b : Blk) (i : Nat)
  /-- A 64-bit read of CNT_LO returns and clears a counter, copying a chained odd counter into HOLD. (R420) -/
  | chainedCounterRead (m : Master) (i : Nat)
  /-- A write of SNAP_CTL.ARM arms the gatherer for SNAP_TIME. (R422) -/
  | snapArm (m : Master)
  /-- At SNAP_TIME every block copies its counters into its snapshot bank. (R422) -/
  | snapshotCopy
  /-- Every snapshot bank is written and SNAP_DONE is captured. (R422) -/
  | snapDone
  /-- A bandwidth monitor window ends, its counts become readable and counting restarts. (R423) -/
  | bwWindowStart (m : Nat)
  /-- POWER_FAIL# is deasserted while the main rails are in range, and Boot begins at the next B. (R431) -/
  | powerFailDeassert
  /-- PERST# is deasserted; WAKE# is released, the endpoint link may train and the 1 s ENABLE deadline of R330 starts. (R344) -/
  | perstDeassert
  /-- The endpoint link finishes training and its data link comes up, setting SEP.STAT.LINK_UP. (R330) -/
  | sepLinkUp (speed width : Nat)
  /-- A root-port link finishes training and comes up, setting its RCX.LINK_CFG.UP bit. (R348) -/
  | rcxLinkUp (p l : Nat)
  /-- A whole-L2 clean or flush visits its last set, BUSY clears and L2_OP_DONE is captured. (R147) -/
  | l2OpDone (d i : Nat)
  /-- A barrier frame with a bad CRC, an unexpected SEQ or an unlisted or wrong-direction type is discarded, counted, and RETRY is sent where required. (R291) -/
  | badBarrierFrame (toHost crc : Bool)
  /-- Every 100 ns while a frame is unacknowledged, each barrier end sends a LINK frame. (R291) -/
  | barrierLinkTimer
  /-- A Yilust flit fails its CRC, is replayed, and the failure and replay are counted. (R353) -/
  | ylkCrcFail (p : Nat)
  /-- 1 ms after a paired manager's barrier goes down, the Warden sends HANDOVER. (R374) -/
  | barrierLossHandover
  /-- A passive field port stops receiving the other grandmaster's announcements and returns to the master role. (R296) -/
  | announcementsStop (p : Nat)
  /-- A package warm reset is requested through JTAG, including exit from Lockdown (RST_CAUSE 0x3 or 0x4). (R377) -/
  | jtagWarmReset
  /-- An image written through JTAG completes, letting the Warden loader start or Boot step 8 proceed with BOOT_SRC 0b01. (R395) -/
  | jtagImageWritten (fw : Bool) (ver crc : Nat)
  /-- A device's PCI Express error message reaches a root port and AER is captured. (R347) -/
  | deviceErrorMessage (p link : Nat)
  /-- A main rail is sensed below its range for at least 100 ns and the droop is counted in lifetime counter group 2. (R429) -/
  | supplyDroop (r : Nat)
deriving DecidableEq, Repr

end Sys2Proof
end

