-- ==== Sys2Proof/Decode.lean ====
section
/-! DEFINITION. The words of commands. The table of this hardware gives no row any bits: its commands are register accesses, events
and messages, not encoded words. So no word spells a command. -/
namespace Sys2Proof

/-- The command that a word spells by the table's bits: none, for the table gives no bits. -/
def decodeTableWord (_nbits _w : Nat) : Option Instr := none

end Sys2Proof
end

