-- ==== Sys2Proof/Config.lean ====
section
/-! DEFINITION. What the spec leaves open, as constants without a body: nothing in Lean can evaluate them, so whatever
is proved holds for every value. A counter in the state (`State.free`) gives each draw an argument of its own. -/
namespace Sys2Proof

/-- A value the spec leaves undefined, one for each draw (assumption log 1). -/
opaque Config.freeValue : Nat → Nat

/-- The cycles of an operand-dependent operation in normal mode, within the range that R94 gives (assumption log 3). -/
opaque Config.cycles : Nat → Word → Word → Nat

/-- What BLK_CAP.FEAT of a block type shows of an effective capability vector (R42, R193; assumption log 8). -/
opaque Config.feat : Nat → Nat → Nat

/-- The hub serial that HELLO carries (R355): a fused number of the part, which the spec does not give. -/
opaque Config.hubSerial : Nat

end Sys2Proof
end

