-- ==== Sys2Proof/Machine/Store.lean ====
section
/-! DEFINITION. The operations of the sparse container `Map`, the bytes of a memory held in it, and the type of a
register field. -/
namespace Sys2Proof.Machine

/-- The value listed under key `k`, if any. -/
def mfind {β : Type} (m : Map β) (k : Nat) : Option β :=
  match m with
  | [] => none
  | e :: r => if e.1 = k then some e.2 else mfind r k

/-- The value under key `k`, or the default `d` of an unlisted key. -/
def mget {β : Type} (d : β) (m : Map β) (k : Nat) : β := (mfind m k).getD d

/-- `m` with key `k` holding `v`; a rising list of keys stays rising. -/
def mput {β : Type} (m : Map β) (k : Nat) (v : β) : Map β :=
  match m with
  | [] => [(k, v)]
  | e :: r => if k < e.1 then (k, v) :: e :: r else if k = e.1 then (k, v) :: r else e :: mput r k v

/-- `m` with key `k` unlisted. -/
def mdel {β : Type} (m : Map β) (k : Nat) : Map β := m.filter (fun e => e.1 != k)

/-- `m` with every key that `p` holds of unlisted. -/
def mdrop {β : Type} (m : Map β) (p : Nat → Bool) : Map β := m.filter (fun e => !p e.1)

/-- The keys rise strictly. -/
def mrising {β : Type} : Map β → Bool
  | [] => true
  | [_] => true
  | a :: b :: r => decide (a.1 < b.1) && mrising (b :: r)

/-- A byte of a memory; a byte that nothing has written reads 0 (R74: zero-filled). -/
def byteAt (m : Map Byte) (a : Nat) : Byte := mget 0 m a

/-- `m` with byte `a` holding `b`. The canonical form lists no zero byte, so writing 0 unlists the address. -/
def putByte (m : Map Byte) (a : Nat) (b : Byte) : Map Byte := if b = 0 then mdel m a else mput m a b

/-- The canonical form of a memory: addresses strictly rising and no listed byte equal to what an unlisted one reads. -/
def memWf (m : Map Byte) : Bool := mrising m && m.all (fun e => e.2 != 0)

/-- The `n` bytes at `a`, the lowest address in the lowest byte of the number (little-endian, R80). -/
def readBytes (m : Map Byte) (a : Nat) : Nat → Nat
  | 0 => 0
  | n + 1 => (byteAt m a).toNat + 256 * readBytes m (a + 1) n

/-- `m` with the `n` bytes at `a` holding the number `v`, little-endian. -/
def writeBytes (m : Map Byte) (a : Nat) : Nat → Nat → Map Byte
  | 0, _ => m
  | n + 1, v => writeBytes (putByte m a (BitVec.ofNat 8 v)) (a + 1) n (v / 256)

/-- `m` with those of the `n` bytes at `a` whose bit of `mask` is set holding the number `v`, little-endian. -/
def writeMasked (m : Map Byte) (a : Nat) : Nat → Nat → Nat → Map Byte
  | 0, _, _ => m
  | n + 1, mask, v =>
    writeMasked (if mask % 2 = 1 then putByte m a (BitVec.ofNat 8 v) else m) (a + 1) n (mask / 2) (v / 256)

/-- `m` with every byte of `[lo, lo + n)` zero. -/
def zeroBytes (m : Map Byte) (lo n : Nat) : Map Byte := mdrop m (fun a => decide (lo ≤ a) && decide (a < lo + n))

/-- Bits `[hi:lo]` of a number. -/
def bits (v hi lo : Nat) : Nat := (v / 2 ^ lo) % 2 ^ (hi + 1 - lo)

/-- Bit `n` of a number. -/
def bit (v n : Nat) : Bool := (v / 2 ^ n) % 2 = 1

/-- A Bool as the bit that encodes it. -/
def b2n (b : Bool) : Nat := if b then 1 else 0

/-- A number below the saturation value `top` rises by one; at `top` it stays. -/
def satInc (top v : Nat) : Nat := if v < top then v + 1 else top

/-- A set of numbers as a list without repeats, kept rising. -/
def sIns (l : List Nat) (n : Nat) : List Nat :=
  match l with
  | [] => [n]
  | a :: r => if n < a then n :: a :: r else if n = a then a :: r else a :: sIns r n

/-- A set without `n`. -/
def sDel (l : List Nat) (n : Nat) : List Nat := l.filter (fun a => a != n)

/-- The access codes of R12. -/
inductive Acc where
  | rw | ro | wo | rc | sq
deriving DecidableEq, Repr

/-- Where a register of a block type exists: everywhere the block does, on die 0, on the base dies 1-4, on the compute
dies, or in named instances only. -/
inductive Loc where
  | any | die0 | base | comp | inst (n : Nat) | ports
deriving DecidableEq, Repr

/-- One field of a register (R11): its block type, the offset of its register, the stride and number of elements of a
register array, its bits, its access code, whether it is shadowed (CM), machine-mode only (MO) or secure only (SC),
its reset value and where the register exists. -/
structure Field where
  typ : Nat
  off : Nat
  stride : Nat
  cnt : Nat
  hi : Nat
  lo : Nat
  acc : Acc
  cm : Bool
  mo : Bool
  sc : Bool
  rst : Nat
  loc : Loc
deriving DecidableEq, Repr

end Sys2Proof.Machine
end

