-- ==== Sys2Proof/Machine/RegTable.lean ====
section
/-! DEFINITION. The register fields of the package, one constant per field named as the manual names it
(BLOCK.REGISTER.FIELD, R10), taken row by row from the register tables of the spec: the offset within the block
page, the stride and number of elements of a register array, the bits, the access code of R12, the guards and the
reset value (R11). Where the table says "per boot", "per die" or "fuse", the constant holds 0 and
`fieldReset` (Machine/Blocks.lean) or the boot sequence gives the value. -/
namespace Sys2Proof.Machine

def GRD.DENY_CNT.COUNT : Field := ⟨6, 0x040, 0, 1, 31, 0, .rc, false, true, false, 0, .any⟩
def GRD.WIDTH_CNT.COUNT : Field := ⟨6, 0x044, 0, 1, 31, 0, .rc, false, true, false, 0, .any⟩
def GRD.UNMAP_CNT.COUNT : Field := ⟨6, 0x048, 0, 1, 31, 0, .rc, false, true, false, 0, .any⟩
def GRD.ABSENT_CNT.COUNT : Field := ⟨6, 0x04c, 0, 1, 31, 0, .rc, false, true, false, 0, .any⟩
def GRD.LAST_ADDR_LO.ADDR : Field := ⟨6, 0x050, 0, 1, 31, 0, .ro, false, true, false, 0, .any⟩
def GRD.LAST_ADDR_HI.ADDR : Field := ⟨6, 0x054, 0, 1, 15, 0, .ro, false, true, false, 0, .any⟩
def GRD.LAST_INFO.MASTER : Field := ⟨6, 0x058, 0, 1, 31, 24, .ro, false, true, false, 0, .any⟩
def GRD.LAST_INFO.HART : Field := ⟨6, 0x058, 0, 1, 23, 16, .ro, false, true, false, 255, .any⟩
def GRD.LAST_INFO.VIRT : Field := ⟨6, 0x058, 0, 1, 10, 10, .ro, false, true, false, 0, .any⟩
def GRD.LAST_INFO.PRIV : Field := ⟨6, 0x058, 0, 1, 9, 8, .ro, false, true, false, 0, .any⟩
def GRD.LAST_INFO.KIND : Field := ⟨6, 0x058, 0, 1, 4, 2, .ro, false, true, false, 0, .any⟩
def GRD.LAST_INFO.WRITE : Field := ⟨6, 0x058, 0, 1, 1, 1, .ro, false, true, false, 0, .any⟩
def GRD.LAST_INFO.SECURE : Field := ⟨6, 0x058, 0, 1, 0, 0, .ro, false, true, false, 0, .any⟩
def CLK.GTIME_LO.TIME : Field := ⟨4, 0x040, 0, 1, 31, 0, .ro, false, false, false, 0, .any⟩
def CLK.GTIME_HI.TIME : Field := ⟨4, 0x044, 0, 1, 31, 0, .ro, false, false, false, 0, .any⟩
def CLK.PLL_STAT.LOCK_US : Field := ⟨4, 0x048, 0, 1, 15, 8, .ro, false, false, false, 0, .any⟩
def CLK.PLL_STAT.REF_OK : Field := ⟨4, 0x048, 0, 1, 1, 1, .ro, false, false, false, 1, .any⟩
def CLK.PLL_STAT.LOCK : Field := ⟨4, 0x048, 0, 1, 0, 0, .ro, false, false, false, 1, .any⟩
def CLK.SYNC_STAT.SYNCED : Field := ⟨4, 0x04c, 0, 1, 31, 31, .ro, false, false, false, 0, .any⟩
def CLK.SYNC_STAT.DEV : Field := ⟨4, 0x04c, 0, 1, 23, 16, .ro, false, false, false, 0, .any⟩
def CLK.SYNC_STAT.SLEW_CNT : Field := ⟨4, 0x04c, 0, 1, 15, 0, .rc, false, false, false, 0, .any⟩
def CLK.CLU_CFG.DET_FLOOR : Field := ⟨4, 0x050, 4, 6, 2, 2, .rw, true, true, false, 0, .comp⟩
def CLK.CLU_CFG.DIV : Field := ⟨4, 0x050, 4, 6, 1, 0, .rw, true, true, false, 1, .comp⟩
def CLK.CLU_STAT.TRANS : Field := ⟨4, 0x068, 4, 6, 7, 7, .ro, false, false, false, 0, .comp⟩
def CLK.CLU_STAT.THROTTLED : Field := ⟨4, 0x068, 4, 6, 6, 6, .ro, false, false, false, 0, .comp⟩
def CLK.CLU_STAT.VLEVEL : Field := ⟨4, 0x068, 4, 6, 5, 4, .ro, false, false, false, 1, .comp⟩
def CLK.CLU_STAT.DIV : Field := ⟨4, 0x068, 4, 6, 1, 0, .ro, false, false, false, 1, .comp⟩
def CLK.RST_CAUSE.WARM_CNT : Field := ⟨4, 0x080, 0, 1, 31, 24, .ro, false, true, false, 0, .die0⟩
def CLK.RST_CAUSE.BROWNOUT : Field := ⟨4, 0x080, 0, 1, 4, 4, .ro, false, true, false, 0, .die0⟩
def CLK.RST_CAUSE.CAUSE : Field := ⟨4, 0x080, 0, 1, 3, 0, .ro, false, true, false, 0, .die0⟩
def CLK.BOOT_US.TIME : Field := ⟨4, 0x084, 0, 1, 31, 0, .ro, false, false, false, 0, .die0⟩
def HUB.ROUTE_SEL.DIE : Field := ⟨1, 0x100, 0, 1, 29, 24, .rw, false, true, false, 0, .any⟩
def HUB.ROUTE_SEL.SLOT : Field := ⟨1, 0x100, 0, 1, 15, 0, .rw, false, true, false, 0, .any⟩
def HUB.ROUTE.ENTRY : Field := ⟨1, 0x104, 0, 1, 31, 0, .rw, false, true, false, 0, .any⟩
def HUB.IPI.MSG : Field := ⟨1, 0x108, 0, 1, 23, 0, .wo, false, false, false, 0, .any⟩
def HUB.IPI_SEC.MSG : Field := ⟨1, 0x10c, 0, 1, 23, 0, .wo, false, false, true, 0, .any⟩
def HUB.APL_SRC.ENTRY : Field := ⟨1, 0x180, 4, 32, 31, 0, .rw, false, true, false, 0, .any⟩
def HCL.L2_OP.BUSY : Field := ⟨17, 0x040, 0, 1, 31, 31, .ro, false, false, false, 0, .any⟩
def HCL.L2_OP.OP : Field := ⟨17, 0x040, 0, 1, 3, 0, .rw, false, true, false, 0, .any⟩
def HCL.CE_L1.COUNT : Field := ⟨17, 0x044, 0, 1, 31, 0, .rc, false, false, false, 0, .any⟩
def HCL.CE_L2.COUNT : Field := ⟨17, 0x048, 0, 1, 31, 0, .rc, false, false, false, 0, .any⟩
def HCL.CE_LS.COUNT : Field := ⟨17, 0x04c, 0, 1, 31, 0, .rc, false, false, false, 0, .any⟩
def HCL.UE_ADDR_LO.ADDR : Field := ⟨17, 0x050, 0, 1, 31, 0, .ro, false, true, false, 0, .any⟩
def HCL.UE_ADDR_HI.ADDR : Field := ⟨17, 0x054, 0, 1, 15, 0, .ro, false, true, false, 0, .any⟩
def HCL.UE_INFO.VALID : Field := ⟨17, 0x058, 0, 1, 31, 31, .rc, false, true, false, 0, .any⟩
def HCL.UE_INFO.OVER : Field := ⟨17, 0x058, 0, 1, 30, 30, .rc, false, true, false, 0, .any⟩
def HCL.UE_INFO.ARRAY : Field := ⟨17, 0x058, 0, 1, 29, 27, .ro, false, true, false, 0, .any⟩
def HCL.UE_INFO.HART : Field := ⟨17, 0x058, 0, 1, 23, 16, .ro, false, true, false, 255, .any⟩
def HCL.L2_WAYS.MASK : Field := ⟨17, 0x060, 4, 16, 15, 0, .rw, false, true, false, 65535, .any⟩
def XFB.LATCH_WIN.CYCLES : Field := ⟨11, 0x040, 0, 1, 9, 0, .rw, true, true, false, 96, .die0⟩
def XFB.IO_TMO.EXP : Field := ⟨11, 0x044, 0, 1, 4, 0, .rw, true, true, false, 10, .die0⟩
def XFB.LATE_CPL.COUNT : Field := ⟨11, 0x048, 0, 1, 31, 0, .rc, false, true, false, 0, .die0⟩
def XFB.WAKE_CNT.RET : Field := ⟨11, 0x04c, 0, 1, 31, 16, .rc, false, false, false, 0, .die0⟩
def XFB.WAKE_CNT.CG : Field := ⟨11, 0x04c, 0, 1, 15, 0, .rc, false, false, false, 0, .die0⟩
def XFB.WAKE_HOLD.COUNT : Field := ⟨11, 0x050, 0, 1, 31, 0, .rc, false, false, false, 0, .die0⟩
def XFB.CE_CNT.COUNT : Field := ⟨11, 0x054, 0, 1, 31, 0, .rc, false, false, false, 0, .any⟩
def XFB.ERR_HDR.HDR : Field := ⟨11, 0x060, 4, 4, 31, 0, .ro, false, true, false, 0, .die0⟩
def XFB.ROUTE.USING_ALT : Field := ⟨11, 0x080, 4, 5, 8, 8, .ro, false, false, false, 0, .base⟩
def XFB.ROUTE.ALT : Field := ⟨11, 0x080, 4, 5, 7, 4, .rw, true, true, false, 0, .base⟩
def XFB.ROUTE.PRI : Field := ⟨11, 0x080, 4, 5, 3, 0, .rw, true, true, false, 0, .base⟩
def DIR.SETFULL.COUNT : Field := ⟨12, 0x040, 0, 1, 31, 0, .rc, false, false, false, 0, .any⟩
def DIR.PENDFULL.COUNT : Field := ⟨12, 0x044, 0, 1, 31, 0, .rc, false, false, false, 0, .any⟩
def DIR.STALE_SNP.COUNT : Field := ⟨12, 0x048, 0, 1, 31, 0, .rc, false, false, false, 0, .any⟩
def DIR.BACKINV.COUNT : Field := ⟨12, 0x04c, 0, 1, 31, 0, .rc, false, false, false, 0, .any⟩
def DIR.CE.COUNT : Field := ⟨12, 0x050, 0, 1, 31, 0, .rc, false, false, false, 0, .any⟩
def DIR.UE_ADDR_LO.ADDR : Field := ⟨12, 0x054, 0, 1, 31, 6, .ro, false, true, false, 0, .any⟩
def DIR.UE_ADDR_HI.ADDR : Field := ⟨12, 0x058, 0, 1, 15, 0, .ro, false, true, false, 0, .any⟩
def DIR.UE_INFO.VALID : Field := ⟨12, 0x05c, 0, 1, 31, 31, .rc, false, true, false, 0, .any⟩
def DIR.UE_INFO.OVER : Field := ⟨12, 0x05c, 0, 1, 30, 30, .rc, false, true, false, 0, .any⟩
def DIR.UE_INFO.BANK : Field := ⟨12, 0x05c, 0, 1, 21, 16, .ro, false, true, false, 0, .any⟩
def DIR.PROBE_LO.ADDR : Field := ⟨12, 0x140, 0, 1, 31, 6, .rw, false, true, false, 0, .any⟩
def DIR.PROBE_HI.ADDR : Field := ⟨12, 0x144, 0, 1, 15, 0, .rw, false, true, false, 0, .any⟩
def DIR.PROBE_CTRL.DONE : Field := ⟨12, 0x148, 0, 1, 31, 31, .ro, false, false, false, 0, .any⟩
def DIR.PROBE_CTRL.NOT_HOME : Field := ⟨12, 0x148, 0, 1, 30, 30, .ro, false, false, false, 0, .any⟩
def DIR.PROBE_CTRL.DENIED : Field := ⟨12, 0x148, 0, 1, 29, 29, .ro, false, false, false, 0, .any⟩
def DIR.PROBE_CTRL.GO : Field := ⟨12, 0x148, 0, 1, 0, 0, .wo, false, true, false, 0, .any⟩
def DIR.PROBE_STATE.L3_VALID : Field := ⟨12, 0x14c, 0, 1, 31, 31, .ro, false, true, false, 0, .any⟩
def DIR.PROBE_STATE.L3_DIRTY : Field := ⟨12, 0x14c, 0, 1, 30, 30, .ro, false, true, false, 0, .any⟩
def DIR.PROBE_STATE.STATE : Field := ⟨12, 0x14c, 0, 1, 18, 16, .ro, false, true, false, 0, .any⟩
def DIR.PROBE_STATE.OWNER : Field := ⟨12, 0x14c, 0, 1, 13, 7, .ro, false, true, false, 0, .any⟩
def DIR.PROBE_STATE.WAY : Field := ⟨12, 0x14c, 0, 1, 3, 0, .ro, false, true, false, 0, .any⟩
def DIR.PROBE_SHR.VEC : Field := ⟨12, 0x150, 4, 3, 31, 0, .ro, false, true, false, 0, .any⟩
def HNG.TRAIN_STAT.STATE : Field := ⟨14, 0x040, 0, 1, 31, 28, .ro, false, false, false, 0, .any⟩
def HNG.TRAIN_STAT.ATTEMPTS : Field := ⟨14, 0x040, 0, 1, 27, 24, .ro, false, false, false, 0, .any⟩
def HNG.TRAIN_STAT.MASK : Field := ⟨14, 0x040, 0, 1, 23, 16, .ro, false, false, false, 0, .any⟩
def HNG.TRAIN_STAT.PEER_EPOCH : Field := ⟨14, 0x040, 0, 1, 15, 12, .ro, false, false, false, 0, .any⟩
def HNG.TRAIN_STAT.EPOCH : Field := ⟨14, 0x040, 0, 1, 11, 8, .ro, false, false, false, 0, .any⟩
def HNG.TRAIN_STAT.WIDTH : Field := ⟨14, 0x040, 0, 1, 3, 0, .ro, false, false, false, 0, .any⟩
def HNG.REPAIR.LANES_0 : Field := ⟨14, 0x044, 0, 1, 2, 0, .ro, false, false, false, 0, .any⟩
def HNG.REPAIR.LANES_1 : Field := ⟨14, 0x044, 0, 1, 5, 3, .ro, false, false, false, 0, .any⟩
def HNG.REPAIR.LANES_2 : Field := ⟨14, 0x044, 0, 1, 8, 6, .ro, false, false, false, 0, .any⟩
def HNG.REPAIR.LANES_3 : Field := ⟨14, 0x044, 0, 1, 11, 9, .ro, false, false, false, 0, .any⟩
def HNG.REPAIR.LANES_4 : Field := ⟨14, 0x044, 0, 1, 14, 12, .ro, false, false, false, 0, .any⟩
def HNG.REPAIR.LANES_5 : Field := ⟨14, 0x044, 0, 1, 17, 15, .ro, false, false, false, 0, .any⟩
def HNG.REPAIR.LANES_6 : Field := ⟨14, 0x044, 0, 1, 20, 18, .ro, false, false, false, 0, .any⟩
def HNG.REPAIR.LANES_7 : Field := ⟨14, 0x044, 0, 1, 23, 21, .ro, false, false, false, 0, .any⟩
def HNG.RECAL.BUSY : Field := ⟨14, 0x048, 0, 1, 31, 31, .ro, false, false, false, 0, .any⟩
def HNG.RECAL.AUTO_MS : Field := ⟨14, 0x048, 0, 1, 27, 16, .rw, false, true, false, 0, .any⟩
def HNG.RECAL.MOD : Field := ⟨14, 0x048, 0, 1, 6, 4, .rw, false, true, false, 0, .any⟩
def HNG.RECAL.RESULT : Field := ⟨14, 0x048, 0, 1, 3, 2, .ro, false, false, false, 0, .any⟩
def HNG.RECAL.GO : Field := ⟨14, 0x048, 0, 1, 0, 0, .wo, false, true, false, 0, .any⟩
def HNG.CRC_CNT.COUNT : Field := ⟨14, 0x04c, 0, 1, 31, 0, .rc, false, false, false, 0, .any⟩
def HNG.REPLAY_CNT.COUNT : Field := ⟨14, 0x050, 0, 1, 31, 0, .rc, false, false, false, 0, .any⟩
def HUB.DIE_SEL.DIE : Field := ⟨1, 0x200, 0, 1, 5, 0, .rw, false, true, false, 0, .any⟩
def HUB.DIE_INFO.STATE : Field := ⟨1, 0x204, 0, 1, 31, 30, .ro, false, true, false, 0, .any⟩
def HUB.DIE_INFO.REASON : Field := ⟨1, 0x204, 0, 1, 27, 24, .ro, false, true, false, 0, .any⟩
def HUB.DIE_INFO.REV : Field := ⟨1, 0x204, 0, 1, 7, 0, .ro, false, true, false, 0, .any⟩
def HUB.DIE_CAP_LO.CAP : Field := ⟨1, 0x208, 0, 1, 31, 0, .ro, false, true, false, 0, .any⟩
def HUB.DIE_CAP_HI.CAP : Field := ⟨1, 0x20c, 0, 1, 31, 0, .ro, false, true, false, 0, .any⟩
def HUB.CAP_EFF_LO.CAP : Field := ⟨1, 0x210, 0, 1, 31, 0, .ro, false, false, false, 0, .any⟩
def HUB.CAP_EFF_HI.CAP : Field := ⟨1, 0x214, 0, 1, 31, 0, .ro, false, false, false, 0, .any⟩
def WRD.VIOL_ADDR_LO.ADDR : Field := ⟨25, 0x040, 0, 1, 31, 0, .ro, false, true, false, 0, .any⟩
def WRD.VIOL_ADDR_HI.ADDR : Field := ⟨25, 0x044, 0, 1, 31, 0, .ro, false, true, false, 0, .any⟩
def WRD.VIOL_INFO.VALID : Field := ⟨25, 0x048, 0, 1, 31, 31, .rc, false, true, false, 0, .any⟩
def WRD.VIOL_INFO.KIND : Field := ⟨25, 0x048, 0, 1, 26, 24, .ro, false, true, false, 0, .any⟩
def WRD.VIOL_INFO.OP : Field := ⟨25, 0x048, 0, 1, 23, 19, .ro, false, true, false, 0, .any⟩
def WRD.VIOL_INFO.TAG : Field := ⟨25, 0x048, 0, 1, 9, 0, .ro, false, true, false, 0, .any⟩
def WRD.HELD.COUNT : Field := ⟨25, 0x050, 0, 1, 31, 0, .rc, false, false, false, 0, .any⟩
def WRD.WIN_LO.BASE : Field := ⟨25, 0x100, 16, 32, 31, 12, .rw, true, true, false, 0, .any⟩
def WRD.WIN_LO.SIZE_EXP : Field := ⟨25, 0x100, 16, 32, 11, 6, .rw, true, true, false, 12, .any⟩
def WRD.WIN_HI.BASE : Field := ⟨25, 0x104, 16, 32, 15, 0, .rw, true, true, false, 0, .any⟩
def WRD.WIN_CTRL.EN : Field := ⟨25, 0x108, 16, 32, 31, 31, .rw, true, true, false, 0, .any⟩
def WRD.WIN_CTRL.PCLASS : Field := ⟨25, 0x108, 16, 32, 7, 4, .rw, true, true, false, 0, .any⟩
def WRD.WIN_CTRL.WR_PART : Field := ⟨25, 0x108, 16, 32, 2, 2, .rw, true, true, false, 0, .any⟩
def WRD.WIN_CTRL.WR_FULL : Field := ⟨25, 0x108, 16, 32, 1, 1, .rw, true, true, false, 0, .any⟩
def WRD.WIN_CTRL.READ : Field := ⟨25, 0x108, 16, 32, 0, 0, .rw, true, true, false, 0, .any⟩
def WRD.WIN_RATE.CEIL : Field := ⟨25, 0x10c, 16, 32, 15, 0, .rw, true, true, false, 0, .any⟩
def WRD.IRQ.ENTRY : Field := ⟨25, 0x300, 4, 32, 31, 0, .rw, true, true, false, 0, .any⟩
def HUB.MEM_CFG.DDR_EN : Field := ⟨1, 0x220, 0, 1, 31, 31, .ro, false, false, false, 0, .any⟩
def HUB.MEM_CFG.DDR_CH : Field := ⟨1, 0x220, 0, 1, 27, 26, .ro, false, false, false, 0, .any⟩
def HUB.MEM_CFG.DDR_EXP : Field := ⟨1, 0x220, 0, 1, 20, 16, .ro, false, false, false, 0, .any⟩
def HUB.MEM_CFG.FOLD : Field := ⟨1, 0x220, 0, 1, 5, 4, .ro, false, false, false, 0, .any⟩
def HUB.MEM_CFG.DEGRADED : Field := ⟨1, 0x220, 0, 1, 1, 1, .ro, false, false, false, 0, .any⟩
def HUB.MEM_CFG.MODE : Field := ⟨1, 0x220, 0, 1, 0, 0, .ro, false, false, false, 0, .any⟩
def HUB.HOME_MAP.SUB_0 : Field := ⟨1, 0x224, 0, 1, 1, 0, .ro, false, false, false, 0, .any⟩
def HUB.HOME_MAP.SUB_1 : Field := ⟨1, 0x224, 0, 1, 5, 4, .ro, false, false, false, 1, .any⟩
def HUB.HOME_MAP.SUB_2 : Field := ⟨1, 0x224, 0, 1, 9, 8, .ro, false, false, false, 2, .any⟩
def HUB.HOME_MAP.SUB_3 : Field := ⟨1, 0x224, 0, 1, 13, 12, .ro, false, false, false, 3, .any⟩
def MCH.CE_CNT.COUNT : Field := ⟨15, 0x040, 0, 1, 31, 0, .rc, false, false, false, 0, .any⟩
def MCH.UE_CNT.COUNT : Field := ⟨15, 0x044, 0, 1, 31, 0, .rc, false, false, false, 0, .any⟩
def MCH.FIX_CNT.COUNT : Field := ⟨15, 0x048, 0, 1, 31, 0, .rc, false, false, false, 0, .any⟩
def MCH.ODECC_CNT.COUNT : Field := ⟨15, 0x04c, 0, 1, 31, 0, .rc, false, false, false, 0, .any⟩
def MCH.UE_ADDR_LO.ADDR : Field := ⟨15, 0x050, 0, 1, 31, 0, .ro, false, true, false, 0, .any⟩
def MCH.UE_ADDR_HI.ADDR : Field := ⟨15, 0x054, 0, 1, 31, 0, .ro, false, true, false, 0, .any⟩
def MCH.UE_INFO.VALID : Field := ⟨15, 0x058, 0, 1, 31, 31, .rc, false, true, false, 0, .any⟩
def MCH.UE_INFO.OVER : Field := ⟨15, 0x058, 0, 1, 30, 30, .rc, false, true, false, 0, .any⟩
def MCH.UE_INFO.REPAIRED : Field := ⟨15, 0x058, 0, 1, 29, 29, .ro, false, true, false, 0, .any⟩
def MCH.UE_INFO.SOURCE : Field := ⟨15, 0x058, 0, 1, 28, 26, .ro, false, true, false, 0, .any⟩
def MCH.UE_INFO.WORDS : Field := ⟨15, 0x058, 0, 1, 7, 0, .ro, false, true, false, 0, .any⟩
def MCH.RESYNC.BUSY : Field := ⟨15, 0x060, 0, 1, 31, 31, .ro, false, false, false, 0, .any⟩
def MCH.RESYNC.PTR : Field := ⟨15, 0x060, 0, 1, 28, 0, .ro, false, false, false, 0, .any⟩
def SCB.START_LO.ADDR : Field := ⟨9, 0x040, 0, 1, 31, 0, .rw, false, true, false, 0, .any⟩
def SCB.START_HI.ADDR : Field := ⟨9, 0x044, 0, 1, 31, 0, .rw, false, true, false, 0, .any⟩
def SCB.END_LO.ADDR : Field := ⟨9, 0x048, 0, 1, 31, 0, .rw, false, true, false, 0, .any⟩
def SCB.END_HI.ADDR : Field := ⟨9, 0x04c, 0, 1, 31, 0, .rw, false, true, false, 0, .any⟩
def SCB.CTRL.BUSY : Field := ⟨9, 0x050, 0, 1, 31, 31, .ro, false, false, false, 0, .any⟩
def SCB.CTRL.REFUSED : Field := ⟨9, 0x050, 0, 1, 30, 30, .ro, false, false, false, 0, .any⟩
def SCB.CTRL.GAP : Field := ⟨9, 0x050, 0, 1, 15, 8, .rw, false, true, false, 0, .any⟩
def SCB.CTRL.ABORT : Field := ⟨9, 0x050, 0, 1, 1, 1, .wo, false, true, false, 0, .any⟩
def SCB.CTRL.GO : Field := ⟨9, 0x050, 0, 1, 0, 0, .wo, false, true, false, 0, .any⟩
def SCB.CE.COUNT : Field := ⟨9, 0x054, 0, 1, 31, 0, .ro, false, false, false, 0, .any⟩
def SCB.UE.COUNT : Field := ⟨9, 0x058, 0, 1, 31, 0, .ro, false, false, false, 0, .any⟩
def SCB.FIRST_LO.ADDR : Field := ⟨9, 0x05c, 0, 1, 31, 0, .ro, false, false, false, 0, .any⟩
def SCB.FIRST_HI.ADDR : Field := ⟨9, 0x060, 0, 1, 31, 0, .ro, false, false, false, 0, .any⟩
def SCB.LAST_LO.ADDR : Field := ⟨9, 0x064, 0, 1, 31, 0, .ro, false, false, false, 0, .any⟩
def SCB.LAST_HI.ADDR : Field := ⟨9, 0x068, 0, 1, 31, 0, .ro, false, false, false, 0, .any⟩
def FIL.DST_LO.ADDR : Field := ⟨8, 0x040, 0, 1, 31, 0, .rw, false, true, false, 0, .any⟩
def FIL.DST_HI.ADDR : Field := ⟨8, 0x044, 0, 1, 31, 0, .rw, false, true, false, 0, .any⟩
def FIL.LEN.LINES : Field := ⟨8, 0x048, 0, 1, 31, 0, .rw, false, true, false, 0, .any⟩
def FIL.PAT_LO.PAT : Field := ⟨8, 0x04c, 0, 1, 31, 0, .rw, false, true, false, 0, .any⟩
def FIL.PAT_HI.PAT : Field := ⟨8, 0x050, 0, 1, 31, 0, .rw, false, true, false, 0, .any⟩
def FIL.CTRL.BUSY : Field := ⟨8, 0x054, 0, 1, 31, 31, .ro, false, false, false, 0, .any⟩
def FIL.CTRL.ERR : Field := ⟨8, 0x054, 0, 1, 30, 30, .rc, false, true, false, 0, .any⟩
def FIL.CTRL.HART : Field := ⟨8, 0x054, 0, 1, 27, 20, .rw, false, true, false, 0, .any⟩
def FIL.CTRL.TARGET : Field := ⟨8, 0x054, 0, 1, 18, 16, .rw, false, true, false, 0, .any⟩
def FIL.CTRL.ABORT : Field := ⟨8, 0x054, 0, 1, 1, 1, .wo, false, true, false, 0, .any⟩
def FIL.CTRL.GO : Field := ⟨8, 0x054, 0, 1, 0, 0, .wo, false, true, false, 0, .any⟩
def BWR.G_SEL.MASTER : Field := ⟨10, 0x040, 0, 1, 22, 16, .rw, false, true, false, 0, .any⟩
def BWR.G_SEL.RES : Field := ⟨10, 0x040, 0, 1, 4, 0, .rw, false, true, false, 0, .any⟩
def BWR.G_VAL.GUAR : Field := ⟨10, 0x044, 0, 1, 19, 0, .rw, true, true, false, 0, .any⟩
def BWR.G_EFF.GUAR : Field := ⟨10, 0x048, 0, 1, 19, 0, .ro, false, true, false, 0, .any⟩
def BWR.ADM_RES.VALID : Field := ⟨10, 0x04c, 0, 1, 31, 31, .ro, false, true, false, 0, .any⟩
def BWR.ADM_RES.RES : Field := ⟨10, 0x04c, 0, 1, 4, 0, .ro, false, true, false, 0, .any⟩
def BWR.ADM_SUM.SUM : Field := ⟨10, 0x050, 0, 1, 26, 0, .ro, false, true, false, 0, .any⟩
def BWR.CAPACITY.CAP : Field := ⟨10, 0x080, 4, 32, 19, 0, .rw, true, true, false, 0, .any⟩
def BWR.RES_STAT.SCALED : Field := ⟨10, 0x100, 4, 32, 31, 31, .ro, false, false, false, 0, .any⟩
def BWR.RES_STAT.EFF_CAP : Field := ⟨10, 0x100, 4, 32, 19, 0, .ro, false, false, false, 0, .any⟩
def BWR.MCFG.PCLASS : Field := ⟨10, 0x200, 4, 128, 7, 4, .rw, true, true, false, 0, .any⟩
def BWR.MCFG.SHARE : Field := ⟨10, 0x200, 4, 128, 3, 0, .rw, true, true, false, 1, .any⟩
def BWR.URG_CFG.EN : Field := ⟨10, 0x400, 4, 6, 31, 31, .rw, true, true, false, 1, .any⟩
def BWR.URG_CFG.EMPTY : Field := ⟨10, 0x400, 4, 6, 12, 12, .ro, false, false, false, 0, .any⟩
def BWR.URG_CFG.T3 : Field := ⟨10, 0x400, 4, 6, 11, 8, .rw, true, true, false, 14, .any⟩
def BWR.URG_CFG.T2 : Field := ⟨10, 0x400, 4, 6, 7, 4, .rw, true, true, false, 12, .any⟩
def BWR.URG_CFG.T1 : Field := ⟨10, 0x400, 4, 6, 3, 0, .rw, true, true, false, 8, .any⟩
def BWR.MON_SEL.MASTER : Field := ⟨10, 0x500, 0, 1, 22, 16, .rw, false, false, false, 0, .any⟩
def BWR.MON_SEL.RES : Field := ⟨10, 0x500, 0, 1, 4, 0, .rw, false, false, false, 0, .any⟩
def BWR.MON_USED.DEMOTED : Field := ⟨10, 0x504, 0, 1, 31, 31, .ro, false, false, false, 0, .any⟩
def BWR.MON_USED.UNITS : Field := ⟨10, 0x504, 0, 1, 19, 0, .ro, false, false, false, 0, .any⟩
def BWR.MON_DEMOTE.COUNT : Field := ⟨10, 0x508, 0, 1, 31, 0, .rc, false, false, false, 0, .any⟩
def L3C.WAYS.MASK : Field := ⟨13, 0x040, 4, 16, 15, 0, .rw, true, true, false, 65535, .any⟩
def L3C.OCC.LINES : Field := ⟨13, 0x080, 4, 16, 21, 0, .ro, false, false, false, 0, .any⟩
def SCN.EPOCH_LO.EPOCH : Field := ⟨18, 0x040, 0, 1, 31, 0, .rw, true, true, false, 0, .any⟩
def SCN.EPOCH_HI.EPOCH : Field := ⟨18, 0x044, 0, 1, 31, 0, .rw, true, true, false, 0, .any⟩
def SCN.TS_ADDR.DENIED : Field := ⟨18, 0x060, 0, 1, 31, 31, .rc, false, true, false, 0, .any⟩
def SCN.TS_ADDR.INC : Field := ⟨18, 0x060, 0, 1, 30, 30, .rw, false, true, false, 0, .any⟩
def SCN.TS_ADDR.OFFSET : Field := ⟨18, 0x060, 0, 1, 18, 3, .rw, false, true, false, 0, .any⟩
def SCN.TS_DATA_LO.DATA : Field := ⟨18, 0x068, 0, 1, 31, 0, .rw, false, true, false, 0, .any⟩
def SCN.TS_DATA_HI.DATA : Field := ⟨18, 0x06c, 0, 1, 31, 0, .rw, false, true, false, 0, .any⟩
def SCN.CMT_INFO.CHECK : Field := ⟨18, 0x070, 0, 1, 31, 28, .ro, false, true, false, 0, .any⟩
def SCN.CMT_INFO.BASE : Field := ⟨18, 0x070, 0, 1, 27, 26, .ro, false, true, false, 0, .any⟩
def SCN.CMT_INFO.CLASS : Field := ⟨18, 0x070, 0, 1, 14, 12, .ro, false, true, false, 0, .any⟩
def SCN.CMT_INFO.TASK : Field := ⟨18, 0x070, 0, 1, 11, 0, .ro, false, true, false, 0, .any⟩
def SCN.CLASS_CFG.EN : Field := ⟨18, 0x080, 32, 8, 31, 31, .rw, true, true, false, 0, .any⟩
def SCN.CLASS_CFG.PERIOD : Field := ⟨18, 0x080, 32, 8, 19, 0, .rw, true, true, false, 25, .any⟩
def SCN.CLASS_OFS.OFFSET : Field := ⟨18, 0x084, 32, 8, 19, 0, .rw, true, true, false, 0, .any⟩
def SCN.CLASS_WIN.PULL_RW : Field := ⟨18, 0x088, 32, 8, 15, 8, .rw, true, true, false, 3, .any⟩
def SCN.CLASS_WIN.PUSH_RW : Field := ⟨18, 0x088, 32, 8, 7, 0, .rw, true, true, false, 3, .any⟩
def SCN.CLASS_BUD.PUSH : Field := ⟨18, 0x08c, 32, 8, 31, 16, .rw, true, true, false, 0, .any⟩
def SCN.CLASS_BUD.PULL : Field := ⟨18, 0x08c, 32, 8, 15, 0, .rw, true, true, false, 0, .any⟩
def SCN.CLASS_PULL.PULL_START : Field := ⟨18, 0x090, 32, 8, 31, 0, .rw, true, true, false, 0, .any⟩
def SCN.CLASS_SEQ.SEQ : Field := ⟨18, 0x180, 16, 8, 31, 0, .ro, false, false, false, 0, .any⟩
def SCN.CLASS_NEXT_LO.TIME : Field := ⟨18, 0x184, 16, 8, 31, 0, .ro, false, false, false, 0, .any⟩
def SCN.CLASS_NEXT_HI.TIME : Field := ⟨18, 0x188, 16, 8, 31, 0, .ro, false, false, false, 0, .any⟩
def SCN.CLASS_CNT.MISS : Field := ⟨18, 0x18c, 16, 8, 31, 16, .rc, false, false, false, 0, .any⟩
def SCN.CLASS_CNT.SKIP : Field := ⟨18, 0x18c, 16, 8, 15, 0, .rc, false, false, false, 0, .any⟩
def SCN.SEG_CLASS.EN_0 : Field := ⟨18, 0x200, 4, 64, 3, 3, .rw, true, true, false, 0, .any⟩
def SCN.SEG_CLASS.EN_1 : Field := ⟨18, 0x200, 4, 64, 7, 7, .rw, true, true, false, 0, .any⟩
def SCN.SEG_CLASS.EN_2 : Field := ⟨18, 0x200, 4, 64, 11, 11, .rw, true, true, false, 0, .any⟩
def SCN.SEG_CLASS.EN_3 : Field := ⟨18, 0x200, 4, 64, 15, 15, .rw, true, true, false, 0, .any⟩
def SCN.SEG_CLASS.EN_4 : Field := ⟨18, 0x200, 4, 64, 19, 19, .rw, true, true, false, 0, .any⟩
def SCN.SEG_CLASS.EN_5 : Field := ⟨18, 0x200, 4, 64, 23, 23, .rw, true, true, false, 0, .any⟩
def SCN.SEG_CLASS.EN_6 : Field := ⟨18, 0x200, 4, 64, 27, 27, .rw, true, true, false, 0, .any⟩
def SCN.SEG_CLASS.EN_7 : Field := ⟨18, 0x200, 4, 64, 31, 31, .rw, true, true, false, 0, .any⟩
def SCN.SEG_CLASS.CLASS_0 : Field := ⟨18, 0x200, 4, 64, 2, 0, .rw, true, true, false, 0, .any⟩
def SCN.SEG_CLASS.CLASS_1 : Field := ⟨18, 0x200, 4, 64, 6, 4, .rw, true, true, false, 0, .any⟩
def SCN.SEG_CLASS.CLASS_2 : Field := ⟨18, 0x200, 4, 64, 10, 8, .rw, true, true, false, 0, .any⟩
def SCN.SEG_CLASS.CLASS_3 : Field := ⟨18, 0x200, 4, 64, 14, 12, .rw, true, true, false, 0, .any⟩
def SCN.SEG_CLASS.CLASS_4 : Field := ⟨18, 0x200, 4, 64, 18, 16, .rw, true, true, false, 0, .any⟩
def SCN.SEG_CLASS.CLASS_5 : Field := ⟨18, 0x200, 4, 64, 22, 20, .rw, true, true, false, 0, .any⟩
def SCN.SEG_CLASS.CLASS_6 : Field := ⟨18, 0x200, 4, 64, 26, 24, .rw, true, true, false, 0, .any⟩
def SCN.SEG_CLASS.CLASS_7 : Field := ⟨18, 0x200, 4, 64, 30, 28, .rw, true, true, false, 0, .any⟩
def SCN.TASK_EN.EN : Field := ⟨18, 0x400, 4, 128, 31, 0, .rw, true, true, false, 0, .any⟩
def SCN.HIST_SEL.CLASS : Field := ⟨18, 0x800, 0, 1, 2, 0, .rw, false, false, false, 0, .any⟩
def SCN.HIST_SEQ.SEQ : Field := ⟨18, 0x804, 0, 1, 7, 0, .ro, false, false, false, 0, .any⟩
def SCN.HIST_ACK.SEQ : Field := ⟨18, 0x808, 0, 1, 7, 0, .wo, false, false, false, 0, .any⟩
def SCN.HIST_CFG.SHIFT : Field := ⟨18, 0x80c, 0, 1, 4, 0, .rw, false, true, false, 10, .any⟩
def SCN.HIST_BIN.COUNT : Field := ⟨18, 0x840, 4, 32, 31, 0, .ro, false, false, false, 0, .any⟩
def SPL.DESC_ADDR.QFULL : Field := ⟨19, 0x040, 0, 1, 31, 31, .rc, false, false, false, 0, .any⟩
def SPL.DESC_ADDR.INC : Field := ⟨19, 0x040, 0, 1, 30, 30, .rw, false, false, false, 0, .any⟩
def SPL.DESC_ADDR.QCNT : Field := ⟨19, 0x040, 0, 1, 28, 20, .ro, false, false, false, 0, .any⟩
def SPL.DESC_ADDR.INDEX : Field := ⟨19, 0x040, 0, 1, 18, 0, .rw, false, false, false, 0, .any⟩
def SPL.DESC_DATA.DESC : Field := ⟨19, 0x044, 0, 1, 15, 0, .rw, false, false, false, 0, .any⟩
def SPL.LIM_SEL.PROF : Field := ⟨19, 0x048, 0, 1, 11, 0, .rw, false, false, false, 0, .any⟩
def SPL.LIM_DATA.HI : Field := ⟨19, 0x04c, 0, 1, 27, 16, .rw, false, false, false, 0, .any⟩
def SPL.LIM_DATA.LO : Field := ⟨19, 0x04c, 0, 1, 11, 0, .rw, false, false, false, 0, .any⟩
def SPL.DMA_RATE.UNITS : Field := ⟨19, 0x050, 0, 1, 15, 0, .rw, true, false, false, 0, .any⟩
def SPL.CTX_INV.BUSY : Field := ⟨19, 0x054, 0, 1, 31, 31, .ro, false, false, false, 0, .any⟩
def SPL.CTX_INV.ALL : Field := ⟨19, 0x054, 0, 1, 30, 30, .wo, false, false, false, 0, .any⟩
def SPL.CTX_INV.VMID : Field := ⟨19, 0x054, 0, 1, 13, 0, .wo, false, false, false, 0, .any⟩
def SPL.FAULT_GPA_LO.ADDR : Field := ⟨19, 0x058, 0, 1, 31, 0, .ro, false, false, false, 0, .any⟩
def SPL.FAULT_GPA_HI.ADDR : Field := ⟨19, 0x05c, 0, 1, 31, 0, .ro, false, false, false, 0, .any⟩
def SPL.FAULT_INFO.VALID : Field := ⟨19, 0x060, 0, 1, 31, 31, .rc, false, false, false, 0, .any⟩
def SPL.FAULT_INFO.OVER : Field := ⟨19, 0x060, 0, 1, 30, 30, .rc, false, false, false, 0, .any⟩
def SPL.FAULT_INFO.VIEW : Field := ⟨19, 0x060, 0, 1, 29, 24, .ro, false, false, false, 0, .any⟩
def SPL.FAULT_INFO.REASON : Field := ⟨19, 0x060, 0, 1, 21, 20, .ro, false, false, false, 0, .any⟩
def SPL.FAULT_INFO.LEVEL : Field := ⟨19, 0x060, 0, 1, 19, 18, .ro, false, false, false, 0, .any⟩
def SPL.SEG_SEL_IN.SEL : Field := ⟨19, 0x080, 4, 16, 31, 0, .ro, false, false, false, 0, .any⟩
def SPL.SEG_SEL_OUT.SEL : Field := ⟨19, 0x0c0, 4, 16, 31, 0, .ro, false, false, false, 0, .any⟩
def SPL.VIEW_SEL.VIEW : Field := ⟨19, 0x100, 0, 1, 5, 0, .rw, false, false, false, 0, .any⟩
def SPL.VIEW_CFG.EN : Field := ⟨19, 0x104, 0, 1, 31, 31, .rw, true, false, false, 0, .any⟩
def SPL.VIEW_CFG.SECURE : Field := ⟨19, 0x104, 0, 1, 30, 30, .rw, true, false, true, 0, .any⟩
def SPL.VIEW_CFG.CLASS : Field := ⟨19, 0x104, 0, 1, 29, 27, .rw, true, false, false, 0, .any⟩
def SPL.VIEW_CFG.LOG_EN : Field := ⟨19, 0x104, 0, 1, 23, 23, .rw, true, false, false, 0, .any⟩
def SPL.VIEW_CFG.DMA_OUT : Field := ⟨19, 0x104, 0, 1, 22, 22, .rw, true, false, false, 0, .any⟩
def SPL.VIEW_CFG.DMA_IN : Field := ⟨19, 0x104, 0, 1, 21, 21, .rw, true, false, false, 0, .any⟩
def SPL.VIEW_CFG.R_DESC : Field := ⟨19, 0x104, 0, 1, 5, 5, .rw, true, false, false, 0, .any⟩
def SPL.VIEW_CFG.W_FORCE : Field := ⟨19, 0x104, 0, 1, 4, 4, .rw, true, false, false, 0, .any⟩
def SPL.VIEW_CFG.W_SAFE : Field := ⟨19, 0x104, 0, 1, 3, 3, .rw, true, false, false, 0, .any⟩
def SPL.VIEW_CFG.W_OUT : Field := ⟨19, 0x104, 0, 1, 2, 2, .rw, true, false, false, 0, .any⟩
def SPL.VIEW_CFG.R_OUT : Field := ⟨19, 0x104, 0, 1, 1, 1, .rw, true, false, false, 0, .any⟩
def SPL.VIEW_CFG.R_IN : Field := ⟨19, 0x104, 0, 1, 0, 0, .rw, true, false, false, 0, .any⟩
def SPL.VIEW_BASE.VALUE : Field := ⟨19, 0x108, 0, 1, 19, 0, .rw, true, false, false, 0, .any⟩
def SPL.VIEW_CNT.VALUE : Field := ⟨19, 0x10c, 0, 1, 19, 0, .rw, true, false, false, 0, .any⟩
def SPL.VIEW_CTRL.GEN : Field := ⟨19, 0x110, 0, 1, 31, 24, .ro, false, false, false, 0, .any⟩
def SPL.VIEW_CTRL.DMA_BUSY : Field := ⟨19, 0x110, 0, 1, 23, 23, .ro, false, false, false, 0, .any⟩
def SPL.VIEW_CTRL.DMA_SUSP : Field := ⟨19, 0x110, 0, 1, 22, 22, .ro, false, false, false, 0, .any⟩
def SPL.VIEW_CTRL.LOG_OVF : Field := ⟨19, 0x110, 0, 1, 21, 21, .rw, false, false, false, 0, .any⟩
def SPL.VIEW_CTRL.RESUME : Field := ⟨19, 0x110, 0, 1, 1, 1, .wo, false, false, false, 0, .any⟩
def SPL.VIEW_CTRL.RESET : Field := ⟨19, 0x110, 0, 1, 0, 0, .wo, false, false, false, 0, .any⟩
def SPL.VIEW_DENY.COUNT : Field := ⟨19, 0x114, 0, 1, 31, 0, .rc, false, false, false, 0, .any⟩
def SPL.VIEW_DROP.LATE : Field := ⟨19, 0x118, 0, 1, 31, 16, .rc, false, false, false, 0, .any⟩
def SPL.VIEW_DROP.LINES : Field := ⟨19, 0x118, 0, 1, 15, 0, .rc, false, false, false, 0, .any⟩
def SPL.CTX_HGATP_LO.VALUE : Field := ⟨19, 0x120, 0, 1, 31, 0, .rw, true, false, false, 0, .any⟩
def SPL.CTX_HGATP_HI.VALUE : Field := ⟨19, 0x124, 0, 1, 31, 0, .rw, true, false, false, 0, .any⟩
def SPL.DMA_RING_LO.GPA : Field := ⟨19, 0x128, 0, 1, 31, 12, .rw, true, false, false, 0, .any⟩
def SPL.DMA_RING_LO.STRIDE_EXP : Field := ⟨19, 0x128, 0, 1, 8, 4, .rw, true, false, false, 12, .any⟩
def SPL.DMA_RING_LO.NBUF_EXP : Field := ⟨19, 0x128, 0, 1, 2, 0, .rw, true, false, false, 0, .any⟩
def SPL.DMA_RING_HI.GPA : Field := ⟨19, 0x12c, 0, 1, 17, 0, .rw, true, false, false, 0, .any⟩
def SPL.DMA_LAST.SEQ : Field := ⟨19, 0x130, 0, 1, 31, 0, .ro, false, false, false, 0, .any⟩
def SPL.LOG_BASE_LO.PA : Field := ⟨19, 0x134, 0, 1, 31, 12, .rw, true, false, false, 0, .any⟩
def SPL.LOG_BASE_LO.LOG_EXP : Field := ⟨19, 0x134, 0, 1, 4, 0, .rw, true, false, false, 9, .any⟩
def SPL.LOG_BASE_HI.PA : Field := ⟨19, 0x138, 0, 1, 15, 0, .rw, true, false, false, 0, .any⟩
def SPL.LOG_PROD.COUNT : Field := ⟨19, 0x13c, 0, 1, 31, 0, .ro, false, false, false, 0, .any⟩
def SPL.LOG_CONS.COUNT : Field := ⟨19, 0x140, 0, 1, 31, 0, .rw, false, false, false, 0, .any⟩
def BAR.LINK_STAT.STATE : Field := ⟨20, 0x040, 0, 1, 31, 28, .ro, false, false, false, 0, .any⟩
def BAR.LINK_STAT.CH_OK : Field := ⟨20, 0x040, 0, 1, 23, 0, .ro, false, false, false, 0, .any⟩
def BAR.CRC_CNT.COUNT : Field := ⟨20, 0x044, 0, 1, 31, 0, .rc, false, false, false, 0, .any⟩
def BAR.REPLAY_CNT.COUNT : Field := ⟨20, 0x048, 0, 1, 31, 0, .rc, false, false, false, 0, .any⟩
def BAR.REG_ERR.COUNT : Field := ⟨20, 0x050, 0, 1, 31, 0, .rc, false, false, false, 0, .any⟩
def BAR.BAD_TYPE.TYPE : Field := ⟨20, 0x04c, 0, 1, 31, 16, .rc, false, false, false, 0, .any⟩
def BAR.BAD_TYPE.LATE : Field := ⟨20, 0x04c, 0, 1, 15, 0, .rc, false, false, false, 0, .any⟩
def FLD.ETYPE.AUTO : Field := ⟨21, 0x040, 0, 1, 16, 16, .rw, true, true, false, 0, .inst 0⟩
def FLD.ETYPE.ETYPE : Field := ⟨21, 0x040, 0, 1, 15, 0, .rw, true, true, false, 34997, .inst 0⟩
def FLD.LOST_TMO.MS : Field := ⟨21, 0x044, 0, 1, 15, 0, .rw, true, true, false, 1000, .inst 0⟩
def FLD.SESS_SEL.SESSION : Field := ⟨21, 0x048, 0, 1, 11, 0, .rw, false, true, false, 0, .inst 0⟩
def FLD.SESS_CFG0.EN : Field := ⟨21, 0x04c, 0, 1, 31, 31, .rw, true, true, false, 0, .inst 0⟩
def FLD.SESS_CFG0.CLASS : Field := ⟨21, 0x04c, 0, 1, 30, 28, .rw, true, true, false, 0, .inst 0⟩
def FLD.SESS_CFG0.PORT : Field := ⟨21, 0x04c, 0, 1, 27, 25, .rw, true, true, false, 0, .inst 0⟩
def FLD.SESS_CFG0.PCP : Field := ⟨21, 0x04c, 0, 1, 24, 22, .rw, true, true, false, 0, .inst 0⟩
def FLD.SESS_CFG0.VID : Field := ⟨21, 0x04c, 0, 1, 11, 0, .rw, true, true, false, 0, .inst 0⟩
def FLD.SESS_CFG1.CNT : Field := ⟨21, 0x050, 0, 1, 31, 28, .rw, true, true, false, 0, .inst 0⟩
def FLD.SESS_CFG1.LINE : Field := ⟨21, 0x050, 0, 1, 13, 0, .rw, true, true, false, 0, .inst 0⟩
def FLD.SESS_CFG2.CNT : Field := ⟨21, 0x054, 0, 1, 31, 28, .rw, true, true, false, 0, .inst 0⟩
def FLD.SESS_CFG2.LINE : Field := ⟨21, 0x054, 0, 1, 13, 0, .rw, true, true, false, 0, .inst 0⟩
def FLD.SESS_ID_LO.ID : Field := ⟨21, 0x058, 0, 1, 31, 0, .rw, true, true, false, 0, .inst 0⟩
def FLD.SESS_ID_HI.ID : Field := ⟨21, 0x05c, 0, 1, 31, 0, .rw, true, true, false, 0, .inst 0⟩
def FLD.SESS_STAT.STATE : Field := ⟨21, 0x060, 0, 1, 31, 28, .ro, false, false, false, 0, .inst 0⟩
def FLD.SESS_STAT.GEN : Field := ⟨21, 0x060, 0, 1, 27, 20, .ro, false, false, false, 0, .inst 0⟩
def FLD.SESS_STAT.MISSES : Field := ⟨21, 0x060, 0, 1, 7, 0, .ro, false, false, false, 0, .inst 0⟩
def FLD.SESS_LAST.SESSION : Field := ⟨21, 0x064, 0, 1, 11, 0, .ro, false, false, false, 0, .inst 0⟩
def FLD.ANN_SEL.REC : Field := ⟨21, 0x068, 0, 1, 5, 0, .rw, false, false, false, 0, .inst 0⟩
def FLD.ANN_ID_LO.ID : Field := ⟨21, 0x06c, 0, 1, 31, 0, .ro, false, false, false, 0, .inst 0⟩
def FLD.ANN_ID_HI.ID : Field := ⟨21, 0x070, 0, 1, 31, 0, .ro, false, false, false, 0, .inst 0⟩
def FLD.ANN_INFO.VALID : Field := ⟨21, 0x074, 0, 1, 31, 31, .ro, false, false, false, 0, .inst 0⟩
def FLD.ANN_INFO.PORT : Field := ⟨21, 0x074, 0, 1, 30, 28, .ro, false, false, false, 0, .inst 0⟩
def FLD.ANN_INFO.IN_LINES : Field := ⟨21, 0x074, 0, 1, 27, 24, .ro, false, false, false, 0, .inst 0⟩
def FLD.ANN_INFO.OUT_LINES : Field := ⟨21, 0x074, 0, 1, 23, 20, .ro, false, false, false, 0, .inst 0⟩
def FLD.ANN_INFO.REQ : Field := ⟨21, 0x074, 0, 1, 11, 0, .ro, false, false, false, 0, .inst 0⟩
def FLD.DROP_CNT.GEN : Field := ⟨21, 0x078, 0, 1, 31, 16, .rc, false, false, false, 0, .inst 0⟩
def FLD.DROP_CNT.FRAME : Field := ⟨21, 0x078, 0, 1, 15, 0, .rc, false, false, false, 0, .inst 0⟩
def FLD.FW_STAT.BANK : Field := ⟨21, 0x07c, 0, 1, 31, 31, .ro, false, false, false, 0, .inst 0⟩
def FLD.FW_STAT.OTHER_OK : Field := ⟨21, 0x07c, 0, 1, 30, 30, .ro, false, false, false, 0, .inst 0⟩
def FLD.FW_STAT.SWITCHING : Field := ⟨21, 0x07c, 0, 1, 29, 29, .ro, false, false, false, 0, .inst 0⟩
def FLD.PORT_CFG.EN : Field := ⟨21, 0x040, 0, 1, 31, 31, .rw, true, true, false, 0, .ports⟩
def FLD.PORT_CFG.PRIO1 : Field := ⟨21, 0x040, 0, 1, 15, 8, .rw, true, true, false, 128, .ports⟩
def FLD.PORT_CFG.SPEED : Field := ⟨21, 0x040, 0, 1, 1, 0, .rw, true, true, false, 2, .ports⟩
def FLD.PORT_STAT.LINK : Field := ⟨21, 0x044, 0, 1, 31, 31, .ro, false, false, false, 0, .ports⟩
def FLD.PORT_STAT.ROLE : Field := ⟨21, 0x044, 0, 1, 29, 28, .ro, false, false, false, 0, .ports⟩
def FLD.PORT_STAT.RX_DROP : Field := ⟨21, 0x044, 0, 1, 15, 0, .rc, false, false, false, 0, .ports⟩
def FLD.GCL_CYCLE.CYCLE : Field := ⟨21, 0x048, 0, 1, 19, 0, .rw, true, true, false, 25, .ports⟩
def FLD.GCL.INTERVAL : Field := ⟨21, 0x100, 4, 64, 31, 8, .rw, true, true, false, 0, .ports⟩
def FLD.GCL.GATES : Field := ⟨21, 0x100, 4, 64, 7, 0, .rw, true, true, false, 255, .ports⟩
def FLD.WATCH_CFG.EN : Field := ⟨21, 0x040, 0, 1, 31, 31, .rw, true, true, false, 0, .inst 9⟩
def FLD.WATCH_CFG.PERIOD_MS : Field := ⟨21, 0x040, 0, 1, 9, 0, .rw, true, true, false, 100, .inst 9⟩
def FLD.WP_SEL.POINT : Field := ⟨21, 0x044, 0, 1, 7, 0, .rw, false, true, false, 0, .inst 9⟩
def FLD.WP_CFG.EN : Field := ⟨21, 0x048, 0, 1, 31, 31, .rw, true, true, false, 0, .inst 9⟩
def FLD.WP_CFG.SIGNED : Field := ⟨21, 0x048, 0, 1, 30, 30, .rw, true, true, false, 0, .inst 9⟩
def FLD.WP_CFG.WAKE_LOSS : Field := ⟨21, 0x048, 0, 1, 29, 29, .rw, true, true, false, 0, .inst 9⟩
def FLD.WP_CFG.SLOT : Field := ⟨21, 0x048, 0, 1, 19, 12, .rw, true, true, false, 0, .inst 9⟩
def FLD.WP_CFG.SESSION : Field := ⟨21, 0x048, 0, 1, 11, 0, .rw, true, true, false, 0, .inst 9⟩
def FLD.WP_LIM.HI : Field := ⟨21, 0x04c, 0, 1, 27, 16, .rw, true, true, false, 4095, .inst 9⟩
def FLD.WP_LIM.LO : Field := ⟨21, 0x04c, 0, 1, 11, 0, .rw, true, true, false, 0, .inst 9⟩
def FLD.WP_ROC.ROC : Field := ⟨21, 0x050, 0, 1, 11, 0, .rw, true, true, false, 0, .inst 9⟩
def FLD.WAKE_INFO.VALID : Field := ⟨21, 0x054, 0, 1, 31, 31, .rc, false, false, false, 0, .inst 9⟩
def FLD.WAKE_INFO.CAUSE : Field := ⟨21, 0x054, 0, 1, 27, 26, .ro, false, false, false, 0, .inst 9⟩
def FLD.WAKE_INFO.POINT : Field := ⟨21, 0x054, 0, 1, 19, 12, .ro, false, false, false, 0, .inst 9⟩
def FLD.WAKE_INFO.VALUE : Field := ⟨21, 0x054, 0, 1, 11, 0, .ro, false, false, false, 0, .inst 9⟩
def HUB.SREG_SEL.BUSY : Field := ⟨1, 0x240, 0, 1, 31, 31, .ro, false, false, true, 0, .any⟩
def HUB.SREG_SEL.REGION : Field := ⟨1, 0x240, 0, 1, 5, 0, .rw, false, false, true, 0, .any⟩
def HUB.SREG_LO.BASE : Field := ⟨1, 0x244, 0, 1, 31, 12, .rw, false, false, true, 0, .any⟩
def HUB.SREG_LO.SIZE_EXP : Field := ⟨1, 0x244, 0, 1, 11, 6, .rw, false, false, true, 12, .any⟩
def HUB.SREG_LO.EN : Field := ⟨1, 0x244, 0, 1, 0, 0, .rw, false, false, true, 0, .any⟩
def HUB.SREG_HI.BASE : Field := ⟨1, 0x248, 0, 1, 15, 0, .rw, false, false, true, 0, .any⟩
def HUB.SEV_ROUTE.ENTRY : Field := ⟨1, 0x250, 0, 1, 31, 0, .rw, false, false, true, 0, .any⟩
def HUB.SEV_CNT.COUNT : Field := ⟨1, 0x254, 0, 1, 31, 0, .rc, false, false, true, 0, .any⟩
def HUB.SEV_ADDR_LO.ADDR : Field := ⟨1, 0x258, 0, 1, 31, 0, .ro, false, false, true, 0, .any⟩
def HUB.SEV_ADDR_HI.ADDR : Field := ⟨1, 0x25c, 0, 1, 31, 0, .ro, false, false, true, 0, .any⟩
def HUB.SEV_INFO.VALID : Field := ⟨1, 0x260, 0, 1, 31, 31, .rc, false, false, true, 0, .any⟩
def HUB.SEV_INFO.OVER : Field := ⟨1, 0x260, 0, 1, 30, 30, .rc, false, false, true, 0, .any⟩
def HUB.SEV_INFO.KIND : Field := ⟨1, 0x260, 0, 1, 29, 27, .ro, false, false, true, 0, .any⟩
def HUB.SEV_INFO.HART : Field := ⟨1, 0x260, 0, 1, 23, 16, .ro, false, false, true, 255, .any⟩
def HUB.SEV_INFO.MASTER : Field := ⟨1, 0x260, 0, 1, 15, 9, .ro, false, false, true, 0, .any⟩
def HUB.SEV_INFO.WRITE : Field := ⟨1, 0x260, 0, 1, 8, 8, .ro, false, false, true, 0, .any⟩
def HUB.DBG_FUSE.NNID : Field := ⟨1, 0x270, 0, 1, 3, 3, .ro, false, false, false, 0, .any⟩
def HUB.DBG_FUSE.NID : Field := ⟨1, 0x270, 0, 1, 2, 2, .ro, false, false, false, 0, .any⟩
def HUB.DBG_FUSE.SNID : Field := ⟨1, 0x270, 0, 1, 1, 1, .ro, false, false, false, 0, .any⟩
def HUB.DBG_FUSE.SID : Field := ⟨1, 0x270, 0, 1, 0, 0, .ro, false, false, false, 0, .any⟩
def HUB.DBG_CTRL.NNID : Field := ⟨1, 0x274, 0, 1, 3, 3, .rw, false, false, true, 0, .any⟩
def HUB.DBG_CTRL.NID : Field := ⟨1, 0x274, 0, 1, 2, 2, .rw, false, false, true, 0, .any⟩
def HUB.DBG_CTRL.SNID : Field := ⟨1, 0x274, 0, 1, 1, 1, .rw, false, false, true, 0, .any⟩
def HUB.DBG_CTRL.SID : Field := ⟨1, 0x274, 0, 1, 0, 0, .rw, false, false, true, 0, .any⟩
def SEP.STAT.LINK_UP : Field := ⟨22, 0x040, 0, 1, 31, 31, .ro, false, false, false, 0, .any⟩
def SEP.STAT.PERST : Field := ⟨22, 0x040, 0, 1, 30, 30, .ro, false, false, false, 0, .any⟩
def SEP.STAT.BME : Field := ⟨22, 0x040, 0, 1, 29, 29, .ro, false, false, false, 0, .any⟩
def SEP.STAT.MSE : Field := ⟨22, 0x040, 0, 1, 28, 28, .ro, false, false, false, 0, .any⟩
def SEP.STAT.DSTATE : Field := ⟨22, 0x040, 0, 1, 27, 26, .ro, false, false, false, 0, .any⟩
def SEP.STAT.GEN : Field := ⟨22, 0x040, 0, 1, 23, 16, .ro, false, false, false, 0, .any⟩
def SEP.STAT.SPEED : Field := ⟨22, 0x040, 0, 1, 11, 8, .ro, false, false, false, 0, .any⟩
def SEP.STAT.WIDTH : Field := ⟨22, 0x040, 0, 1, 4, 0, .ro, false, false, false, 0, .any⟩
def SEP.BAR_CFG.BAR4_EXP : Field := ⟨22, 0x044, 0, 1, 13, 8, .rw, false, true, false, 26, .any⟩
def SEP.BAR_CFG.BAR2_EXP : Field := ⟨22, 0x044, 0, 1, 5, 0, .rw, false, true, false, 30, .any⟩
def SEP.OB_BASE_LO.ADDR : Field := ⟨22, 0x048, 0, 1, 31, 0, .rw, false, true, false, 0, .any⟩
def SEP.OB_BASE_HI.ADDR : Field := ⟨22, 0x04c, 0, 1, 31, 0, .rw, false, true, false, 0, .any⟩
def SEP.HOST_IRQ.PME : Field := ⟨22, 0x050, 0, 1, 31, 31, .wo, false, false, false, 0, .any⟩
def SEP.HOST_IRQ.VECTOR : Field := ⟨22, 0x050, 0, 1, 4, 0, .wo, false, false, false, 0, .any⟩
def SEP.DB_PEND.PEND : Field := ⟨22, 0x054, 0, 1, 31, 0, .rc, false, false, false, 0, .any⟩
def SEP.LATE_CPL.COUNT : Field := ⟨22, 0x058, 0, 1, 31, 0, .rc, false, false, false, 0, .any⟩
def SEP.ABORT_CNT.COUNT : Field := ⟨22, 0x05c, 0, 1, 31, 0, .rc, false, false, false, 0, .any⟩
def SEP.UR_CNT.COUNT : Field := ⟨22, 0x060, 0, 1, 31, 0, .rc, false, false, false, 0, .any⟩
def SEP.TMO_CNT.COUNT : Field := ⟨22, 0x064, 0, 1, 31, 0, .rc, false, false, false, 0, .any⟩
def SEP.WIN_LO.TGT : Field := ⟨22, 0x100, 16, 32, 31, 12, .rw, false, true, false, 0, .any⟩
def SEP.WIN_LO.SIZE_EXP : Field := ⟨22, 0x100, 16, 32, 11, 6, .rw, false, true, false, 12, .any⟩
def SEP.WIN_HI.TGT : Field := ⟨22, 0x104, 16, 32, 15, 0, .rw, false, true, false, 0, .any⟩
def SEP.WIN_OFS.OFS : Field := ⟨22, 0x108, 16, 32, 27, 0, .rw, false, true, false, 0, .any⟩
def SEP.WIN_CTRL.EN : Field := ⟨22, 0x10c, 16, 32, 31, 31, .rw, false, true, false, 0, .any⟩
def SEP.WIN_CTRL.REFUSED : Field := ⟨22, 0x10c, 16, 32, 30, 30, .rc, false, true, false, 0, .any⟩
def SEP.WIN_CTRL.SEC : Field := ⟨22, 0x10c, 16, 32, 29, 29, .rw, false, true, true, 0, .any⟩
def SEP.WIN_CTRL.BAR : Field := ⟨22, 0x10c, 16, 32, 4, 4, .rw, false, true, false, 0, .any⟩
def SEP.WIN_CTRL.W : Field := ⟨22, 0x10c, 16, 32, 1, 1, .rw, false, true, false, 0, .any⟩
def SEP.WIN_CTRL.R : Field := ⟨22, 0x10c, 16, 32, 0, 0, .rw, false, true, false, 0, .any⟩
def RCX.LINK_CFG.UP : Field := ⟨23, 0x040, 0, 1, 31, 28, .ro, false, false, false, 0, .any⟩
def RCX.LINK_CFG.HOLD : Field := ⟨23, 0x040, 0, 1, 8, 8, .rw, false, true, false, 0, .any⟩
def RCX.LINK_CFG.MODE : Field := ⟨23, 0x040, 0, 1, 2, 0, .rw, false, true, false, 0, .any⟩
def RCX.DCT_LO.BASE : Field := ⟨23, 0x044, 0, 1, 31, 20, .rw, false, true, false, 0, .any⟩
def RCX.DCT_LO.SEC_OK : Field := ⟨23, 0x044, 0, 1, 1, 1, .rw, false, true, true, 0, .any⟩
def RCX.DCT_LO.EN : Field := ⟨23, 0x044, 0, 1, 0, 0, .rw, false, true, false, 0, .any⟩
def RCX.DCT_HI.BASE : Field := ⟨23, 0x048, 0, 1, 15, 0, .rw, false, true, false, 0, .any⟩
def RCX.MSI_ADDR_LO.ADDR : Field := ⟨23, 0x04c, 0, 1, 31, 0, .rw, false, true, false, 4276092928, .any⟩
def RCX.MSI_ADDR_HI.ADDR : Field := ⟨23, 0x050, 0, 1, 31, 0, .rw, false, true, false, 0, .any⟩
def RCX.CTX_INV.BUSY : Field := ⟨23, 0x054, 0, 1, 31, 31, .ro, false, false, false, 0, .any⟩
def RCX.CTX_INV.ALL : Field := ⟨23, 0x054, 0, 1, 30, 30, .wo, false, true, false, 0, .any⟩
def RCX.CTX_INV.VMID : Field := ⟨23, 0x054, 0, 1, 13, 0, .wo, false, true, false, 0, .any⟩
def RCX.FAULT_ADDR_LO.ADDR : Field := ⟨23, 0x058, 0, 1, 31, 0, .ro, false, true, false, 0, .any⟩
def RCX.FAULT_ADDR_HI.ADDR : Field := ⟨23, 0x05c, 0, 1, 31, 0, .ro, false, true, false, 0, .any⟩
def RCX.FAULT_INFO.VALID : Field := ⟨23, 0x060, 0, 1, 31, 31, .rc, false, true, false, 0, .any⟩
def RCX.FAULT_INFO.OVER : Field := ⟨23, 0x060, 0, 1, 30, 30, .rc, false, true, false, 0, .any⟩
def RCX.FAULT_INFO.REASON : Field := ⟨23, 0x060, 0, 1, 29, 27, .ro, false, true, false, 0, .any⟩
def RCX.FAULT_INFO.WRITE : Field := ⟨23, 0x060, 0, 1, 26, 26, .ro, false, true, false, 0, .any⟩
def RCX.FAULT_INFO.LINK : Field := ⟨23, 0x060, 0, 1, 25, 24, .ro, false, true, false, 0, .any⟩
def RCX.FAULT_INFO.RID : Field := ⟨23, 0x060, 0, 1, 15, 0, .ro, false, true, false, 0, .any⟩
def RCX.LATE_CPL.COUNT : Field := ⟨23, 0x064, 0, 1, 31, 0, .rc, false, false, false, 0, .any⟩
def RCX.UR_CNT.COUNT : Field := ⟨23, 0x068, 0, 1, 31, 0, .rc, false, false, false, 0, .any⟩
def YLK.PORT_CFG.EN : Field := ⟨24, 0x040, 0, 1, 31, 31, .rw, false, true, false, 0, .any⟩
def YLK.PORT_CFG.PAIR : Field := ⟨24, 0x040, 0, 1, 30, 30, .rw, false, true, false, 0, .any⟩
def YLK.PORT_CFG.IRQ_EN : Field := ⟨24, 0x040, 0, 1, 29, 29, .rw, false, true, false, 0, .any⟩
def YLK.PORT_STAT.STATE : Field := ⟨24, 0x044, 0, 1, 31, 30, .ro, false, false, false, 0, .any⟩
def YLK.PORT_STAT.GEN : Field := ⟨24, 0x044, 0, 1, 23, 16, .ro, false, false, false, 0, .any⟩
def YLK.PORT_STAT.PEER_POS : Field := ⟨24, 0x044, 0, 1, 15, 12, .ro, false, false, false, 0, .any⟩
def YLK.PORT_STAT.PEER_ROLE : Field := ⟨24, 0x044, 0, 1, 11, 10, .ro, false, false, false, 0, .any⟩
def YLK.PORT_STAT.RTT : Field := ⟨24, 0x044, 0, 1, 7, 0, .ro, false, false, false, 0, .any⟩
def YLK.CRC_CNT.COUNT : Field := ⟨24, 0x048, 0, 1, 31, 0, .rc, false, false, false, 0, .any⟩
def YLK.REPLAY_CNT.COUNT : Field := ⟨24, 0x04c, 0, 1, 31, 0, .rc, false, false, false, 0, .any⟩
def YLK.BAD_MSG.COUNT : Field := ⟨24, 0x050, 0, 1, 31, 0, .rc, false, false, false, 0, .any⟩
def YLK.LATE_CPL.COUNT : Field := ⟨24, 0x054, 0, 1, 31, 0, .rc, false, false, false, 0, .any⟩
def YLK.WIN_LO.TGT : Field := ⟨24, 0x100, 16, 8, 31, 12, .rw, false, true, false, 0, .any⟩
def YLK.WIN_LO.SIZE_EXP : Field := ⟨24, 0x100, 16, 8, 11, 6, .rw, false, true, false, 12, .any⟩
def YLK.WIN_HI.TGT : Field := ⟨24, 0x104, 16, 8, 15, 0, .rw, false, true, false, 0, .any⟩
def YLK.WIN_OFS.OFS : Field := ⟨24, 0x108, 16, 8, 27, 0, .rw, false, true, false, 0, .any⟩
def YLK.WIN_CTRL.EN : Field := ⟨24, 0x10c, 16, 8, 31, 31, .rw, false, true, false, 0, .any⟩
def YLK.WIN_CTRL.REFUSED : Field := ⟨24, 0x10c, 16, 8, 30, 30, .rc, false, true, false, 0, .any⟩
def YLK.WIN_CTRL.SEC : Field := ⟨24, 0x10c, 16, 8, 29, 29, .rw, false, true, true, 0, .any⟩
def YLK.WIN_CTRL.W : Field := ⟨24, 0x10c, 16, 8, 1, 1, .rw, false, true, false, 0, .any⟩
def YLK.COPY_SRC_LO.ADDR : Field := ⟨24, 0x200, 0, 1, 31, 0, .rw, false, true, false, 0, .any⟩
def YLK.COPY_SRC_HI.ADDR : Field := ⟨24, 0x204, 0, 1, 31, 0, .rw, false, true, false, 0, .any⟩
def YLK.COPY_DST_LO.ADDR : Field := ⟨24, 0x208, 0, 1, 31, 0, .rw, false, true, false, 0, .any⟩
def YLK.COPY_DST_HI.ADDR : Field := ⟨24, 0x20c, 0, 1, 31, 0, .rw, false, true, false, 0, .any⟩
def YLK.COPY_LEN.LINES : Field := ⟨24, 0x210, 0, 1, 31, 0, .rw, false, true, false, 0, .any⟩
def YLK.COPY_CTRL.BUSY : Field := ⟨24, 0x214, 0, 1, 31, 31, .ro, false, false, false, 0, .any⟩
def YLK.COPY_CTRL.ERR : Field := ⟨24, 0x214, 0, 1, 30, 30, .rc, false, true, false, 0, .any⟩
def YLK.COPY_CTRL.ABORT : Field := ⟨24, 0x214, 0, 1, 1, 1, .wo, false, true, false, 0, .any⟩
def YLK.COPY_CTRL.GO : Field := ⟨24, 0x214, 0, 1, 0, 0, .wo, false, true, false, 0, .any⟩
def YLK.CL_CFG.MGR_SEL : Field := ⟨24, 0x300, 0, 1, 31, 31, .ro, false, false, false, 0, .any⟩
def YLK.CL_CFG.POS : Field := ⟨24, 0x300, 0, 1, 3, 0, .ro, false, false, false, 0, .any⟩
def YLK.CL_STAT.JOIN : Field := ⟨24, 0x304, 0, 1, 31, 30, .ro, false, false, false, 0, .any⟩
def YLK.CL_STAT.ROLE : Field := ⟨24, 0x304, 0, 1, 29, 28, .ro, false, false, false, 0, .any⟩
def YLK.CL_STAT.MGR_POS : Field := ⟨24, 0x304, 0, 1, 27, 24, .ro, false, false, false, 0, .any⟩
def YLK.CL_STAT.DIST : Field := ⟨24, 0x304, 0, 1, 23, 22, .ro, false, false, false, 0, .any⟩
def YLK.CL_STAT.MISMATCH : Field := ⟨24, 0x304, 0, 1, 21, 21, .ro, false, false, false, 0, .any⟩
def YLK.CL_STAT.CATCHUP : Field := ⟨24, 0x304, 0, 1, 20, 20, .ro, false, false, false, 0, .any⟩
def YLK.CL_STAT.REFUSE : Field := ⟨24, 0x304, 0, 1, 19, 16, .ro, false, false, false, 0, .any⟩
def YLK.CL_STAT.DEV : Field := ⟨24, 0x304, 0, 1, 7, 0, .ro, false, false, false, 0, .any⟩
def YLK.CL_MEMBERS.POS : Field := ⟨24, 0x308, 0, 1, 15, 0, .ro, false, false, false, 0, .any⟩
def YLK.PAIR_STAT.STATE : Field := ⟨24, 0x30c, 0, 1, 31, 30, .ro, false, false, false, 0, .any⟩
def YLK.PAIR_STAT.PARTNER : Field := ⟨24, 0x30c, 0, 1, 29, 26, .ro, false, false, false, 0, .any⟩
def YLK.PAIR_STAT.SILENT : Field := ⟨24, 0x30c, 0, 1, 25, 25, .ro, false, false, false, 0, .any⟩
def YLK.PAIR_CNT.TAKEOVER : Field := ⟨24, 0x310, 0, 1, 31, 16, .rc, false, true, false, 0, .any⟩
def YLK.PAIR_CNT.GRANT_MISS : Field := ⟨24, 0x310, 0, 1, 15, 0, .rc, false, true, false, 0, .any⟩
def PWR.MODE.MODE : Field := ⟨5, 0x040, 0, 1, 31, 28, .ro, false, false, false, 3, .die0⟩
def PWR.MODE.PREV : Field := ⟨5, 0x040, 0, 1, 27, 24, .ro, false, false, false, 1, .die0⟩
def PWR.MODE.CAUSE : Field := ⟨5, 0x040, 0, 1, 19, 16, .ro, false, false, false, 0, .die0⟩
def PWR.MODE.TRANS : Field := ⟨5, 0x040, 0, 1, 1, 1, .ro, false, false, false, 0, .die0⟩
def PWR.MODE.DEGRADED : Field := ⟨5, 0x040, 0, 1, 0, 0, .ro, false, false, false, 0, .die0⟩
def PWR.HOLD_CFG.AUTO : Field := ⟨5, 0x044, 0, 1, 16, 16, .rw, true, true, false, 1, .die0⟩
def PWR.HOLD_CFG.LD_HOLD_MS : Field := ⟨5, 0x044, 0, 1, 15, 0, .rw, true, true, false, 2000, .die0⟩
def PWR.DOM_CTRL.STATUS : Field := ⟨5, 0x060, 4, 6, 31, 29, .ro, false, true, false, 0, .any⟩
def PWR.DOM_CTRL.STATE : Field := ⟨5, 0x060, 4, 6, 9, 8, .ro, false, true, false, 0, .any⟩
def PWR.DOM_CTRL.REQ : Field := ⟨5, 0x060, 4, 6, 1, 0, .rw, false, true, false, 0, .any⟩
def PWR.TEMP.PEAK : Field := ⟨5, 0x080, 0, 1, 15, 8, .rc, false, false, false, 0, .any⟩
def PWR.TEMP.NOW : Field := ⟨5, 0x080, 0, 1, 7, 0, .ro, false, false, false, 0, .any⟩
def PWR.THERM_CFG.CRIT : Field := ⟨5, 0x084, 0, 1, 23, 16, .ro, false, false, false, 108, .any⟩
def PWR.THERM_CFG.THROT : Field := ⟨5, 0x084, 0, 1, 15, 8, .rw, true, true, false, 98, .any⟩
def PWR.THERM_CFG.HYST : Field := ⟨5, 0x084, 0, 1, 7, 0, .rw, true, true, false, 5, .any⟩
def PWR.THERM_STAT.CAUSING : Field := ⟨5, 0x088, 0, 1, 31, 31, .ro, false, false, false, 0, .any⟩
def PWR.THERM_STAT.COUNT : Field := ⟨5, 0x088, 0, 1, 15, 0, .rc, false, false, false, 0, .any⟩
def PWR.PKG_PWR.PEAK_W : Field := ⟨5, 0x0a0, 0, 1, 31, 16, .rc, false, false, false, 0, .die0⟩
def PWR.PKG_PWR.AVG_W : Field := ⟨5, 0x0a0, 0, 1, 15, 0, .ro, false, false, false, 0, .die0⟩
def PWR.LIMIT_CNT.COUNT : Field := ⟨5, 0x0a4, 0, 1, 31, 0, .rc, false, false, false, 0, .die0⟩
def PWR.WAKE_CFG.GPIO0 : Field := ⟨5, 0x0b0, 0, 1, 2, 2, .rw, false, true, false, 0, .die0⟩
def PWR.WAKE_CFG.I3C : Field := ⟨5, 0x0b0, 0, 1, 1, 1, .rw, false, true, false, 1, .die0⟩
def PWR.WAKE_CFG.WATCH : Field := ⟨5, 0x0b0, 0, 1, 0, 0, .rw, false, true, false, 1, .die0⟩
def PWR.WAKE_STAT.VALID : Field := ⟨5, 0x0b4, 0, 1, 31, 31, .rc, false, false, false, 0, .die0⟩
def PWR.WAKE_STAT.SOURCE : Field := ⟨5, 0x0b4, 0, 1, 1, 0, .ro, false, false, false, 0, .die0⟩
def WDN.FW_STAT.BANK : Field := ⟨2, 0x040, 0, 1, 31, 31, .ro, false, false, false, 0, .any⟩
def WDN.FW_STAT.OTHER_OK : Field := ⟨2, 0x040, 0, 1, 30, 30, .ro, false, false, false, 0, .any⟩
def WDN.FW_STAT.PAUSE : Field := ⟨2, 0x040, 0, 1, 29, 29, .ro, false, false, false, 0, .any⟩
def WDN.FW_STAT.VERSION : Field := ⟨2, 0x040, 0, 1, 15, 0, .ro, false, false, false, 0, .any⟩
def WDN.CFG_STAT.COPY : Field := ⟨2, 0x044, 0, 1, 31, 31, .ro, false, false, false, 0, .any⟩
def WDN.CFG_STAT.OTHER_OK : Field := ⟨2, 0x044, 0, 1, 30, 30, .ro, false, false, false, 0, .any⟩
def WDN.CH_CMD0.TAG : Field := ⟨2, 0x400, 0, 1, 31, 24, .wo, false, false, true, 0, .any⟩
def WDN.CH_CMD0.CODE : Field := ⟨2, 0x400, 0, 1, 15, 0, .wo, false, false, true, 0, .any⟩
def WDN.CH_CMD1.TAG : Field := ⟨2, 0x800, 0, 1, 31, 24, .wo, false, false, false, 0, .any⟩
def WDN.CH_CMD1.CODE : Field := ⟨2, 0x800, 0, 1, 15, 0, .wo, false, false, false, 0, .any⟩
def WDN.CH_CMD2.TAG : Field := ⟨2, 0xc00, 0, 1, 31, 24, .wo, false, false, false, 0, .any⟩
def WDN.CH_CMD2.CODE : Field := ⟨2, 0xc00, 0, 1, 15, 0, .wo, false, false, false, 0, .any⟩
def WDN.CH_STAT0.BUSY : Field := ⟨2, 0x404, 0, 1, 31, 31, .ro, false, false, true, 0, .any⟩
def WDN.CH_STAT0.TAG : Field := ⟨2, 0x404, 0, 1, 23, 16, .ro, false, false, true, 0, .any⟩
def WDN.CH_STAT0.STATUS : Field := ⟨2, 0x404, 0, 1, 7, 0, .ro, false, false, true, 0, .any⟩
def WDN.CH_STAT1.BUSY : Field := ⟨2, 0x804, 0, 1, 31, 31, .ro, false, false, false, 0, .any⟩
def WDN.CH_STAT1.TAG : Field := ⟨2, 0x804, 0, 1, 23, 16, .ro, false, false, false, 0, .any⟩
def WDN.CH_STAT1.STATUS : Field := ⟨2, 0x804, 0, 1, 7, 0, .ro, false, false, false, 0, .any⟩
def WDN.CH_STAT2.BUSY : Field := ⟨2, 0xc04, 0, 1, 31, 31, .ro, false, false, false, 0, .any⟩
def WDN.CH_STAT2.TAG : Field := ⟨2, 0xc04, 0, 1, 23, 16, .ro, false, false, false, 0, .any⟩
def WDN.CH_STAT2.STATUS : Field := ⟨2, 0xc04, 0, 1, 7, 0, .ro, false, false, false, 0, .any⟩
def WDN.CH_ARG0.DATA : Field := ⟨2, 0x500, 4, 64, 31, 0, .rw, false, false, true, 0, .any⟩
def WDN.CH_ARG1.DATA : Field := ⟨2, 0x900, 4, 64, 31, 0, .rw, false, false, false, 0, .any⟩
def WDN.CH_ARG2.DATA : Field := ⟨2, 0xd00, 4, 64, 31, 0, .rw, false, false, false, 0, .any⟩
def WDN.CH_RSP0.DATA : Field := ⟨2, 0x600, 4, 64, 31, 0, .ro, false, false, true, 0, .any⟩
def WDN.CH_RSP1.DATA : Field := ⟨2, 0xa00, 4, 64, 31, 0, .ro, false, false, false, 0, .any⟩
def WDN.CH_RSP2.DATA : Field := ⟨2, 0xe00, 4, 64, 31, 0, .ro, false, false, false, 0, .any⟩
def LBX.HEAD.SEQ : Field := ⟨3, 0x040, 0, 1, 31, 0, .ro, false, true, false, 0, .any⟩
def LBX.RD_SEQ.SEQ : Field := ⟨3, 0x044, 0, 1, 31, 0, .rw, false, true, false, 0, .any⟩
def LBX.RD_SLOT.SLOT : Field := ⟨3, 0x048, 0, 1, 5, 0, .rw, false, true, false, 0, .any⟩
def LBX.RD_STAT.BUSY : Field := ⟨3, 0x04c, 0, 1, 31, 31, .ro, false, true, false, 0, .any⟩
def LBX.RD_STAT.VALID : Field := ⟨3, 0x04c, 0, 1, 30, 30, .ro, false, true, false, 0, .any⟩
def LBX.RD_STAT.GONE : Field := ⟨3, 0x04c, 0, 1, 29, 29, .ro, false, true, false, 0, .any⟩
def LBX.SEAL_STAT.LOST : Field := ⟨3, 0x050, 0, 1, 31, 16, .ro, false, true, false, 0, .any⟩
def LBX.SEAL_STAT.USED : Field := ⟨3, 0x050, 0, 1, 6, 0, .ro, false, true, false, 0, .any⟩
def LBX.REC.DATA : Field := ⟨3, 0x100, 4, 64, 31, 0, .ro, false, true, false, 0, .any⟩
def CTR.SEL.DIE : Field := ⟨7, 0x040, 0, 1, 29, 24, .rw, false, false, false, 0, .any⟩
def CTR.SEL.SLOT : Field := ⟨7, 0x040, 0, 1, 15, 0, .rw, false, false, false, 0, .any⟩
def CTR.OVF_SRC.VALID : Field := ⟨7, 0x044, 0, 1, 31, 31, .rc, false, false, false, 0, .any⟩
def CTR.OVF_SRC.DIE : Field := ⟨7, 0x044, 0, 1, 29, 24, .ro, false, false, false, 0, .any⟩
def CTR.OVF_SRC.CNT : Field := ⟨7, 0x044, 0, 1, 18, 16, .ro, false, false, false, 0, .any⟩
def CTR.OVF_SRC.SLOT : Field := ⟨7, 0x044, 0, 1, 15, 0, .ro, false, false, false, 0, .any⟩
def CTR.EVSEL.CHAIN : Field := ⟨7, 0x060, 4, 8, 12, 12, .rw, true, true, false, 0, .any⟩
def CTR.EVSEL.EVENT : Field := ⟨7, 0x060, 4, 8, 11, 0, .rw, true, true, false, 0, .any⟩
def CTR.CNT_LO.COUNT : Field := ⟨7, 0x080, 8, 8, 31, 0, .rc, false, false, false, 0, .any⟩
def CTR.CNT_HI.OVF : Field := ⟨7, 0x084, 8, 8, 31, 31, .rc, false, false, false, 0, .any⟩
def CTR.CNT_HI.COUNT : Field := ⟨7, 0x084, 8, 8, 15, 0, .rc, false, false, false, 0, .any⟩
def CTR.HOLD_LO.COUNT : Field := ⟨7, 0x0c0, 0, 1, 31, 0, .ro, false, false, false, 0, .any⟩
def CTR.HOLD_HI.COUNT : Field := ⟨7, 0x0c4, 0, 1, 31, 0, .ro, false, false, false, 0, .any⟩
def CTR.SNAP_TIME_LO.TIME : Field := ⟨7, 0x100, 0, 1, 31, 0, .rw, false, true, false, 0, .any⟩
def CTR.SNAP_TIME_HI.TIME : Field := ⟨7, 0x104, 0, 1, 31, 0, .rw, false, true, false, 0, .any⟩
def CTR.SNAP_CTL.DONE : Field := ⟨7, 0x108, 0, 1, 31, 31, .ro, false, false, false, 0, .any⟩
def CTR.SNAP_CTL.LATE : Field := ⟨7, 0x108, 0, 1, 30, 30, .ro, false, false, false, 0, .any⟩
def CTR.SNAP_CTL.ARM : Field := ⟨7, 0x108, 0, 1, 0, 0, .rw, false, true, false, 0, .any⟩
def CTR.SNAP_LO.COUNT : Field := ⟨7, 0x140, 8, 8, 31, 0, .ro, false, false, false, 0, .any⟩
def CTR.SNAP_HI.COUNT : Field := ⟨7, 0x144, 8, 8, 31, 0, .ro, false, false, false, 0, .any⟩
def CTR.BW_SRC.DIE : Field := ⟨7, 0x400, 16, 16, 29, 24, .rw, false, true, false, 0, .any⟩
def CTR.BW_SRC.SLOT : Field := ⟨7, 0x400, 16, 16, 15, 0, .rw, false, true, false, 0, .any⟩
def CTR.BW_CFG.EN : Field := ⟨7, 0x404, 16, 16, 31, 31, .rw, false, true, false, 0, .any⟩
def CTR.BW_CFG.WIN : Field := ⟨7, 0x404, 16, 16, 15, 0, .rw, false, true, false, 128, .any⟩
def CTR.BW_TX.UNITS : Field := ⟨7, 0x408, 16, 16, 31, 0, .ro, false, false, false, 0, .any⟩
def CTR.BW_RX.UNITS : Field := ⟨7, 0x40c, 16, 16, 31, 0, .ro, false, false, false, 0, .any⟩

def fieldsOfHUB0 : List Field := [HUB.ROUTE_SEL.DIE, HUB.ROUTE_SEL.SLOT, HUB.ROUTE.ENTRY, HUB.IPI.MSG, HUB.IPI_SEC.MSG, HUB.APL_SRC.ENTRY, HUB.DIE_SEL.DIE, HUB.DIE_INFO.STATE, HUB.DIE_INFO.REASON, HUB.DIE_INFO.REV, HUB.DIE_CAP_LO.CAP, HUB.DIE_CAP_HI.CAP, HUB.CAP_EFF_LO.CAP, HUB.CAP_EFF_HI.CAP, HUB.MEM_CFG.DDR_EN, HUB.MEM_CFG.DDR_CH, HUB.MEM_CFG.DDR_EXP, HUB.MEM_CFG.FOLD, HUB.MEM_CFG.DEGRADED, HUB.MEM_CFG.MODE, HUB.HOME_MAP.SUB_0, HUB.HOME_MAP.SUB_1, HUB.HOME_MAP.SUB_2, HUB.HOME_MAP.SUB_3]
def fieldsOfHUB1 : List Field := [HUB.SREG_SEL.BUSY, HUB.SREG_SEL.REGION, HUB.SREG_LO.BASE, HUB.SREG_LO.SIZE_EXP, HUB.SREG_LO.EN, HUB.SREG_HI.BASE, HUB.SEV_ROUTE.ENTRY, HUB.SEV_CNT.COUNT, HUB.SEV_ADDR_LO.ADDR, HUB.SEV_ADDR_HI.ADDR, HUB.SEV_INFO.VALID, HUB.SEV_INFO.OVER, HUB.SEV_INFO.KIND, HUB.SEV_INFO.HART, HUB.SEV_INFO.MASTER, HUB.SEV_INFO.WRITE, HUB.DBG_FUSE.NNID, HUB.DBG_FUSE.NID, HUB.DBG_FUSE.SNID, HUB.DBG_FUSE.SID, HUB.DBG_CTRL.NNID, HUB.DBG_CTRL.NID, HUB.DBG_CTRL.SNID, HUB.DBG_CTRL.SID]
/-- Every field of the HUB block, in the order of its chapter. -/
def fieldsOfHUB : List Field := fieldsOfHUB0 ++ fieldsOfHUB1
def fieldsOfWDN0 : List Field := [WDN.FW_STAT.BANK, WDN.FW_STAT.OTHER_OK, WDN.FW_STAT.PAUSE, WDN.FW_STAT.VERSION, WDN.CFG_STAT.COPY, WDN.CFG_STAT.OTHER_OK, WDN.CH_CMD0.TAG, WDN.CH_CMD0.CODE, WDN.CH_CMD1.TAG, WDN.CH_CMD1.CODE, WDN.CH_CMD2.TAG, WDN.CH_CMD2.CODE, WDN.CH_STAT0.BUSY, WDN.CH_STAT0.TAG, WDN.CH_STAT0.STATUS, WDN.CH_STAT1.BUSY, WDN.CH_STAT1.TAG, WDN.CH_STAT1.STATUS, WDN.CH_STAT2.BUSY, WDN.CH_STAT2.TAG, WDN.CH_STAT2.STATUS, WDN.CH_ARG0.DATA, WDN.CH_ARG1.DATA, WDN.CH_ARG2.DATA]
def fieldsOfWDN1 : List Field := [WDN.CH_RSP0.DATA, WDN.CH_RSP1.DATA, WDN.CH_RSP2.DATA]
/-- Every field of the WDN block, in the order of its chapter. -/
def fieldsOfWDN : List Field := fieldsOfWDN0 ++ fieldsOfWDN1
def fieldsOfLBX0 : List Field := [LBX.HEAD.SEQ, LBX.RD_SEQ.SEQ, LBX.RD_SLOT.SLOT, LBX.RD_STAT.BUSY, LBX.RD_STAT.VALID, LBX.RD_STAT.GONE, LBX.SEAL_STAT.LOST, LBX.SEAL_STAT.USED, LBX.REC.DATA]
/-- Every field of the LBX block, in the order of its chapter. -/
def fieldsOfLBX : List Field := fieldsOfLBX0
def fieldsOfCLK0 : List Field := [CLK.GTIME_LO.TIME, CLK.GTIME_HI.TIME, CLK.PLL_STAT.LOCK_US, CLK.PLL_STAT.REF_OK, CLK.PLL_STAT.LOCK, CLK.SYNC_STAT.SYNCED, CLK.SYNC_STAT.DEV, CLK.SYNC_STAT.SLEW_CNT, CLK.CLU_CFG.DET_FLOOR, CLK.CLU_CFG.DIV, CLK.CLU_STAT.TRANS, CLK.CLU_STAT.THROTTLED, CLK.CLU_STAT.VLEVEL, CLK.CLU_STAT.DIV, CLK.RST_CAUSE.WARM_CNT, CLK.RST_CAUSE.BROWNOUT, CLK.RST_CAUSE.CAUSE, CLK.BOOT_US.TIME]
/-- Every field of the CLK block, in the order of its chapter. -/
def fieldsOfCLK : List Field := fieldsOfCLK0
def fieldsOfPWR0 : List Field := [PWR.MODE.MODE, PWR.MODE.PREV, PWR.MODE.CAUSE, PWR.MODE.TRANS, PWR.MODE.DEGRADED, PWR.HOLD_CFG.AUTO, PWR.HOLD_CFG.LD_HOLD_MS, PWR.DOM_CTRL.STATUS, PWR.DOM_CTRL.STATE, PWR.DOM_CTRL.REQ, PWR.TEMP.PEAK, PWR.TEMP.NOW, PWR.THERM_CFG.CRIT, PWR.THERM_CFG.THROT, PWR.THERM_CFG.HYST, PWR.THERM_STAT.CAUSING, PWR.THERM_STAT.COUNT, PWR.PKG_PWR.PEAK_W, PWR.PKG_PWR.AVG_W, PWR.LIMIT_CNT.COUNT, PWR.WAKE_CFG.GPIO0, PWR.WAKE_CFG.I3C, PWR.WAKE_CFG.WATCH, PWR.WAKE_STAT.VALID]
def fieldsOfPWR1 : List Field := [PWR.WAKE_STAT.SOURCE]
/-- Every field of the PWR block, in the order of its chapter. -/
def fieldsOfPWR : List Field := fieldsOfPWR0 ++ fieldsOfPWR1
def fieldsOfGRD0 : List Field := [GRD.DENY_CNT.COUNT, GRD.WIDTH_CNT.COUNT, GRD.UNMAP_CNT.COUNT, GRD.ABSENT_CNT.COUNT, GRD.LAST_ADDR_LO.ADDR, GRD.LAST_ADDR_HI.ADDR, GRD.LAST_INFO.MASTER, GRD.LAST_INFO.HART, GRD.LAST_INFO.VIRT, GRD.LAST_INFO.PRIV, GRD.LAST_INFO.KIND, GRD.LAST_INFO.WRITE, GRD.LAST_INFO.SECURE]
/-- Every field of the GRD block, in the order of its chapter. -/
def fieldsOfGRD : List Field := fieldsOfGRD0
def fieldsOfCTR0 : List Field := [CTR.SEL.DIE, CTR.SEL.SLOT, CTR.OVF_SRC.VALID, CTR.OVF_SRC.DIE, CTR.OVF_SRC.CNT, CTR.OVF_SRC.SLOT, CTR.EVSEL.CHAIN, CTR.EVSEL.EVENT, CTR.CNT_LO.COUNT, CTR.CNT_HI.OVF, CTR.CNT_HI.COUNT, CTR.HOLD_LO.COUNT, CTR.HOLD_HI.COUNT, CTR.SNAP_TIME_LO.TIME, CTR.SNAP_TIME_HI.TIME, CTR.SNAP_CTL.DONE, CTR.SNAP_CTL.LATE, CTR.SNAP_CTL.ARM, CTR.SNAP_LO.COUNT, CTR.SNAP_HI.COUNT, CTR.BW_SRC.DIE, CTR.BW_SRC.SLOT, CTR.BW_CFG.EN, CTR.BW_CFG.WIN]
def fieldsOfCTR1 : List Field := [CTR.BW_TX.UNITS, CTR.BW_RX.UNITS]
/-- Every field of the CTR block, in the order of its chapter. -/
def fieldsOfCTR : List Field := fieldsOfCTR0 ++ fieldsOfCTR1
def fieldsOfFIL0 : List Field := [FIL.DST_LO.ADDR, FIL.DST_HI.ADDR, FIL.LEN.LINES, FIL.PAT_LO.PAT, FIL.PAT_HI.PAT, FIL.CTRL.BUSY, FIL.CTRL.ERR, FIL.CTRL.HART, FIL.CTRL.TARGET, FIL.CTRL.ABORT, FIL.CTRL.GO]
/-- Every field of the FIL block, in the order of its chapter. -/
def fieldsOfFIL : List Field := fieldsOfFIL0
def fieldsOfSCB0 : List Field := [SCB.START_LO.ADDR, SCB.START_HI.ADDR, SCB.END_LO.ADDR, SCB.END_HI.ADDR, SCB.CTRL.BUSY, SCB.CTRL.REFUSED, SCB.CTRL.GAP, SCB.CTRL.ABORT, SCB.CTRL.GO, SCB.CE.COUNT, SCB.UE.COUNT, SCB.FIRST_LO.ADDR, SCB.FIRST_HI.ADDR, SCB.LAST_LO.ADDR, SCB.LAST_HI.ADDR]
/-- Every field of the SCB block, in the order of its chapter. -/
def fieldsOfSCB : List Field := fieldsOfSCB0
def fieldsOfBWR0 : List Field := [BWR.G_SEL.MASTER, BWR.G_SEL.RES, BWR.G_VAL.GUAR, BWR.G_EFF.GUAR, BWR.ADM_RES.VALID, BWR.ADM_RES.RES, BWR.ADM_SUM.SUM, BWR.CAPACITY.CAP, BWR.RES_STAT.SCALED, BWR.RES_STAT.EFF_CAP, BWR.MCFG.PCLASS, BWR.MCFG.SHARE, BWR.URG_CFG.EN, BWR.URG_CFG.EMPTY, BWR.URG_CFG.T3, BWR.URG_CFG.T2, BWR.URG_CFG.T1, BWR.MON_SEL.MASTER, BWR.MON_SEL.RES, BWR.MON_USED.DEMOTED, BWR.MON_USED.UNITS, BWR.MON_DEMOTE.COUNT]
/-- Every field of the BWR block, in the order of its chapter. -/
def fieldsOfBWR : List Field := fieldsOfBWR0
def fieldsOfXFB0 : List Field := [XFB.LATCH_WIN.CYCLES, XFB.IO_TMO.EXP, XFB.LATE_CPL.COUNT, XFB.WAKE_CNT.RET, XFB.WAKE_CNT.CG, XFB.WAKE_HOLD.COUNT, XFB.CE_CNT.COUNT, XFB.ERR_HDR.HDR, XFB.ROUTE.USING_ALT, XFB.ROUTE.ALT, XFB.ROUTE.PRI]
/-- Every field of the XFB block, in the order of its chapter. -/
def fieldsOfXFB : List Field := fieldsOfXFB0
def fieldsOfDIR0 : List Field := [DIR.SETFULL.COUNT, DIR.PENDFULL.COUNT, DIR.STALE_SNP.COUNT, DIR.BACKINV.COUNT, DIR.CE.COUNT, DIR.UE_ADDR_LO.ADDR, DIR.UE_ADDR_HI.ADDR, DIR.UE_INFO.VALID, DIR.UE_INFO.OVER, DIR.UE_INFO.BANK, DIR.PROBE_LO.ADDR, DIR.PROBE_HI.ADDR, DIR.PROBE_CTRL.DONE, DIR.PROBE_CTRL.NOT_HOME, DIR.PROBE_CTRL.DENIED, DIR.PROBE_CTRL.GO, DIR.PROBE_STATE.L3_VALID, DIR.PROBE_STATE.L3_DIRTY, DIR.PROBE_STATE.STATE, DIR.PROBE_STATE.OWNER, DIR.PROBE_STATE.WAY, DIR.PROBE_SHR.VEC]
/-- Every field of the DIR block, in the order of its chapter. -/
def fieldsOfDIR : List Field := fieldsOfDIR0
def fieldsOfL3C0 : List Field := [L3C.WAYS.MASK, L3C.OCC.LINES]
/-- Every field of the L3C block, in the order of its chapter. -/
def fieldsOfL3C : List Field := fieldsOfL3C0
def fieldsOfHNG0 : List Field := [HNG.TRAIN_STAT.STATE, HNG.TRAIN_STAT.ATTEMPTS, HNG.TRAIN_STAT.MASK, HNG.TRAIN_STAT.PEER_EPOCH, HNG.TRAIN_STAT.EPOCH, HNG.TRAIN_STAT.WIDTH, HNG.REPAIR.LANES_0, HNG.REPAIR.LANES_1, HNG.REPAIR.LANES_2, HNG.REPAIR.LANES_3, HNG.REPAIR.LANES_4, HNG.REPAIR.LANES_5, HNG.REPAIR.LANES_6, HNG.REPAIR.LANES_7, HNG.RECAL.BUSY, HNG.RECAL.AUTO_MS, HNG.RECAL.MOD, HNG.RECAL.RESULT, HNG.RECAL.GO, HNG.CRC_CNT.COUNT, HNG.REPLAY_CNT.COUNT]
/-- Every field of the HNG block, in the order of its chapter. -/
def fieldsOfHNG : List Field := fieldsOfHNG0
def fieldsOfMCH0 : List Field := [MCH.CE_CNT.COUNT, MCH.UE_CNT.COUNT, MCH.FIX_CNT.COUNT, MCH.ODECC_CNT.COUNT, MCH.UE_ADDR_LO.ADDR, MCH.UE_ADDR_HI.ADDR, MCH.UE_INFO.VALID, MCH.UE_INFO.OVER, MCH.UE_INFO.REPAIRED, MCH.UE_INFO.SOURCE, MCH.UE_INFO.WORDS, MCH.RESYNC.BUSY, MCH.RESYNC.PTR]
/-- Every field of the MCH block, in the order of its chapter. -/
def fieldsOfMCH : List Field := fieldsOfMCH0
def fieldsOfHCL0 : List Field := [HCL.L2_OP.BUSY, HCL.L2_OP.OP, HCL.CE_L1.COUNT, HCL.CE_L2.COUNT, HCL.CE_LS.COUNT, HCL.UE_ADDR_LO.ADDR, HCL.UE_ADDR_HI.ADDR, HCL.UE_INFO.VALID, HCL.UE_INFO.OVER, HCL.UE_INFO.ARRAY, HCL.UE_INFO.HART, HCL.L2_WAYS.MASK]
/-- Every field of the HCL block, in the order of its chapter. -/
def fieldsOfHCL : List Field := fieldsOfHCL0
def fieldsOfSCN0 : List Field := [SCN.EPOCH_LO.EPOCH, SCN.EPOCH_HI.EPOCH, SCN.TS_ADDR.DENIED, SCN.TS_ADDR.INC, SCN.TS_ADDR.OFFSET, SCN.TS_DATA_LO.DATA, SCN.TS_DATA_HI.DATA, SCN.CMT_INFO.CHECK, SCN.CMT_INFO.BASE, SCN.CMT_INFO.CLASS, SCN.CMT_INFO.TASK, SCN.CLASS_CFG.EN, SCN.CLASS_CFG.PERIOD, SCN.CLASS_OFS.OFFSET, SCN.CLASS_WIN.PULL_RW, SCN.CLASS_WIN.PUSH_RW, SCN.CLASS_BUD.PUSH, SCN.CLASS_BUD.PULL, SCN.CLASS_PULL.PULL_START, SCN.CLASS_SEQ.SEQ, SCN.CLASS_NEXT_LO.TIME, SCN.CLASS_NEXT_HI.TIME, SCN.CLASS_CNT.MISS, SCN.CLASS_CNT.SKIP]
def fieldsOfSCN1 : List Field := [SCN.SEG_CLASS.EN_0, SCN.SEG_CLASS.EN_1, SCN.SEG_CLASS.EN_2, SCN.SEG_CLASS.EN_3, SCN.SEG_CLASS.EN_4, SCN.SEG_CLASS.EN_5, SCN.SEG_CLASS.EN_6, SCN.SEG_CLASS.EN_7, SCN.SEG_CLASS.CLASS_0, SCN.SEG_CLASS.CLASS_1, SCN.SEG_CLASS.CLASS_2, SCN.SEG_CLASS.CLASS_3, SCN.SEG_CLASS.CLASS_4, SCN.SEG_CLASS.CLASS_5, SCN.SEG_CLASS.CLASS_6, SCN.SEG_CLASS.CLASS_7, SCN.TASK_EN.EN, SCN.HIST_SEL.CLASS, SCN.HIST_SEQ.SEQ, SCN.HIST_ACK.SEQ, SCN.HIST_CFG.SHIFT, SCN.HIST_BIN.COUNT]
/-- Every field of the SCN block, in the order of its chapter. -/
def fieldsOfSCN : List Field := fieldsOfSCN0 ++ fieldsOfSCN1
def fieldsOfSPL0 : List Field := [SPL.DESC_ADDR.QFULL, SPL.DESC_ADDR.INC, SPL.DESC_ADDR.QCNT, SPL.DESC_ADDR.INDEX, SPL.DESC_DATA.DESC, SPL.LIM_SEL.PROF, SPL.LIM_DATA.HI, SPL.LIM_DATA.LO, SPL.DMA_RATE.UNITS, SPL.CTX_INV.BUSY, SPL.CTX_INV.ALL, SPL.CTX_INV.VMID, SPL.FAULT_GPA_LO.ADDR, SPL.FAULT_GPA_HI.ADDR, SPL.FAULT_INFO.VALID, SPL.FAULT_INFO.OVER, SPL.FAULT_INFO.VIEW, SPL.FAULT_INFO.REASON, SPL.FAULT_INFO.LEVEL, SPL.SEG_SEL_IN.SEL, SPL.SEG_SEL_OUT.SEL, SPL.VIEW_SEL.VIEW, SPL.VIEW_CFG.EN, SPL.VIEW_CFG.SECURE]
def fieldsOfSPL1 : List Field := [SPL.VIEW_CFG.CLASS, SPL.VIEW_CFG.LOG_EN, SPL.VIEW_CFG.DMA_OUT, SPL.VIEW_CFG.DMA_IN, SPL.VIEW_CFG.R_DESC, SPL.VIEW_CFG.W_FORCE, SPL.VIEW_CFG.W_SAFE, SPL.VIEW_CFG.W_OUT, SPL.VIEW_CFG.R_OUT, SPL.VIEW_CFG.R_IN, SPL.VIEW_BASE.VALUE, SPL.VIEW_CNT.VALUE, SPL.VIEW_CTRL.GEN, SPL.VIEW_CTRL.DMA_BUSY, SPL.VIEW_CTRL.DMA_SUSP, SPL.VIEW_CTRL.LOG_OVF, SPL.VIEW_CTRL.RESUME, SPL.VIEW_CTRL.RESET, SPL.VIEW_DENY.COUNT, SPL.VIEW_DROP.LATE, SPL.VIEW_DROP.LINES, SPL.CTX_HGATP_LO.VALUE, SPL.CTX_HGATP_HI.VALUE, SPL.DMA_RING_LO.GPA]
def fieldsOfSPL2 : List Field := [SPL.DMA_RING_LO.STRIDE_EXP, SPL.DMA_RING_LO.NBUF_EXP, SPL.DMA_RING_HI.GPA, SPL.DMA_LAST.SEQ, SPL.LOG_BASE_LO.PA, SPL.LOG_BASE_LO.LOG_EXP, SPL.LOG_BASE_HI.PA, SPL.LOG_PROD.COUNT, SPL.LOG_CONS.COUNT]
/-- Every field of the SPL block, in the order of its chapter. -/
def fieldsOfSPL : List Field := fieldsOfSPL0 ++ fieldsOfSPL1 ++ fieldsOfSPL2
def fieldsOfBAR0 : List Field := [BAR.LINK_STAT.STATE, BAR.LINK_STAT.CH_OK, BAR.CRC_CNT.COUNT, BAR.REPLAY_CNT.COUNT, BAR.REG_ERR.COUNT, BAR.BAD_TYPE.TYPE, BAR.BAD_TYPE.LATE]
/-- Every field of the BAR block, in the order of its chapter. -/
def fieldsOfBAR : List Field := fieldsOfBAR0
def fieldsOfFLD0 : List Field := [FLD.ETYPE.AUTO, FLD.ETYPE.ETYPE, FLD.LOST_TMO.MS, FLD.SESS_SEL.SESSION, FLD.SESS_CFG0.EN, FLD.SESS_CFG0.CLASS, FLD.SESS_CFG0.PORT, FLD.SESS_CFG0.PCP, FLD.SESS_CFG0.VID, FLD.SESS_CFG1.CNT, FLD.SESS_CFG1.LINE, FLD.SESS_CFG2.CNT, FLD.SESS_CFG2.LINE, FLD.SESS_ID_LO.ID, FLD.SESS_ID_HI.ID, FLD.SESS_STAT.STATE, FLD.SESS_STAT.GEN, FLD.SESS_STAT.MISSES, FLD.SESS_LAST.SESSION, FLD.ANN_SEL.REC, FLD.ANN_ID_LO.ID, FLD.ANN_ID_HI.ID, FLD.ANN_INFO.VALID, FLD.ANN_INFO.PORT]
def fieldsOfFLD1 : List Field := [FLD.ANN_INFO.IN_LINES, FLD.ANN_INFO.OUT_LINES, FLD.ANN_INFO.REQ, FLD.DROP_CNT.GEN, FLD.DROP_CNT.FRAME, FLD.FW_STAT.BANK, FLD.FW_STAT.OTHER_OK, FLD.FW_STAT.SWITCHING, FLD.PORT_CFG.EN, FLD.PORT_CFG.PRIO1, FLD.PORT_CFG.SPEED, FLD.PORT_STAT.LINK, FLD.PORT_STAT.ROLE, FLD.PORT_STAT.RX_DROP, FLD.GCL_CYCLE.CYCLE, FLD.GCL.INTERVAL, FLD.GCL.GATES, FLD.WATCH_CFG.EN, FLD.WATCH_CFG.PERIOD_MS, FLD.WP_SEL.POINT, FLD.WP_CFG.EN, FLD.WP_CFG.SIGNED, FLD.WP_CFG.WAKE_LOSS, FLD.WP_CFG.SLOT]
def fieldsOfFLD2 : List Field := [FLD.WP_CFG.SESSION, FLD.WP_LIM.HI, FLD.WP_LIM.LO, FLD.WP_ROC.ROC, FLD.WAKE_INFO.VALID, FLD.WAKE_INFO.CAUSE, FLD.WAKE_INFO.POINT, FLD.WAKE_INFO.VALUE]
/-- Every field of the FLD block, in the order of its chapter. -/
def fieldsOfFLD : List Field := fieldsOfFLD0 ++ fieldsOfFLD1 ++ fieldsOfFLD2
def fieldsOfSEP0 : List Field := [SEP.STAT.LINK_UP, SEP.STAT.PERST, SEP.STAT.BME, SEP.STAT.MSE, SEP.STAT.DSTATE, SEP.STAT.GEN, SEP.STAT.SPEED, SEP.STAT.WIDTH, SEP.BAR_CFG.BAR4_EXP, SEP.BAR_CFG.BAR2_EXP, SEP.OB_BASE_LO.ADDR, SEP.OB_BASE_HI.ADDR, SEP.HOST_IRQ.PME, SEP.HOST_IRQ.VECTOR, SEP.DB_PEND.PEND, SEP.LATE_CPL.COUNT, SEP.ABORT_CNT.COUNT, SEP.UR_CNT.COUNT, SEP.TMO_CNT.COUNT, SEP.WIN_LO.TGT, SEP.WIN_LO.SIZE_EXP, SEP.WIN_HI.TGT, SEP.WIN_OFS.OFS, SEP.WIN_CTRL.EN]
def fieldsOfSEP1 : List Field := [SEP.WIN_CTRL.REFUSED, SEP.WIN_CTRL.SEC, SEP.WIN_CTRL.BAR, SEP.WIN_CTRL.W, SEP.WIN_CTRL.R]
/-- Every field of the SEP block, in the order of its chapter. -/
def fieldsOfSEP : List Field := fieldsOfSEP0 ++ fieldsOfSEP1
def fieldsOfRCX0 : List Field := [RCX.LINK_CFG.UP, RCX.LINK_CFG.HOLD, RCX.LINK_CFG.MODE, RCX.DCT_LO.BASE, RCX.DCT_LO.SEC_OK, RCX.DCT_LO.EN, RCX.DCT_HI.BASE, RCX.MSI_ADDR_LO.ADDR, RCX.MSI_ADDR_HI.ADDR, RCX.CTX_INV.BUSY, RCX.CTX_INV.ALL, RCX.CTX_INV.VMID, RCX.FAULT_ADDR_LO.ADDR, RCX.FAULT_ADDR_HI.ADDR, RCX.FAULT_INFO.VALID, RCX.FAULT_INFO.OVER, RCX.FAULT_INFO.REASON, RCX.FAULT_INFO.WRITE, RCX.FAULT_INFO.LINK, RCX.FAULT_INFO.RID, RCX.LATE_CPL.COUNT, RCX.UR_CNT.COUNT]
/-- Every field of the RCX block, in the order of its chapter. -/
def fieldsOfRCX : List Field := fieldsOfRCX0
def fieldsOfYLK0 : List Field := [YLK.PORT_CFG.EN, YLK.PORT_CFG.PAIR, YLK.PORT_CFG.IRQ_EN, YLK.PORT_STAT.STATE, YLK.PORT_STAT.GEN, YLK.PORT_STAT.PEER_POS, YLK.PORT_STAT.PEER_ROLE, YLK.PORT_STAT.RTT, YLK.CRC_CNT.COUNT, YLK.REPLAY_CNT.COUNT, YLK.BAD_MSG.COUNT, YLK.LATE_CPL.COUNT, YLK.WIN_LO.TGT, YLK.WIN_LO.SIZE_EXP, YLK.WIN_HI.TGT, YLK.WIN_OFS.OFS, YLK.WIN_CTRL.EN, YLK.WIN_CTRL.REFUSED, YLK.WIN_CTRL.SEC, YLK.WIN_CTRL.W, YLK.COPY_SRC_LO.ADDR, YLK.COPY_SRC_HI.ADDR, YLK.COPY_DST_LO.ADDR, YLK.COPY_DST_HI.ADDR]
def fieldsOfYLK1 : List Field := [YLK.COPY_LEN.LINES, YLK.COPY_CTRL.BUSY, YLK.COPY_CTRL.ERR, YLK.COPY_CTRL.ABORT, YLK.COPY_CTRL.GO, YLK.CL_CFG.MGR_SEL, YLK.CL_CFG.POS, YLK.CL_STAT.JOIN, YLK.CL_STAT.ROLE, YLK.CL_STAT.MGR_POS, YLK.CL_STAT.DIST, YLK.CL_STAT.MISMATCH, YLK.CL_STAT.CATCHUP, YLK.CL_STAT.REFUSE, YLK.CL_STAT.DEV, YLK.CL_MEMBERS.POS, YLK.PAIR_STAT.STATE, YLK.PAIR_STAT.PARTNER, YLK.PAIR_STAT.SILENT, YLK.PAIR_CNT.TAKEOVER, YLK.PAIR_CNT.GRANT_MISS]
/-- Every field of the YLK block, in the order of its chapter. -/
def fieldsOfYLK : List Field := fieldsOfYLK0 ++ fieldsOfYLK1
def fieldsOfWRD0 : List Field := [WRD.VIOL_ADDR_LO.ADDR, WRD.VIOL_ADDR_HI.ADDR, WRD.VIOL_INFO.VALID, WRD.VIOL_INFO.KIND, WRD.VIOL_INFO.OP, WRD.VIOL_INFO.TAG, WRD.HELD.COUNT, WRD.WIN_LO.BASE, WRD.WIN_LO.SIZE_EXP, WRD.WIN_HI.BASE, WRD.WIN_CTRL.EN, WRD.WIN_CTRL.PCLASS, WRD.WIN_CTRL.WR_PART, WRD.WIN_CTRL.WR_FULL, WRD.WIN_CTRL.READ, WRD.WIN_RATE.CEIL, WRD.IRQ.ENTRY]
/-- Every field of the WRD block, in the order of its chapter. -/
def fieldsOfWRD : List Field := fieldsOfWRD0

/-- The fields that the tables give block type `t` (R40). -/
def fieldsOfType (t : Nat) : List Field :=
  match t with
  | 1 => fieldsOfHUB
  | 2 => fieldsOfWDN
  | 3 => fieldsOfLBX
  | 4 => fieldsOfCLK
  | 5 => fieldsOfPWR
  | 6 => fieldsOfGRD
  | 7 => fieldsOfCTR
  | 8 => fieldsOfFIL
  | 9 => fieldsOfSCB
  | 10 => fieldsOfBWR
  | 11 => fieldsOfXFB
  | 12 => fieldsOfDIR
  | 13 => fieldsOfL3C
  | 14 => fieldsOfHNG
  | 15 => fieldsOfMCH
  | 17 => fieldsOfHCL
  | 18 => fieldsOfSCN
  | 19 => fieldsOfSPL
  | 20 => fieldsOfBAR
  | 21 => fieldsOfFLD
  | 22 => fieldsOfSEP
  | 23 => fieldsOfRCX
  | 24 => fieldsOfYLK
  | 25 => fieldsOfWRD
  | _ => []

end Sys2Proof.Machine
end

