-- ==== Sys2Proof/Machine/Types.lean ====
section
/-! DEFINITION. The pieces of the state: block headers, shadows, harts and their arrays, cluster L2 lines, directory
entries and the transactions between them. -/
namespace Sys2Proof.Machine
open Sys2Proof

/-- The ordering variants (R1): SX-240-F, SX-240-N, SX-160-F, SX-160-L. -/
inductive Variant where
  | f240 | n240 | f160 | l160
deriving DecidableEq, Repr

/-- A Lockbox record waiting to be written (R406, R407): code, secure flag, die, instance, the GTIME and mode of the
event, the payload bytes, and whether the Lockbox hardware writes it (R413). -/
structure LbxRec where
  code : Nat
  sec : Bool
  die : Nat
  inst : Nat
  gtime : Nat
  mode : Nat
  pay : List Nat
  hw : Bool := false
deriving DecidableEq, Repr

/-- Where a message leaves the package: the barrier towards the field die or towards the host, a field port, a Yilust
port, the host link, a root port, the open site, a pin of the board. -/
inductive TxTo where
  | barField | barHost | field (p : Nat) | ylk (p : Nat) | host | rcx (p : Nat) | site | pin
deriving DecidableEq, Repr

/-- A message the package sends out of itself, in the order sent: to the field island, a Yilust peer, the host, a
device, the open site, the board. Each chapter's sends say what the numbers are. -/
structure Tx where
  dest : TxTo
  kind : Nat
  args : List Nat
deriving DecidableEq, Repr

/-- The header of a block page (R42) with the sequence acknowledgement state of R53. `capt` holds the capture value of
each event bit, `seen` the internal flag of R53, `resetting` is 1 while a block reset is in progress (READY reads 0). -/
structure Hdr where
  enable : Bool := true
  secHold : Bool := false
  cntFreeze : Bool := false
  staleAck : Bool := false
  badWrite : Bool := false
  degraded : Bool := false
  resetting : Bool := false
  seq : BitVec 8 := 0
  pend : BitVec 24 := 0
  mask : BitVec 24 := 0xFFFFFF
  capt : Map (BitVec 8) := []
  seen : Bool := false
  arm : Bool := false
  applied : Bool := false
  refused : Bool := false
  reason : Nat := 0
  cseq : BitVec 8 := 0
deriving DecidableEq, Repr

/-- Who made an access, as the package records it (R52, R322): regulated master number, logical hart or 0xFF, the
privilege code of GRD.LAST_INFO, VS or VU mode, the world tag, and whether it is a machine-level master. -/
structure Who where
  num : Nat := 0
  hart : Nat := 0xFF
  priv : Nat := 2
  virt : Bool := false
  sec : Bool := false
  mach : Bool := false
deriving DecidableEq, Repr

/-- A shadowed field that differs from its active value or was written (R57): its value, whether the last write that
changed it carried the normal tag (R320), and who made that write. -/
structure ShEntry where
  val : Nat
  normal : Bool
  who : Who
deriving DecidableEq, Repr

/-- A message in the hub interrupt router (R99): the source it came from, the hart, the file (0 the secure file, 1 the
supervisor file, 2-8 guest files 1-7) and the identity. -/
structure IrqMsg where
  src : Nat
  hart : Nat
  file : Nat
  ident : Nat
deriving DecidableEq, Repr

/-- One interrupt file of a hart's IMSIC (R98): pending and enable bits by identity, threshold and delivery. -/
structure IrqFile where
  eip : List Nat := []
  eie : List Nat := []
  thr : Nat := 0
  deliv : Bool := false
deriving DecidableEq, Repr

/-- Privilege of a hart. -/
inductive Priv where
  | u | s | m
deriving DecidableEq, Repr

/-- What a hart is doing: parked (R75), running, in WFI, in scan-wait (R108), halted in debug mode (R326), or parked by
the Warden for a spare swap (R109). -/
inductive Run where
  | parked | running | wfi | scanWait | halted | swapping
deriving DecidableEq, Repr

/-- Where a store goes: cacheable memory, the hart's local store, or an I/O range. -/
inductive Tgt where
  | mem | ls | io
deriving DecidableEq, Repr

/-- A store-buffer entry (R132, R138): one aligned 8-byte granule with its byte mask; `io` entries keep their size. -/
structure SbEntry where
  pa : Nat
  mask : Nat
  data : Nat
  tgt : Tgt
  size : Nat
  sec : Bool
  who : Who
  begun : Bool
deriving DecidableEq, Repr

/-- A line held in a hart's L1 data or victim cache (R132): its line number, its way, and whether it is dirty with
respect to the L2. Its bytes are those of the cluster's line. -/
structure CLine where
  line : Nat
  way : Nat
  dirty : Bool
deriving DecidableEq, Repr

/-- The streaming-store detector (R136): the full-line stores counted, the line that would follow the last of them, the
line and the next granule of the run in progress, whether it streams, and the granules gathered of that line. -/
structure Strm where
  count : Nat := 0
  next : Nat := 0
  line : Nat := 0
  gran : Nat := 0
  on : Bool := false
  gather : List Nat := []
deriving DecidableEq, Repr

/-- A TLB entry (R122, R123): a leaf of 2^`exp` bytes mapping `va` to `pa`, by way of the guest physical address `gpa`
for a guest; the low byte of the leaf PTEs of both stages (`perm`, `gperm`), and the tags: ASID or G bit, VMID, guest
translation, world. -/
structure Tlb where
  va : Nat
  pa : Nat
  gpa : Nat
  exp : Nat
  perm : Nat
  gperm : Nat
  asid : Nat
  vmid : Nat
  virt : Bool
  sec : Bool
deriving DecidableEq, Repr

/-- The kind of a memory access, as causes and permissions tell it apart. -/
inductive AK where
  | fetch | load | store
deriving DecidableEq, Repr

/-- A page-table walk in progress (R125): the access it serves with its effective privilege (0 U, 1 S), whether both
stages are on and which root they start from, the VS-stage level, the guest physical address being translated in the
G-stage and its level, whether that is the last G-stage translation, the VS-stage leaf once found, and the physical
address of the PTE in flight. -/
structure Walk where
  ak : AK
  va : Nat
  priv : Nat
  hlvx : Bool
  virt : Bool
  vsOn : Bool
  gOn : Bool
  level : Nat
  table : Nat
  inG : Bool
  gpa : Nat
  gLevel : Nat
  gTable : Nat
  final : Bool
  leaf : Nat
  leafExp : Nat
  addr : Nat
deriving DecidableEq, Repr

/-- A line of the L1 instruction cache: its line number, its set (virtual address bits [12:6]) and way (R132). -/
structure ILine where
  line : Nat
  set : Nat
  way : Nat
deriving DecidableEq, Repr

/-- A request deferred while its hart is in the secure world (R324), with who asked: a mailbox park or reset of
channel `ch`, or a gating request of domain `n`. -/
inductive Deferred where
  | park (ch : Nat) (w : Who)
  | reset (ch : Nat) (w : Who)
  | gate (n req : Nat) (w : Who)
deriving DecidableEq, Repr

/-- A hart: its architectural registers, the CSRs by number, the values that still govern where a write is held or
settling (R89) with the instructions that a settling write may still be unseen by, the bits of `mdetstat`, its private
arrays, and the access or walk it waits for. `wakeInfo` is the release that a pending wake carries, `status` the last
status a SCAN.DONE reported; `before` is what it was doing before a spare swap parked it; `rst` holds the mailbox channels that wait for a hart reset in progress. -/
structure Hart where
  run : Run := .parked
  before : Run := .parked
  core : Nat := 0
  priv : Priv := .m
  virt : Bool := false
  pc : Word := 0
  x : Map Word := []
  f : Map Word := []
  csr : Map Word := []
  old : Map Word := []
  settle : List (Nat × Nat) := []
  useOld : Bool := false
  active : Bool := false
  pend : Bool := false
  swait : Bool := false
  done : Bool := false
  wakePend : Bool := false
  ext : Bool := false
  syncing : Bool := false
  sb : List SbEntry := []
  l1d : List CLine := []
  vc : List CLine := []
  l1i : List ILine := []
  itlb : List Tlb := []
  dtlb : List Tlb := []
  l2tlb : List Tlb := []
  strm : Strm := {}
  resv : Option Nat := none
  cur : Option Instr := none
  miss : Option Nat := none
  missSt : Bool := false
  missOwn : Bool := false
  refused : Option Nat := none
  stalled : Bool := false
  trapWait : Option (Nat × Word × Word) := none
  ioTag : Option Nat := none
  walk : Option Walk := none
  files : Map IrqFile := []
  ovf : List Nat := []
  deferred : List Deferred := []
  rst : Option (List Nat) := none
  wakeInfo : Word := 0
  status : Nat := 0
  haltReq : Bool := false
  stepping : Bool := false
  lastPc : Word := 0
deriving DecidableEq, Repr

/-- The states in which a cluster L2 holds a line (R165); a line in no list is I. -/
inductive LSt where
  | m | o | e | s
deriving DecidableEq, Repr

/-- A line of a cluster L2 (R165): state, bytes, poison marks by word (R219), the secure mark (R318), the end of its
latch window in half GTIME units (R173) and the snoop held by it. -/
structure L2Line where
  st : LSt
  data : Line
  poison : BitVec 8
  sec : Bool
  way : Nat
  latchEnd : Nat
  held : Option Bool
deriving DecidableEq, Repr

/-- The state of a directory entry (R168). -/
inductive DirSt where
  | uncached | shared | exclusive | owned
deriving DecidableEq, Repr

/-- What a busy entry waits to do when its snoops are answered: serve a cluster's request, an I/O request of a world,
or evict the line for
the request of a regulated master. -/
inductive TxnFor where
  | req (r : CohReq)
  | io (w : Who) (op : IoOp)
  | evict (m : Nat)
deriving DecidableEq, Repr

/-- A transaction of a busy entry (R168): what for, the clusters whose answers are outstanding, the data an owner has
supplied, and whether an answering cluster keeps an O or S copy. -/
structure Txn where
  what : TxnFor
  wait : List Nat
  data : Option (Line × BitVec 8) := none
  kept : List Nat := []
deriving DecidableEq, Repr

/-- An L3 line with its directory entry (R163, R168): bytes and poison marks, whether valid and dirty with respect to
memory, directory state, sharer vector, owner, way, the class that allocated it, and its transaction while busy. -/
structure L3Line where
  data : Line
  poison : BitVec 8
  valid : Bool
  dirty : Bool
  dst : DirSt
  vec : List Nat
  owner : Nat
  way : Nat
  pclass : Nat
  sec : Bool
  busy : Option Txn
deriving DecidableEq, Repr

/-- A snoop on its way to a cluster (R166): sharing or invalidating. -/
structure Snp where
  cl : Nat
  line : Nat
  inval : Bool
deriving DecidableEq, Repr

/-- The answer of a cluster to a snoop (R169): present or not, and the data it supplies. -/
structure SnpRsp where
  cl : Nat
  line : Nat
  present : Bool
  data : Option (Line × BitVec 8)
deriving DecidableEq, Repr

/-- A write-back on its way from a cluster to the home (R166, R175), with the mark of its line (R318) and
whether a snoop has already been answered from it. -/
structure WrBack where
  cl : Nat
  line : Nat
  data : Line
  poison : BitVec 8
  sec : Bool
  answered : Bool
deriving DecidableEq, Repr

/-- A retried request waiting out its backoff (R171), in MeshClk cycles. -/
structure Retry where
  req : CohReq
  backoff : Nat
deriving DecidableEq, Repr

/-- What an outstanding non-posted request of the hub asks (R157, R159): which hart waits, with which regulated master
number and world, the address and size, where it went (0-3 a root port, 4 the host, 5 the open site), the link of a root
port, the generation it carries, whether it is a configuration read, and the GTIME of its issue. -/
structure IoTxn where
  hart : Nat
  num : Nat
  sec : Bool
  addr : Nat
  size : Nat
  port : Nat
  link : Nat
  gen : Nat
  cfg : Bool
  since : Nat
deriving DecidableEq, Repr

/-- A secure region as the copies of the table hold it (R317). -/
structure Sreg where
  base : Nat
  exp : Nat
  en : Bool
deriving DecidableEq, Repr

/-- A die's service state as HUB.DIE_INFO shows it (0 absent, 1 in service, 2 fenced) with its reason, the revision
and capability vector it advertised, the deviation of its GTIME counter from the hub's (R72), whether it is being
slewed, and whether its root is locked. -/
structure Die where
  st : Nat := 0
  reason : Nat := 0
  rev : Nat := 0
  cap : Nat := 0
  dev : Int := 0
  slew : Bool := false
  locked : Bool := false
  resetting : Bool := false
deriving DecidableEq, Repr

/-- A power domain that can sleep (R160, R384): whether a packet has started its wake, the packets its wake buffer
holds, oldest first, as the commands or messages they are, the state it is on its way to, and who asked. -/
structure Dom where
  waking : Bool := false
  held : List Instr := []
  heldTx : List Tx := []
  goal : Option Nat := none
deriving DecidableEq, Repr

/-- A mailbox channel beside its registers (R398): the command written and not yet taken up with its tag and writer, and
the command in progress with the units it names. -/
structure Chan where
  asked : Option (Nat × Nat) := none
  who : Who := {}
  code : Nat := 0
  names : List Nat := []
  arg : Nat := 0
deriving DecidableEq, Repr

/-- A firmware bank (R395, R415): its sequence number, the version and CRC of its image, and whether it passes its CRC. -/
structure Bank where
  seq : Nat := 1
  ver : Nat := 0
  crc : Nat := 0
  ok : Bool := true
deriving DecidableEq, Repr

/-- A configuration copy (R402): its bytes, and whether it passes its CRC. -/
structure CfgCopy where
  bytes : Map Byte := []
  ok : Bool := true
deriving DecidableEq, Repr

/-- What the Warden latches during a management pause, to act on after it (R413). -/
inductive Latched where
  | holdReq (task : Nat) | grantMiss | watchWake | fatal (cond : Nat) (pay : List Nat)
deriving DecidableEq, Repr

/-- The Warden: mailbox channels, firmware banks of itself and of the field die with the running one, configuration
copies with the one in use, the Lockbox ring and sealed slots by number with the SEQ of the newest record and of the
count of lost sealed writes, the lifetime checkpoint, cores withdrawn from service, the pause (R413) and what it latched,
the classes still to leave Hold (R380), the instant of the last restart, the Warden SRAM with its uncorrectable bytes, the
BOOT_SRC strap and whether an image has come through JTAG (R435), the instant of B, the boot step reached (1 dies and links
up, 2 memory ready) and whether the boot is a warm reset (R77, R79), the hart image's address, length and CRC, the
consecutive readings of each die at the critical temperature (R391), and the power samples of the last 10 ms with whether
limiting is on (R392), the fused spare cores, whether a staged configuration waits for its commit, when the POWER_FAIL#
was asserted after which Standby is due (R432), since when WAKE# is driven for a wake source (R385), and whether a restart is to be captured. -/
structure Warden where
  chans : Map Chan := []
  banks : Map Bank := []
  run : Nat := 0
  fdBanks : Map Bank := []
  fdRun : Nat := 0
  copies : Map CfgCopy := []
  copy : Nat := 0
  ring : Map (List Nat) := []
  seals : Map (List Nat) := []
  seq : Nat := 0
  lifeCk : Map Nat := []
  withdrawn : List Nat := []
  latched : List Latched := []
  restart : Option Nat := none
  switching : Option Nat := none
  brown : Bool := false
  railsOk : Bool := false
  pwrFail : Bool := false
  pause : Bool := false
  leaving : List Nat := []
  loadWait : Option Nat := none
  sram : Map Byte := []
  sramBad : List Nat := []
  bootSrc : Nat := 0
  jtag : Bool := false
  bootAt : Nat := 0
  bootStep : Nat := 0
  warm : Bool := false
  image : Option (Nat × Nat × Nat) := none
  crit : Map Nat := []
  samples : List Nat := []
  limiting : Bool := false
  spares : List Nat := []
  staged : Bool := false
  pfAt : Option Nat := none
  wakeAt : Option Nat := none
  rstEvt : Bool := false
deriving DecidableEq, Repr

/-- The response of the last register or memory access that a command made: to whom, with which value, or an error. -/
structure Resp where
  err : Bool := false
  val : Nat := 0
deriving DecidableEq, Repr

/-- How an access to an I/O range comes back: with a value, with an error response, or later, under a transaction tag of
the hub (R159). -/
inductive IoAns where
  | val (v : Nat) | err | wait (tag : Nat)
deriving DecidableEq, Repr

/-- A fill in progress (R218): start, lines, pattern, target, hart and the world of the write that set GO. -/
structure Fill where
  dst : Nat
  lines : Nat
  pat : Nat
  target : Nat
  hart : Nat
  who : Who
deriving DecidableEq, Repr

/-- A scrub in progress (R223): the next line's local address, the end, and whether it is to stop. -/
structure Scrub where
  at_ : Nat
  stop : Nat
  abort : Bool
deriving DecidableEq, Repr

end Sys2Proof.Machine
end

