-- ==== Sys2Proof/Machine/ScanTypes.lean ====
section
/-! DEFINITION. The pieces of the state that the bandwidth regulator, the Scan Engine, the Signal Plane, the isolation
barrier and the field die hold beside their registers. -/
namespace Sys2Proof.Machine
open Sys2Proof

/-- A bandwidth monitor as it runs (R423): the port and window in force since its last window start. -/
structure Mon where
  die : Nat
  slot : Nat
  win : Nat
deriving DecidableEq, Repr

/-- The bandwidth regulator (R228, R234) and the monitors and the gatherer of the counter block (R422, R423): the units each master has had of each resource in this window, and for a scaled
resource the sum of guarantees it was scaled by. Keys are master × 32 + resource, and resource. `snapped`
is a copy made and not yet reported. -/
structure Bw where
  meter : Map Nat := []
  sum : Map Nat := []
  mons : Map Mon := []
  snapped : Bool := false
deriving DecidableEq, Repr

/-- A scan class as it runs (R239, R241): the settings that govern its boundaries, the index of its next boundary,
whether it has reached a first one, and, with `last` set, the settings that follow its last old boundary. -/
structure ScanCls where
  on : Bool := false
  period : Nat := 25
  offset : Nat := 0
  next : Nat := 0
  begun : Bool := false
  last : Bool := false
  newOn : Bool := false
  newPeriod : Nat := 25
  newOffset : Nat := 0
  push : Nat := 0
  pull : Nat := 0
deriving DecidableEq, Repr

/-- A task in the scan in progress (R247): its class, the boundary's instant, descriptor words 0-2 as in effect there,
whether it takes part, and whether its release and its deadline have been dealt with. -/
structure TaskRun where
  cls : Nat
  t0 : Nat
  w0 : Nat
  w1 : Nat
  w2 : Nat
  part : Bool
  relDone : Bool
  dlDone : Bool
deriving DecidableEq, Repr

/-- A line of a push or pull not yet moved (R249, R253): its task and class, the hart, the base die whose Hinge it
crosses, the first signal and the number of slots, the local-store offset, the image a push
reads, the slots of a pull that no later writer has taken (R253), and the task's MISS_ACT. -/
structure SLine where
  task : Nat
  cls : Nat
  hart : Nat
  base : Nat
  sig : Nat
  n : Nat
  ls : Nat
  src : Nat
  mask : Nat
  act : Nat
deriving DecidableEq, Repr

/-- A release (R251): its hart, task and class, the sequence number of its scan and the deadline instant. -/
structure Owe where
  hart : Nat
  task : Nat
  cls : Nat
  seq : Nat
  dl : Nat
deriving DecidableEq, Repr

/-- The Scan Engine beside its registers: the task store (R243) with the word a write of TS_DATA_LO buffers and the word
a read loaded, the classes, the scans in progress by task, push and pull lines to move, the units used in this
regulation window, releases not yet reported and releases that wait for push lines (R251), whether a budget shortfall lasts (R259), and the live histogram bins
(R260). -/
structure Scan where
  ts : Map Byte := []
  tsBad : List Nat := []
  tsLo : Nat := 0
  tsHi : Nat := 0
  cls : Map ScanCls := []
  runs : Map TaskRun := []
  push : List SLine := []
  pull : List SLine := []
  used : Map Nat := []
  owes : List Owe := []
  late : List Owe := []
  short : Bool := false
  hist : Map Nat := []
deriving DecidableEq, Repr

/-- A cached translation of a device context (R279, R349): VMID, the page and its size, and where it leads; `perm` is the
low byte of its leaf PTE, `dev` the context it belongs to where contexts are cached. -/
structure GTlb where
  vmid : Nat
  gpa : Nat
  exp : Nat
  pa : Nat
  perm : Nat
deriving DecidableEq, Repr

/-- A view buffer being written (R277, R278): sequence number, boundary and generation, the range and images it started
with, whether its first header has gone, the next slot line, the guest pages logged, and whether a poisoned slot was
met. -/
structure Dma where
  seq : Nat
  gt : Nat
  gen : Nat
  base : Nat
  cnt : Nat
  inn : Bool
  out : Bool
  hdr : Bool
  line : Nat
  pages : List Nat
  poison : Bool
deriving DecidableEq, Repr

/-- The Signal Plane beside its registers: its array with the bytes that hold an uncorrectable error, the refresh bits of
the pending input and output slots (R269), the descriptor queue (R267), the view buffers being written with the DMA
units used in this window, the cached translations and an invalidation in progress. -/
structure Spl where
  arr : Map Byte := []
  bad : List Nat := []
  refIn : List Nat := []
  refOut : List Nat := []
  dq : List (Nat × Nat) := []
  dma : Map Dma := []
  used : Nat := 0
  tlb : List GTlb := []
  inv : Option (Option Nat) := none
deriving DecidableEq, Repr

/-- A barrier frame (R289): type, sequence number, TAG and PAYLOAD, and for a register frame who asked. -/
structure BFrame where
  typ : Nat
  seq : Nat
  tag : Nat
  pay : Nat
  who : Who := {}
deriving DecidableEq, Repr

/-- One direction of the barrier (R291): the sender's next SEQ and credits, the frames unacknowledged, oldest first, the
frames that wait for a credit, how many of the unacknowledged ones have been received, and a replay asked for. -/
structure BDir where
  seq : Nat := 0
  credits : Nat := 64
  out : List BFrame := []
  wait : List BFrame := []
  got : Nat := 0
  retry : Bool := false
deriving DecidableEq, Repr

/-- A register read of the field die not yet answered (R293): the hart that asked, its size, and for another
master the header words its answer is sent with; `pick` is the bit of the word that an alias read wants (R48). -/
structure BarReg where
  hart : Nat
  size : Nat
  back : List Nat
  pick : Option Nat := none
  since : Nat := 0
deriving DecidableEq, Repr

/-- The barrier beside its registers: both directions, LINK and RETRY frames on their way with the direction they are
about, the reads not yet answered by tag, the replays of the last millisecond, the hub's copies of the FLD event outputs
(R293), the marked output lines of R298 by class, the classes whose pre-send has run, and the boundary of Lockdown up to
which OUT_FLIP with HOLD goes on. -/
structure Bar where
  toField : BDir := {}
  toHost : BDir := {}
  links : List (Bool × Nat × Nat) := []
  retries : List (Bool × Nat) := []
  regs : Map BarReg := []
  replays : List Nat := []
  evt : Map Bool := []
  marked : Map (List Nat) := []
  presend : List Nat := []
  full : List Nat := []
  ldHold : Option Nat := none
  downAt : Option Nat := none
deriving DecidableEq, Repr

/-- A session of the field die (R302): its state and generation, boundaries missed, the node an entry with NODE_ID 0 is
bound to, the node's BOOT_CNT, when it was lost, whether CYC_IN arrived since the last boundary. -/
structure Sess where
  st : Nat := 0
  gen : Nat := 0
  miss : Nat := 0
  node : Option Nat := none
  boot : Nat := 0
  lost : Nat := 0
  got : Bool := false
deriving DecidableEq, Repr

/-- An announce record (R301): node, port, line counts, requested session and the instant of the last HELLO. -/
structure Ann where
  node : Nat
  port : Nat
  inL : Nat
  outL : Nat
  req : Nat
  at_ : Nat
deriving DecidableEq, Repr

/-- The field die beside its registers: sessions, announce records, the lines of the current output, those received for
the next and the safe copy as line payloads, the segment map, the last boundary of each class with the period in force,
the watch engine's previous samples, missed polls and answers, the instants of its next wake (none once it has reported)
and of the end of its poll wait, a firmware image being received, the bank a switch in progress goes to, messages that
wait for it, whether the ports are stopped (R382) and whether the die is held in reset (R286). -/
structure Fld where
  sess : Map Sess := []
  anns : Map Ann := []
  cur : Map Nat := []
  nxt : Map Nat := []
  safe : Map Nat := []
  segs : Map Nat := []
  flips : Map (Nat × Nat) := []
  prev : Map Nat := []
  missP : Map Nat := []
  polled : Map (List Nat) := []
  wakeAt : Option Nat := none
  pollAt : Option Nat := none
  img : Map Nat := []
  switching : Option Nat := none
  waiting : List (List Nat) := []
  stopped : Bool := false
  held : Bool := false
deriving DecidableEq, Repr

end Sys2Proof.Machine
end

