-- ==== Sys2Proof/Machine/LinkTypes.lean ====
section
/-! DEFINITION. The pieces of the state that the Yilust cluster and the I/O blocks hold beside their registers. -/
namespace Sys2Proof.Machine
open Sys2Proof

/-- What the last HELLO of a port's peer said (R355): position, role, manager's position, distance (0xFF while no manager
is known), whether MGR_SEL is set, and its variant in the order of `Variant`. -/
structure YNbr where
  pos : Nat
  role : Nat
  mgr : Nat
  dist : Nat
  sel : Bool
  var : Nat
deriving DecidableEq, Repr

/-- A copy of a port's copy engine (R365): the lines left, the next source address and destination offset, the tags of the
messages outstanding and the next one, and whether it is to stop. -/
structure Copy where
  left : Nat
  src : Nat
  dst : Nat
  tags : List Nat
  nextTag : Nat
  stop : Bool
deriving DecidableEq, Repr

/-- The cluster and the pair beside their registers (R356-R376): neighbours by port; by position the port and distance of
its nearest HELLO; when the first port came up; members with the time of their last HELLO, and the hub serial of each position
heard and the positions with MGR_SEL; whether a HELLO has named a manager and when the parent's last did; the parent port;
link delay, the instant of a delay request, and the deviation, slew and catch-up of GTIME with the increments since the
last one withheld or doubled; copies by port; grants received and given by class and boundary; whether this standby has
taken over, and whether this manager has stopped driving; the replication buffer with the scan, lines received and end of
each class; the boundary a HANDOVER named; the last pair message; the classes still to be sent in full in a sync and the
lines of each class's scan sent. -/
structure Cl where
  nbr : Map YNbr := []
  near : Map (Nat × Nat) := []
  firstUp : Option Nat := none
  members : Map Nat := []
  serials : Map Nat := []
  sels : List Nat := []
  named : Bool := false
  lastMgr : Nat := 0
  parent : Option Nat := none
  dly : Nat := 0
  asked : Option Nat := none
  dev : Int := 0
  slew : Bool := false
  catchTo : Option Nat := none
  phase : Nat := 0
  copies : Map Copy := []
  granted : List (Nat × Nat) := []
  gave : List (Nat × Nat) := []
  took : Bool := false
  noDrive : Bool := false
  lines : Map (List Nat) := []
  rcnt : Map (Nat × Nat) := []
  rend : Map (Nat × Nat) := []
  hand : Option (Nat × Nat) := none
  lastPair : Nat := 0
  sync : List Nat := []
  sent : Map Nat := []
deriving DecidableEq, Repr

/-- A device context of a root port held in its cache (R349): requester ID and the two entry words. -/
structure DevCtx where
  rid : Nat
  w0 : Nat
  w1 : Nat
deriving DecidableEq, Repr

/-- The Service Endpoint and the root ports beside their registers: the BAR registers and the ROM BAR the host has
written, by dword offset; the MSI-X table's bytes, its enable and function mask, its pending vectors; the upper end of the
completion-timeout sub-range the host selected, in microseconds; the BAR sizes in effect; the descriptor table's sequence
number; whether a Function Level Reset runs and whether WAKE# is driven for a PME; the bridge registers of each link by
(port × 4 + link) × 64 + dword; link generations; and per port the cached contexts and translations and an invalidation
in progress; the IDENT section in effect (R402, R405); and of the open site (R199-R202) the target reads it has not
answered, by tag with the generations they carry, the completions of its own reads that have not left yet, the transactions
the Ward holds back with the window of the first, and the bytes each window has forwarded in this regulation window. -/
structure Io where
  bars : Map Nat := []
  msix : Map Byte := (List.range 32).map (fun n => (16 * n + 12, 1))
  msixEn : Bool := false
  msixMask : Bool := false
  pend : List Nat := []
  cto : Nat := 50000
  bar2 : Nat := 30
  bar4 : Nat := 26
  romSeq : Nat := 0
  flr : Bool := false
  wake : Bool := false
  bridge : Map Nat := []
  lgen : Map Nat := []
  ctx : Map (List DevCtx) := []
  tlb : Map (List GTlb) := []
  inv : Map (Option Nat) := []
  ident : Nat := 0
  site : Map (List Nat) := []
  siteRd : List Tx := []
  held : List (Nat × Nat) := []
  heldWin : Option Nat := none
  wUsed : Map Nat := []
deriving DecidableEq, Repr

end Sys2Proof.Machine
end

