-- ==== Sys2Proof/Machine/State.lean ====
section
/-! DEFINITION. The state of the block, the outcomes of its steps that are no next state, and the state after reset. -/
namespace Sys2Proof.Machine
open Sys2Proof

/-- Why a step stops with a fault. No meaning of this model stops with one; the type is closed with the one name a
later rule may need. -/
inductive Fault where
  /-- raised by nobody: kept so that the outcome type is not empty; safe -/
  | none
deriving DecidableEq, Repr

/-- Why a step is refused. -/
inductive Refusal where
  /-- raised by `exec` for a command that has no meaning yet, named by its mnemonic; safe -/
  | notModelled (mnemonic : String)
deriving DecidableEq, Repr

/-- Everything the spec gives the package, and the model's own `pending`, `free`, `tx` and `resp`. In order: the commands that wait,
first in, first out; the counter of free values drawn (assumption log 1); GTIME (R70); the variant (R1); the messages sent out of the
package, oldest first; the Lockbox records that wait to be written and the count of those lost (R406, R407); the lifetime counters
(R412); the power domains that sleep or wake (R160, R384); the active register fields that differ from their reset value (R10, R11)
and the shadowed ones (R57); the block headers (R42); the answer of the last access a command made; the interrupt messages on their way
(R99) and the wired sources asserted (R101); the dies (R72, R181); the harts (R80); the lines of the cluster L2s (R165) and of the L3
with the directory (R163, R168); main memory with its poisoned words (R205, R219); the local stores with their uncorrectable bytes
(R148); whether the HBM holds contents (R206) and the DDR5 exponent in use (R206, assumption log 6); the secure regions and the copies
not yet replaced (R317); snoops, answers, write-backs, requests in backoff and requests queued at a home (R166-R171); the hub's
outstanding requests with the generation of each tag (R157, R159); directory probes and commit checks under way; the Warden with the
Lockbox (R394-R417); the regulator (R225), the Scan Engine (R239), the Signal Plane (R265), the barrier (R287), the field die (R285),
the cluster (R353) and the I/O blocks (R329), each beside its registers; recalibrations (R188), scrubs (R222) and a fill (R218) under
way; the open site's profile (R197); and the operating-point changes under way (R67). -/
structure State where
  pending : List Instr
  free : Nat
  gtime : Nat
  variant : Variant
  tx : List Tx
  lbq : List LbxRec
  lbDrop : Nat
  life : Map Nat
  doms : Map Dom
  fields : Map Nat
  shadow : Map ShEntry
  hdrs : Map Hdr
  resp : Resp
  irqs : List IrqMsg
  wires : List Nat
  dies : Map Die
  harts : Map Hart
  l2 : Map L2Line
  l3 : Map L3Line
  dram : Map Byte
  poison : List Nat
  lstore : Map Byte
  lsBad : List Nat
  hbmOn : Bool
  ddrExp : Nat
  sregs : Map Sreg
  sregPrev : Map Sreg
  snps : List Snp
  rsps : List SnpRsp
  wbs : List WrBack
  retries : List Retry
  pendq : List (Nat × CohReq)
  iot : Map IoTxn
  ioGen : Map Nat
  probes : Map Who
  chkBusy : List Nat
  wd : Warden
  bw : Bw
  scan : Scan
  spl : Spl
  bar : Bar
  fld : Fld
  cl : Cl
  io : Io
  recal : Map Nat
  scrubs : Map Scrub
  fill : Option Fill
  profile : Nat
  dvfs : Map Nat
deriving DecidableEq, Repr

/-- A machine of a variant with nothing in it. -/
def State.blank (v : Variant) : State :=
  { pending := [], free := 0, gtime := 0, variant := v, tx := [], lbq := [], lbDrop := 0, life := [], doms := [], fields := [],
    shadow := [], hdrs := [], resp := {}, irqs := [], wires := [], dies := [], harts := [], l2 := [], l3 := [], dram := [], poison := [],
    lstore := [], lsBad := [], hbmOn := false, ddrExp := 0, sregs := [], sregPrev := [], snps := [], rsps := [], wbs := [], retries := [],
    pendq := [], iot := [], ioGen := [], probes := [], chkBusy := [], wd := {}, bw := {}, scan := {}, spl := {}, bar := {}, fld := {},
    cl := {}, io := {}, recal := [], scrubs := [], fill := none, profile := 0, dvfs := [] }

/-- A configuration copy as a part leaves Noeramin (R402, R404, R330): the header with SEQ 1 and LENGTH 0x1000, the default class
code, every other byte 0, and the CRC (assumption log 20). -/
def factoryCopy : CfgCopy :=
  { bytes := [(0, 0x47), (1, 0x46), (2, 0x43), (3, 0x53), (4, 1), (8, 1), (13, 0x10), (0x49, 0x40), (0x4A, 0x0B),
              (0xFFC, 0xF0), (0xFFD, 0x52), (0xFFE, 0x5F), (0xFFF, 0x85)], ok := true }

/-- The Warden of a part as shipped: both firmware banks of the Warden and of the field die, and both configuration copies, valid
and equal (R395, R404, R415; assumption log 20). -/
def shippedWarden : Warden :=
  { banks := [(0, {}), (1, {})], fdBanks := [(0, {}), (1, {})], copies := [(0, factoryCopy), (1, factoryCopy)] }

/-- The machine right after reset: an SX-240-F as shipped whose always-on domain has left power-on reset for the first time (R74,
R377): in Standby, with the power-cycle count made durable (R412), the change of mode captured, recorded and reported (R377,
R406, R436), the cluster straps sampled as position 0 and no manager (R435). The register table's own reset value of PWR.MODE is what it holds from Boot on, so the field is listed here
(assumption log 18). -/
def State.reset : State :=
  { State.blank .f240 with
    tx := [⟨.pin, 2, [16]⟩]
    lbq := [⟨3, false, 0, 0xFF, 0, 0, [0, 1, 0], false⟩]
    life := [(7 * 4096, 1)]
    fields := [((80 * 4096 + 0x040) * 32 + 1, 0), ((80 * 4096 + 0x040) * 32 + 16, 0), ((80 * 4096 + 0x040) * 32 + 24, 0),
               ((80 * 4096 + 0x040) * 32 + 28, 1), ((384 * 4096 + 0x300) * 32, 0), ((384 * 4096 + 0x300) * 32 + 31, 0)]
    hdrs := [(80, { seq := 1, pend := 1, capt := [(0, 1)] })]
    dies := [(24, { st := 1 })]
    wd := { shippedWarden with lifeCk := [(7 * 4096, 1)] } }

end Sys2Proof.Machine
end

