-- ==== Sys2Proof/Machine/Blocks.lean ====
section
/-! DEFINITION. Blocks and their registers: the block directory (R39, R40), which slots are present (R3, R17, R51), and
the read and write of one register field by the hardware. -/
namespace Sys2Proof.Machine
open Sys2Proof

/-- Block types by number (R40). -/
def typeOf (b : Blk) : Nat := b.slot / 16
/-- The instance number of a block within its die (R39). -/
def instOf (b : Blk) : Nat := b.slot % 16
/-- The block of type `t` and instance `i` on die `d` (R39). -/
def blkOf (d t i : Nat) : Blk := ⟨d, 16 * t + i⟩

def hub : Blk := blkOf 0 1 0
def wdn : Blk := blkOf 0 2 0
def lbx : Blk := blkOf 0 3 0
def clk (d : Nat) : Blk := blkOf d 4 0
def pwr (d : Nat) : Blk := blkOf d 5 0
def grd : Blk := blkOf 0 6 0
def ctr : Blk := blkOf 0 7 0
def fil : Blk := blkOf 0 8 0
def scb (d i : Nat) : Blk := blkOf d 9 i
def bwr : Blk := blkOf 0 10 0
def xfb (d : Nat) : Blk := blkOf d 11 0
def dirB (d : Nat) : Blk := blkOf d 12 0
def l3c (d : Nat) : Blk := blkOf d 13 0
def hng (d i : Nat) : Blk := blkOf d 14 i
def mch (st : Nat) : Blk := blkOf (32 + st) 15 0
def mcd (c : Nat) : Blk := blkOf 0 16 c
def hcl (d i : Nat) : Blk := blkOf d 17 i
def scn : Blk := blkOf 0 18 0
def spl : Blk := blkOf 0 19 0
def bar : Blk := blkOf 0 20 0
def fld (i : Nat) : Blk := blkOf 24 21 i
def sep : Blk := blkOf 0 22 0
def rcx (p : Nat) : Blk := blkOf 0 23 p
def ylk (p : Nat) : Blk := blkOf 0 24 p
def wrd : Blk := blkOf 0 25 0

/-- The key of a block in the maps of blocks. -/
def bkey (b : Blk) : Nat := b.die * 65536 + b.slot

/-- Instances of block type `t` on die `d` (R40); 0 where the directory places none. -/
def instCount (d t : Nat) : Nat :=
  let isBase := 1 ≤ d && d ≤ 4
  let isComp := 8 ≤ d && d ≤ 19
  let isHbm := 32 ≤ d && d ≤ 39
  match t with
  | 4 | 5 => if d = 0 || isBase || isComp then 1 else 0
  | 9 => if d = 0 then 11 else if isComp then 6 else if isHbm then 1 else 0
  | 11 => if d = 0 || isBase then 1 else 0
  | 12 | 13 => if isBase then 1 else 0
  | 14 => if d = 0 then 5 else if isBase then 4 else 0
  | 15 => if isHbm then 1 else 0
  | 16 => if d = 0 then 8 else 0
  | 17 => if isComp then 6 else 0
  | 21 => if d = 24 then 10 else 0
  | 23 | 24 => if d = 0 then 4 else 0
  | 1 | 2 | 3 | 6 | 7 | 8 | 10 | 18 | 19 | 20 | 22 | 25 => if d = 0 then 1 else 0
  | _ => 0

/-- The exponent of a block's decode span (R40). -/
def spanExp (t : Nat) : Nat :=
  match t with
  | 4 | 12 => 9
  | 6 | 8 | 9 => 8
  | 1 | 3 | 5 | 13 | 14 | 17 | 20 => 10
  | 11 | 15 | 16 | 22 | 23 | 24 => 11
  | _ => 12

/-- Blocks whose commit point is not "Immediate" have CM fields (R40, R42). -/
def hasCm (t : Nat) : Bool := t = 4 || t = 5 || t = 7 || t = 10 || t = 11 || t = 13 || t = 18 || t = 19 || t = 21 || t = 25

/-- Whether the variant fits a die (R1, R2, R16). -/
def fitted (v : Variant) (d : Nat) : Bool :=
  if d = 0 || (1 ≤ d && d ≤ 4) || (32 ≤ d && d ≤ 39) then true
  else if 8 ≤ d && d ≤ 19 then
    match v with
    | .f240 | .n240 => true
    | .f160 | .l160 => decide (d ≤ 14) || d = 17
  else if d = 24 then v != .n240
  else if d = 28 then v != .l160
  else false

/-- Whether the variant gives the block its unit: the Service Endpoint, and the open-site window and Ward with the
hub's UCIe instance, are left out on SX-160-L (R1, R3). -/
def fitsBlock (v : Variant) (b : Blk) : Bool :=
  !(v = .l160 && (typeOf b = 22 || typeOf b = 25 || b = blkOf 0 14 4))

/-- A die is in service. -/
def dieUp (s : State) (d : Nat) : Bool := decide ((mget {} s.dies d).st = 1)

/-- A slot holds a block that answers: the directory places it, the variant fits it and its die is in service. Every
other slot is absent (R3, R17, R39, R51). -/
def present (s : State) (b : Blk) : Bool :=
  decide (instOf b < instCount b.die (typeOf b)) && fitted s.variant b.die && fitsBlock s.variant b && dieUp s b.die

/-- The reset value of element `n` of a field, where it is not one number (R11): the routes of a mesh, which lead
directly and by the lowest-numbered other peer, and the urgency sense of the regulated master. -/
def fieldReset (b : Blk) (f : Field) (n : Nat) : Nat :=
  if f.typ = 11 && f.off = 0x080 then
    let me := b.die - 1
    let toInst := fun d => if d = 4 then 3 else if d < me then d else d - 1
    let alt := if n = 4 then 0 else toInst (((List.range 4).find? (fun d => d != me && d != n)).getD 0)
    if n = me then 0
    else if f.lo = 0 then toInst n else if f.lo = 4 then alt else f.rst
  else if f.typ = 10 && f.off = 0x400 && f.lo = 12 then (if n = 1 || n = 4 then 1 else 0)
  else f.rst

/-- The key of a field in the register store: bank of a selected register, block, offset of the element, low bit. -/
def fkey (b : Blk) (f : Field) (n bank : Nat) : Nat :=
  (((bank * 64 + b.die) * 65536 + b.slot) * 4096 + (f.off + f.stride * n)) * 32 + f.lo

/-- The active value of a field: what was last put there, or its reset value. -/
def rdF (s : State) (b : Blk) (f : Field) (n : Nat := 0) (bank : Nat := 0) : Nat :=
  mget (fieldReset b f n) s.fields (fkey b f n bank)

/-- The state with the active value of a field replaced, cut to the field's width. -/
def wrF (s : State) (b : Blk) (f : Field) (v : Nat) (n : Nat := 0) (bank : Nat := 0) : State :=
  { s with fields := mput s.fields (fkey b f n bank) (v % 2 ^ (f.hi + 1 - f.lo)) }

/-- A counting field rises by `k`, saturating at its largest value. -/
def addF (s : State) (b : Blk) (f : Field) (k : Nat := 1) (n : Nat := 0) (bank : Nat := 0) : State :=
  wrF s b f (min (2 ^ (f.hi + 1 - f.lo) - 1) (rdF s b f n bank + k)) n bank

/-- The shadow value of a field (R57): the pending write, or the active value. -/
def shF (s : State) (b : Blk) (f : Field) (n : Nat := 0) (bank : Nat := 0) : Nat :=
  match mfind s.shadow (fkey b f n bank) with
  | some e => e.val
  | none => rdF s b f n bank

/-- The bank that a bank-selected register reaches: 0 for a register that no selector banks, else the selector's value
plus 1, so that every selected copy is its own (R100, R241, R267 and the selectors of the other chapters). -/
def bankOf (s : State) (b : Blk) (f : Field) : Nat :=
  match f.typ, f.off with
  | 1, 0x104 => 1 + rdF s hub HUB.ROUTE_SEL.DIE * 65536 + rdF s hub HUB.ROUTE_SEL.SLOT
  | 1, 0x204 | 1, 0x208 | 1, 0x20c => 1 + rdF s hub HUB.DIE_SEL.DIE
  | 1, 0x244 | 1, 0x248 => 1 + rdF s hub HUB.SREG_SEL.REGION
  | 10, 0x044 | 10, 0x048 => 1 + rdF s bwr BWR.G_SEL.MASTER * 32 + rdF s bwr BWR.G_SEL.RES
  | 18, o => if 0x804 ≤ o then 1 + rdF s scn SCN.HIST_SEL.CLASS else 0
  | 19, o => if o = 0x04c then 1 + rdF s spl SPL.LIM_SEL.PROF
             else if 0x104 ≤ o && o ≤ 0x140 then 1 + rdF s spl SPL.VIEW_SEL.VIEW else 0
  | 21, o => if b.slot % 16 = 0 then
               if 0x04c ≤ o && o ≤ 0x060 then 1 + rdF s b FLD.SESS_SEL.SESSION
               else if 0x06c ≤ o && o ≤ 0x074 then 1 + rdF s b FLD.ANN_SEL.REC else 0
             else if b.slot % 16 = 9 && 0x048 ≤ o && o ≤ 0x050 then 1 + rdF s b FLD.WP_SEL.POINT else 0
  | 7, o => if (0x060 ≤ o && o < 0x0c0) || (0x140 ≤ o && o < 0x180) then 1 + rdF s ctr CTR.SEL.DIE * 65536 + rdF s ctr CTR.SEL.SLOT
            else 0
  | _, _ => 0

/-- The header of a block; a block that nothing has changed holds its reset values. -/
def hdrOf (s : State) (b : Blk) : Hdr := mget {} s.hdrs (bkey b)

/-- The state with a block's header replaced. -/
def setHdr (s : State) (b : Blk) (h : Hdr) : State := { s with hdrs := mput s.hdrs (bkey b) h }

/-- The shadow entries and active fields of one block are those whose key decodes to its die and slot. -/
def keyInBlock (b : Blk) (k : Nat) : Bool :=
  (k / (32 * 4096)) % 65536 = b.slot && (k / (32 * 4096 * 65536)) % 64 = b.die

/-- The shadow of a block differs from its active settings (BLK_STAT.CMT_PEND, R57). A shadow write that equals the
active value leaves no entry, so the entries are the differences. -/
def cmtPend (s : State) (b : Blk) : Bool := s.shadow.any (fun e => keyInBlock b e.1)

end Sys2Proof.Machine
end

