-- ==== Sys2Proof/Machine/Ops.lean ====
section
/-! DEFINITION. The operations every chapter shares: free values, time, events and interrupt messages, guards, Lockbox
records, lifetime counters and secure events. -/
namespace Sys2Proof.Machine
open Sys2Proof

/-- The outcome of one command. -/
abbrev Res := Host.Outcome State Fault Refusal

/-- A fresh value the spec leaves open, and the state whose next draw is another (assumption log 1). -/
def draw (s : State) : Nat × State := (Config.freeValue s.free, { s with free := s.free + 1 })

/-- A slewed die counter comes nearer to the hub's by `n` units, one in every 64 of GTIME (R72). -/
def slewDie (n : Nat) (d : Die) : Die :=
  if !d.slew then d
  else
    let v : Int := if 0 < d.dev then max 0 (d.dev - (n : Int)) else min 0 (d.dev + (n : Int))
    { d with dev := v, slew := decide (v ≠ 0) }

/-- The operating mode (PWR.MODE.MODE). -/
def modeOf (s : State) : Nat := rdF s (pwr 0) PWR.MODE.MODE

/-- An effective capability bit (R193). -/
def capEff (s : State) (n : Nat) : Bool :=
  if n < 32 then bit (rdF s hub HUB.CAP_EFF_LO.CAP) n else bit (rdF s hub HUB.CAP_EFF_HI.CAP) (n - 32)

/-- A message leaves the package. -/
def send (s : State) (dst : TxTo) (kind : Nat) (args : List Nat) : State := { s with tx := s.tx ++ [⟨dst, kind, args⟩] }

/-- A lifetime counter rises by one (R412). -/
def lifeAdd (s : State) (id : Nat) : State := { s with life := mput s.life id (mget 0 s.life id + 1) }

/-- A Lockbox record of the present instant and mode is queued; with the queue of 256 full it is counted as lost
(R406, R408). -/
def logRec (s : State) (code die inst : Nat) (pay : List Nat) (sec : Bool := false) (hw : Bool := false) : State :=
  if s.lbq.length < 256 then
    { s with lbq := s.lbq ++ [⟨code, sec, die, inst, s.gtime, modeOf s, pay, hw⟩] }
  else { s with lbDrop := s.lbDrop + 1 }

/-- The bytes of a number, least significant first. -/
def leBytes (v : Nat) : Nat → List Nat
  | 0 => []
  | n + 1 => v % 256 :: leBytes (v / 256) n

/-- One bit of the CRC-32 of IEEE 802.3, reflected. -/
def crcBit (c : Nat) : Nat := if c % 2 = 1 then (c / 2) ^^^ 0xEDB88320 else c / 2
def crcByte (c b : Nat) : Nat := (List.range 8).foldl (fun a _ => crcBit a) (c ^^^ (b % 256))
/-- The CRC-32 with the IEEE 802.3 polynomial over bytes (R289, R332, R402, R406). -/
def crc32 (bs : List Nat) : Nat := (bs.foldl crcByte 0xFFFFFFFF) ^^^ 0xFFFFFFFF

/-- The block's event output (R43). -/
def evtOut (h : Hdr) : Bool := (h.pend &&& ~~~h.mask) != 0

/-- The domain index of a logical hart's cluster: die and cluster instance. -/
def hartOf (s : State) (h : Nat) : Hart := mget {} s.harts h
def setHart (s : State) (h : Nat) (x : Hart) : State := { s with harts := mput s.harts h x }

/-- Logical harts of the variant (R1, R19). -/
def hartCount (s : State) : Nat :=
  match s.variant with
  | .f240 | .n240 => 240
  | .f160 | .l160 => 160

/-- The compute die, package-wide cluster and cluster instance of a physical core (R18). -/
def coreDie (p : Nat) : Nat := 8 + p / 24
def coreCluster (p : Nat) : Nat := p / 4
def coreInst (p : Nat) : Nat := (p % 24) / 4
/-- The die and instance of a package-wide cluster number. -/
def clDie (c : Nat) : Nat := 8 + c / 6
def clInst (c : Nat) : Nat := c % 6

/-- The cluster a hart runs on. -/
def hartCl (s : State) (h : Nat) : Nat := coreCluster (hartOf s h).core

/-- The sleep state of domain `n` on die `d`: 0 awake (PWR.DOM_CTRL.STATE). -/
def domState (s : State) (d n : Nat) : Nat := rdF s (pwr d) PWR.DOM_CTRL.STATE n

def domKey (d n : Nat) : Nat := d * 8 + n

/-- A packet addressed to a sleeping domain starts its wake, counted in WAKE_CNT, and waits in the wake buffer of 32
packets; with the buffer full it is held at its source and counted in WAKE_HOLD (R160). `c` is the command whose packet
it is, run again when the domain is awake. -/
def wakeFor (s : State) (d n : Nat) (c : Option Instr) : State :=
  let dm := mget {} s.doms (domKey d n)
  let s := if dm.waking then s
    else if domState s d n = 2 then addF s (xfb 0) XFB.WAKE_CNT.RET else addF s (xfb 0) XFB.WAKE_CNT.CG
  let s := if dm.held.length < 32 then s else addF s (xfb 0) XFB.WAKE_HOLD.COUNT
  { s with doms := mput s.doms (domKey d n) { dm with waking := true, held := dm.held ++ c.toList } }

/-- The router sends one message (R99): it is in flight until INTERRUPT_MESSAGE_DELIVER. A message to a hart in WFI in
a sleeping cluster wakes the cluster (R384). -/
def sendMsg (s : State) (m : IrqMsg) : State :=
  let s := { s with irqs := s.irqs ++ [m] }
  let p := (hartOf s m.hart).core
  if domState s (coreDie p) (coreInst p) ≠ 0 && (hartOf s m.hart).run = .wfi then wakeFor s (coreDie p) (coreInst p) none
  else s

/-- The fields of a route entry (R100). -/
def entEn (e : Nat) : Bool := bit e 31
def entSec (e : Nat) : Bool := bit e 30
def entSm (e : Nat) : Nat := bits e 29 27
def entHart (e : Nat) : Nat := bits e 23 16
def entFile (e : Nat) : Nat := bits e 15 12
def entIdent (e : Nat) : Nat := bits e 10 0

/-- An enabled entry that holds a reserved encoding (R100): a hart the variant does not have, identity 0, a file above
7, or a file other than 0 with SEC. -/
def entReserved (s : State) (e : Nat) : Bool :=
  entEn e && (decide (hartCount s ≤ entHart e) || decide (entIdent e = 0) || decide (8 ≤ entFile e)
    || (entSec e && decide (entFile e ≠ 0)))

/-- A message through a route entry: the secure file with SEC, else the file it names (R99, R100). `src` numbers the
source, so that the order of R99 is kept per source. -/
def sendEntry (s : State) (src e : Nat) : State :=
  if entEn e then sendMsg s ⟨src, entHart e, if entSec e then 0 else 1 + entFile e, entIdent e⟩ else s

/-- The route entry of a block's event output (HUB.ROUTE of R100). -/
def routeOf (s : State) (b : Blk) : Nat := rdF s hub HUB.ROUTE.ENTRY 0 (1 + b.die * 65536 + b.slot)

/-- Wired source `k` of the hub APLIC is asserted or not (R101): its entry's source mode says which change is active. While
the hub's main domain is unpowered only the wire changes. -/
def aplWire (s : State) (k : Nat) (on : Bool) : State :=
  let was := s.wires.contains k
  let s := { s with wires := if on then sIns s.wires k else sDel s.wires k }
  let e := rdF s hub HUB.APL_SRC.ENTRY k
  let hit : Bool := match entSm e with
    | 4 | 6 => on && !was
    | 5 | 7 => !on && was
    | _ => false
  if hit && 1 ≤ k && k ≤ 27 && 3 ≤ modeOf s && modeOf s ≤ 6 then sendEntry s (0x400000 + k) e else s

/-- A write of a source's entry: a level source that is active sends another message (R101). -/
def aplWritten (s : State) (k : Nat) : State :=
  let e := rdF s hub HUB.APL_SRC.ENTRY k
  if (entSm e = 6 && s.wires.contains k) || (entSm e = 7 && !s.wires.contains k) then sendEntry s (0x400000 + k) e else s

/-- The router sends a block's message. -/
def sendEvt (s : State) (b : Blk) : State := sendEntry s (bkey b) (routeOf s b)

/-- A frame enters one direction of the barrier (R291): with a credit it takes the next SEQ, else it waits. -/
def dirSend (d : BDir) (f : BFrame) : BDir :=
  if 0 < d.credits && d.wait.isEmpty then
    { d with seq := (d.seq + 1) % 65536, credits := d.credits - 1, out := d.out ++ [{ f with seq := d.seq }] }
  else { d with wait := d.wait ++ [f] }

/-- The barrier is up on all its channels (BAR.LINK_STAT.STATE). -/
def barUp (s : State) : Bool := decide (rdF s bar BAR.LINK_STAT.STATE = 2)

/-- A frame is sent over the barrier, towards the field die or towards the host; while it is down nothing is sent. With
one channel (Standby, Watch) only WATCH_WAKE passes (R308). -/
def barSend (s : State) (toField : Bool) (typ tag pay : Nat) (who : Who := {}) : State :=
  if barUp s || (typ = 0x501 && rdF s bar BAR.LINK_STAT.STATE = 3) then
    let f : BFrame := ⟨typ, 0, tag, pay, who⟩
    if toField then { s with bar := { s.bar with toField := dirSend s.bar.toField f } }
    else { s with bar := { s.bar with toHost := dirSend s.bar.toHost f } }
  else s

/-- What follows a change of a block's pending events or mask (R43, R100): a message if the event output rose, and with
`again` whenever it is asserted. The field die sends an EVENT frame instead, and the hub's copy of its output is what the
router goes by (R293). -/
def outChange (s : State) (b : Blk) (old new : Bool) (again : Bool := false) : State :=
  if b.die = 24 then if old ≠ new || (again && new) then barSend s false 0x401 (instOf b) (b2n new) else s
  else if new && (!old || again) then sendEvt s b else s

/-- Event `n` of a block is captured (R53); the router sends one message if the event output rises (R100). -/
def capture (s : State) (b : Blk) (n : Nat) : State :=
  let h := hdrOf s b
  let fresh := !h.pend.getLsbD n || h.seen
  let q := if fresh then h.seq + 1 else h.seq
  let h' := { h with seq := q, seen := h.seen && !fresh, pend := h.pend ||| (1#24 <<< n), capt := mput h.capt n q }
  outChange (setHdr s b h') b (evtOut h) (evtOut h')

/-- The bank of the counter block that holds a block's counters (R418). -/
def ctrBank (b : Blk) : Nat := 1 + b.die * 65536 + b.slot
/-- Counter `i` of a block (R418). -/
def ctrVal (s : State) (b : Blk) (i : Nat) : Nat :=
  rdF s ctr CTR.CNT_LO.COUNT i (ctrBank b) + rdF s ctr CTR.CNT_HI.COUNT i (ctrBank b) * 2 ^ 32
def ctrPut (s : State) (b : Blk) (i v : Nat) : State :=
  wrF (wrF s ctr CTR.CNT_LO.COUNT v i (ctrBank b)) ctr CTR.CNT_HI.COUNT (v / 2 ^ 32) i (ctrBank b)
def ctrEvent (s : State) (b : Blk) (i : Nat) : Nat := rdF s ctr CTR.EVSEL.EVENT i (ctrBank b)
/-- An odd counter counts the carries of the even one below it (R419). -/
def chained (s : State) (b : Blk) (i : Nat) : Bool := i % 2 = 1 && rdF s ctr CTR.EVSEL.CHAIN i (ctrBank b) = 1

/-- A counter has wrapped (R419): OVF, its source, and the event. -/
def ctrOvf (s : State) (b : Blk) (i : Nat) : State :=
  let s := wrF s ctr CTR.CNT_HI.OVF 1 i (ctrBank b)
  let s := wrF (wrF s ctr CTR.OVF_SRC.VALID 1) ctr CTR.OVF_SRC.DIE b.die
  capture (wrF (wrF s ctr CTR.OVF_SRC.CNT i) ctr CTR.OVF_SRC.SLOT b.slot) ctr 0

/-- A counter goes on by `n` (R419): past its end it wraps, and carries into a chained odd one. -/
def ctrAdd (s : State) (b : Blk) (i n : Nat) : State :=
  let v := ctrVal s b i + n
  let s := ctrPut s b i v
  if v < 2 ^ 48 then s
  else if i % 2 = 0 && chained s b (i + 1) then
    let w := ctrVal s b (i + 1) + v / 2 ^ 48
    let s := ctrPut s b (i + 1) w
    if w < 2 ^ 48 then s else ctrOvf s b (i + 1)
  else ctrOvf s b i

/-- `n` events of a code happen in a block (R418, R421): the counters that select them count, unless they are frozen. -/
def countEv (s : State) (b : Blk) (code : Nat) (n : Nat := 1) : State :=
  if n = 0 || (hdrOf s b).cntFreeze || !present s b then s
  else (List.range 8).foldl (fun (s : State) i => if ctrEvent s b i = code && !chained s b i then ctrAdd s b i n else s) s

/-- The event codes that this model counts as they happen (R421). The others are matters of timing, of flits or of the field
ports, and how far their counters have gone on when they are looked at is free (assumption log 1). -/
def exactEv (t code : Nat) : Bool :=
  code = 0 || code = 2 || (code = 1 && t ≠ 17) ||
  (match t with
    | 18 => 0x10 ≤ code && code ≤ 0x15
    | 12 => 0x11 ≤ code && code ≤ 0x15
    | 17 => 0x13 ≤ code && code ≤ 0x15
    | 14 => code = 0x12 || code = 0x13
    | 15 | 16 | 20 => code = 0x12
    | 19 => 0x10 ≤ code && code ≤ 0x14
    | 22 | 23 | 24 => code = 0x14
    | 25 => code = 0x10 || code = 0x11
    | 8 | 9 => code = 0x10
    | _ => false)

/-- Cycles of the clock that event `code` counts up to GTIME `t` (R65, R421): TimeClk, MeshClk or PeriphClk. -/
def clkCycles (typ code t : Nat) : Nat :=
  if code = 2 then t / 32
  else if typ = 11 || typ = 12 || typ = 13 || typ = 14 || typ = 15 || typ = 16 then 2 * t / 3
  else t / 8

/-- The counters that count clock cycles go on with GTIME. -/
def timeCount (s : State) (t0 t1 : Nat) : State :=
  let base := fkey ctr CTR.EVSEL.EVENT 0 0
  (s.fields.filter (fun e => (e.2 = 1 || e.2 = 2) && keyInBlock ctr e.1 && base % 2 ^ 17 ≤ e.1 % 2 ^ 17 && e.1 % 2 ^ 17 ≤ base % 2 ^ 17 + 7 * 128
      && e.1 % 32 = 0)).foldl (fun (s : State) (e : Nat × Nat) =>
    let bank := e.1 / (32 * 4096 * 65536 * 64) - 1
    let b : Blk := ⟨bank / 65536, bank % 65536⟩
    let i := (e.1 % 2 ^ 17 - base % 2 ^ 17) / 128
    if typeOf b = 17 && e.2 = 1 || chained s b i || (hdrOf s b).cntFreeze || !present s b then s
    else ctrAdd s b i (clkCycles (typeOf b) e.2 t1 - clkCycles (typeOf b) e.2 t0)) s

/-- GTIME becomes `t`; the slewed die counters follow, and the seconds that end are counted for the present mode (R412). -/
def setTime (s : State) (t : Nat) : State :=
  let m := 6 * 4096 + rdF s (pwr 0) PWR.MODE.MODE
  let n := t / 3200000000 - s.gtime / 3200000000
  let s := timeCount s s.gtime t
  { s with gtime := t,
           life := if n = 0 then s.life else mput s.life m (mget 0 s.life m + n),
           dies := if s.dies.any (fun e => e.2.slew) then s.dies.map (fun (e : Nat × Die) => (e.1, slewDie (t / 64 - s.gtime / 64) e.2)) else s.dies }

/-- GTIME runs on to the instant `t` of a timed event, never back (R70; assumption log 4). -/
def runTo (s : State) (t : Nat) : State := setTime s (max s.gtime t)

/-- The package changes mode (R377): recorded in the Lockbox, shown in PWR.MODE with its cause and captured; the I3C target
reports the new MODE byte (R436), pin message 2. -/
def goMode (s : State) (m cause : Nat) : State :=
  let o := modeOf s
  let s := logRec s 0x03 0 0xFF [o, m, cause]
  let s := wrF s (pwr 0) PWR.MODE.PREV o
  let s := wrF s (pwr 0) PWR.MODE.MODE m
  let s := wrF s (pwr 0) PWR.MODE.CAUSE cause
  let s := wrF s (pwr 0) PWR.MODE.TRANS 0
  capture (send s .pin 2 [m * 16 + 4 * rdF s (pwr 0) PWR.MODE.DEGRADED]) (pwr 0) 0

/-- The releases of a hart that it has not reported are voided (R247). -/
def voidHart (s : State) (h : Nat) : State := { s with scan := { s.scan with owes := s.scan.owes.filter (fun o => o.hart != h) } }

/-- BLK_STAT.BAD_WRITE is set. -/
def badWrite (s : State) (b : Blk) : State := setHdr s b { hdrOf s b with badWrite := true }

/-- BLK_STAT.STALE_ACK is set. -/
def staleAck (s : State) (b : Blk) : State := setHdr s b { hdrOf s b with staleAck := true }

/-- Who an access is made by (R52, R225, R313). A hart is secure exactly in M-mode (R312); the Warden is secure and
machine-level; a hub engine acting on firmware or M-mode descriptors is machine-level; an I/O master is lesser and
carries the tag of its window or context. -/
def whoOf (s : State) (m : Master) : Who :=
  match m with
  | .hart h =>
    let x := hartOf s h
    { num := coreCluster x.core, hart := h,
      priv := match x.priv with
        | .u => 0
        | .s => 1
        | .m => 3,
      virt := x.virt, sec := decide (x.priv = .m), mach := decide (x.priv = .m) }
  | .warden => { num := 87, sec := true, mach := true }
  | .engine => { num := 72, sec := true, mach := true }
  | .io n sec => { num := n, sec := sec, mach := false }

/-- One access is counted in a GRD counter and recorded as the most recent (R52). KIND: 0 MO, 1 SC, 2 width,
3 unmapped, 4 absent. -/
def guardCount (s : State) (w : Who) (kind addr : Nat) (wr : Bool) : State :=
  let s := match kind with
    | 0 | 1 => addF s grd GRD.DENY_CNT.COUNT
    | 2 => addF s grd GRD.WIDTH_CNT.COUNT
    | 3 => addF s grd GRD.UNMAP_CNT.COUNT
    | _ => addF s grd GRD.ABSENT_CNT.COUNT
  let s := wrF s grd GRD.LAST_ADDR_LO.ADDR addr
  let s := wrF s grd GRD.LAST_ADDR_HI.ADDR (addr / 2 ^ 32)
  let s := wrF s grd GRD.LAST_INFO.MASTER w.num
  let s := wrF s grd GRD.LAST_INFO.HART w.hart
  let s := wrF s grd GRD.LAST_INFO.VIRT (b2n w.virt)
  let s := wrF s grd GRD.LAST_INFO.PRIV w.priv
  let s := wrF s grd GRD.LAST_INFO.KIND kind
  let s := wrF s grd GRD.LAST_INFO.WRITE (b2n wr)
  let s := wrF s grd GRD.LAST_INFO.SECURE (b2n w.sec)
  capture s grd (if kind ≤ 1 then 0 else kind - 1)

/-- The word that HUB.SEV_INFO would hold for an event, VALID = 1 and OVER = 0 (R322, R407). -/
def sevInfoWord (kind : Nat) (w : Who) (wr : Bool) : Nat :=
  2 ^ 31 + kind * 2 ^ 27 + w.hart * 2 ^ 16 + w.num * 2 ^ 9 + b2n wr * 2 ^ 8

/-- A secure event is raised (R322): counted, recorded if none is, routed through SEV_ROUTE, and logged for the kinds
2, 3, 4 and 6. -/
def secEvent (s : State) (kind addr : Nat) (w : Who) (wr : Bool) : State :=
  let s := addF s hub HUB.SEV_CNT.COUNT
  let s := if rdF s hub HUB.SEV_INFO.VALID = 0 then
      let s := wrF s hub HUB.SEV_ADDR_LO.ADDR addr
      let s := wrF s hub HUB.SEV_ADDR_HI.ADDR (addr / 2 ^ 32)
      let s := wrF s hub HUB.SEV_INFO.VALID 1
      let s := wrF s hub HUB.SEV_INFO.KIND kind
      let s := wrF s hub HUB.SEV_INFO.HART w.hart
      let s := wrF s hub HUB.SEV_INFO.MASTER w.num
      wrF s hub HUB.SEV_INFO.WRITE (b2n wr)
    else wrF s hub HUB.SEV_INFO.OVER 1
  let s := sendEntry s (bkey hub + 1) (rdF s hub HUB.SEV_ROUTE.ENTRY)
  if kind = 2 || kind = 3 || kind = 4 || kind = 6 then
    logRec s 0x60 0 0xFF (leBytes addr 4 ++ leBytes (addr / 2 ^ 32) 4 ++ leBytes (sevInfoWord kind w wr) 4) true
  else s

/-- Base address of a block's page (R36). -/
def basePage (b : Blk) : Nat := 0x0F00_0000_0000 + b.die * 0x4000_0000 + b.slot * 0x4000

/-- A block is secure-held (R323). -/
def secHeld (s : State) (b : Blk) : Bool := (hdrOf s b).secHold

/-- The response of the access a command made. -/
def respond (s : State) (v : Nat) (err : Bool := false) : State := { s with resp := ⟨err, v⟩ }

/-- Units counted against a master on a resource (R227). -/
def meter (s : State) (m r n : Nat) : State :=
  { s with bw := { s.bw with meter := mput s.bw.meter (m * 32 + r) (mget 0 s.bw.meter (m * 32 + r) + n) } }

/-- The block whose counter a register key holds (R418). -/
def ctrOf (k : Nat) : Option Blk :=
  let o := k / 32 % 4096
  let bank := k / (32 * 4096 * 65536 * 64)
  if keyInBlock ctr k && 0x080 ≤ o && o < 0x0c0 && bank ≠ 0 then some ⟨(bank - 1) / 65536, (bank - 1) % 65536⟩ else none

/-- The registers of one block return to reset values, its counters to 0 (R418), and its shadow is emptied (R42, R51). -/
def clearBlock (s : State) (b : Blk) : State :=
  { s with fields := mdrop s.fields (fun k => keyInBlock b k || ctrOf k = some b), shadow := mdrop s.shadow (keyInBlock b) }

/-- The blocks of a die return to their reset values, headers included (R51, R74). -/
def clearDie (s : State) (d : Nat) : State :=
  { s with
    fields := mdrop s.fields (fun k => (k / (32 * 4096 * 65536)) % 64 = d || (ctrOf k).any (fun b => b.die = d)),
    shadow := mdrop s.shadow (fun k => (k / (32 * 4096 * 65536)) % 64 = d),
    hdrs := mdrop s.hdrs (fun k => k / 65536 = d) }

end Sys2Proof.Machine
end

