-- ==== Sys2Proof/Machine/HartOps.lean ====
section
/-! DEFINITION. A hart's registers and control state: general registers, the CSRs as stored, synchronised writes (R89,
R91), the status bits of `mdetstat`, interrupts pending, and taking an exception or interrupt. The standard CSRs follow
the ratified RISC-V specifications that R80 names (assumption log 5). -/
namespace Sys2Proof.Machine
open Sys2Proof

/-- Bits `[hi:lo]` of a word as a number. -/
def wb (w : Word) (hi lo : Nat) : Nat := bits w.toNat hi lo
/-- Bit `n` of a word. -/
def wbit (w : Word) (n : Nat) : Bool := w.getLsbD n
/-- `w` with bits `[hi:lo]` holding `v`. -/
def wset (w : Word) (hi lo v : Nat) : Word :=
  BitVec.ofNat 64 (w.toNat - wb w hi lo * 2 ^ lo + (v % 2 ^ (hi + 1 - lo)) * 2 ^ lo)
/-- The bits of `w` under `mask` replaced by those of `v`. -/
def wmask (w v mask : Word) : Word := (w &&& ~~~mask) ||| (v &&& mask)

/-- General register `n`; x0 reads 0. -/
def xr (x : Hart) (n : Nat) : Word := if n = 0 then 0 else mget 0 x.x n
/-- General register `n` written; a write of x0 is discarded. -/
def setX (x : Hart) (n : Nat) (v : Word) : Hart := if n = 0 then x else { x with x := mput x.x n v }
/-- Floating-point register `n`. -/
def fr (x : Hart) (n : Nat) : Word := mget 0 x.f n
def setFr (x : Hart) (n : Nat) (v : Word) : Hart := { x with f := mput x.f n v }

/-- The value a CSR holds after hart reset (R78, R82 and the register tables of the custom CSRs): all enables 0, the
translation modes Bare, the compare registers at their largest value. -/
def csrReset (n : Nat) : Word :=
  if n = 0x300 then 0x0000000A00000000
  else if n = 0x600 then 0x0000000200000000
  else if n = 0x200 then 0x0000000200000000
  else if n = 0x7C4 then 0x000FFF0F
  else if n = 0x7C5 then 0xF
  else if n = 0x7C8 || n = 0x14D || n = 0x24D then 0xFFFFFFFFFFFFFFFF
  else if 0x5C0 ≤ n && n ≤ 0x5CF then 12
  else if n = 0x7B0 then 0x40000003
  else 0

/-- The CSR as stored. -/
def csr (x : Hart) (n : Nat) : Word := mget (csrReset n) x.csr n
def setCsr (x : Hart) (n : Nat) (v : Word) : Hart := { x with csr := mput x.csr n v }

/-- The key under which the held part (DC_EN, IC_EN) of `mcachectl` keeps its governing value. -/
def heldCache : Nat := 0x1007C4

/-- The value of a synchronised CSR that governs the hart (R89): the old one while a held write waits for SYNC.CR, and
while a settling write is at most four instructions old either one, as drawn for the instruction. -/
def gov (x : Hart) (n : Nat) : Word :=
  match mfind x.old n with
  | none => csr x n
  | some o => if n = 0x7C0 || x.useOld then o else csr x n

/-- The governing DC_EN and IC_EN. -/
def govCache (x : Hart) : Word :=
  match mfind x.old heldCache with
  | none => csr x 0x7C4
  | some o => o

/-- A held write (R89): the CSR reads the new value, the old one governs, PEND is set. `k` is the key of the old value. -/
def heldWrite (x : Hart) (n k : Nat) (v : Word) : Hart :=
  let o := (mfind x.old k).getD (csr x n)
  { setCsr x n v with old := mput x.old k o, pend := true }

/-- A settling write (R89): the next four instructions may still be governed by the old value. -/
def settleWrite (x : Hart) (n : Nat) (v : Word) : Hart :=
  let o := gov x n
  { setCsr x n v with old := mput x.old n o, settle := (x.settle.filter (fun e => e.1 != n)) ++ [(n, 4)] }

/-- Every settling write is in effect (R91); held writes stay held. -/
def settleAll (x : Hart) : Hart :=
  { x with old := x.old.filter (fun e => e.1 == 0x7C0 || decide (0x100000 ≤ e.1)), settle := [], useOld := false }

/-- One more instruction issues: a settling write that four instructions have followed governs from here on. -/
def settleTick (x : Hart) : Hart :=
  let ovr := (x.settle.filter (fun e => e.2 == 0)).map (·.1)
  { x with settle := (x.settle.filter (fun e => e.2 != 0)).map (fun e => (e.1, e.2 - 1)),
           old := x.old.filter (fun e => !ovr.contains e.1) }

/-- The store buffer, and what the streaming detector has gathered from it, is empty. -/
def sbEmpty (x : Hart) : Bool := x.sb.isEmpty && x.strm.gather.isEmpty

/-- `mdetctl.STRICT` and DET as they govern. -/
def strict (x : Hart) : Bool := wbit (gov x 0x7C0) 1

/-- The value `mdetstat` reads. -/
def mdetstat (x : Hart) : Word :=
  BitVec.ofNat 64 (b2n x.active + 2 * b2n x.pend + 4 * b2n x.swait + 8 * b2n x.done + 16 * b2n x.wakePend + 32 * b2n x.ext)

/-- The GTIME counter of a die (R71, R72): the hub's plus the die's deviation. -/
def dieTime (s : State) (d : Nat) : Word := BitVec.ofInt 64 ((s.gtime : Int) + (mget {} s.dies d).dev)

/-- The CSR `time` of a hart (R73). -/
def timeOf (s : State) (x : Hart) : Word := dieTime s (coreDie x.core)

/-- An interrupt file of the hart: 0 the secure file, 1 the supervisor file, 2-8 guest files (R98). -/
def fileOf (x : Hart) (n : Nat) : IrqFile := mget {} x.files n
def setFile (x : Hart) (n : Nat) (f : IrqFile) : Hart := { x with files := mput x.files n f }

/-- The lowest identity of a file that is pending, enabled and above threshold; 0 when there is none. -/
def fileTop (f : IrqFile) : Nat :=
  ((f.eip.find? (fun i => f.eie.contains i && (f.thr = 0 || decide (i < f.thr)))).getD 0)

/-- The file signals an interrupt. -/
def fileOut (f : IrqFile) : Bool := f.deliv && fileTop f ≠ 0

/-- `hgeip`: the guest files that signal. -/
def hgeip (x : Hart) : Nat :=
  (List.range 7).foldl (fun a g => if fileOut (fileOf x (g + 2)) then a + 2 ^ (g + 1) else a) 0

/-- `mip` (R86, R97, R98): the timer bits from the compares, the external bits from the interrupt files and the software
bits as stored; MSIP reads 0. -/
def mipOf (s : State) (x : Hart) : Nat :=
  let sw := csr x 0x344
  let hv := csr x 0x645
  let t := timeOf s x
  let ssip := wbit sw 1
  let vssip := wbit hv 2
  let stip := if wbit (csr x 0x30A) 63 then decide ((csr x 0x14D) ≤ t) else wbit sw 5
  let vstip := wbit hv 6 || (wbit (csr x 0x60A) 63 && decide ((csr x 0x24D) ≤ t + csr x 0x605))
  let mtip := decide ((csr x 0x7C8) ≤ t)
  let seip := wbit sw 9 || fileOut (fileOf x 1)
  let vgein := wb (csr x 0x600) 17 12
  let vseip := wbit hv 10 || (1 ≤ vgein && vgein ≤ 7 && fileOut (fileOf x (vgein + 1)))
  let meip := fileOut (fileOf x 0)
  let sgeip := hgeip x &&& (csr x 0x607).toNat ≠ 0
  let lcof := wbit sw 13
  b2n ssip * 2 + b2n vssip * 4 + b2n stip * 32 + b2n vstip * 64 + b2n mtip * 128 + b2n seip * 512 + b2n vseip * 1024
    + b2n meip * 2048 + b2n sgeip * 4096 + b2n lcof * 8192

/-- The effective `mideleg` (R321): bits 3, 7 and 11 read 0; the guest bits 2, 6, 10 and 12 read 1 with the H extension. -/
def mideleg (x : Hart) : Nat := ((csr x 0x303).toNat &&& 0x2222) ||| 0x1444

/-- The interrupt a hart takes next, with the mode that takes it (R102, R321): a machine-level one whenever the hart is
outside M-mode whatever MIE holds, and in M-mode only with MIE; a supervisor one never in M-mode. Modes: 3 M, 1 HS, 2 VS. -/
def nextIrq (s : State) (x : Hart) : Option (Nat × Nat) :=
  let p := mipOf s x &&& (csr x 0x304).toNat
  let del := mideleg x
  let hdel := (csr x 0x603).toNat &&& 0x444
  let order := [11, 7, 9, 1, 5, 12, 10, 2, 6, 13]
  let st := csr x 0x300
  let hsOn := x.priv ≠ .m && (x.virt || x.priv = .u || wbit st 1)
  let vsOn := x.virt && (x.priv = .u || wbit (csr x 0x200) 1)
  let mOn := x.priv ≠ .m || wbit st 3
  let mSet := order.filter (fun c => bit p c && !bit del c && mOn && (x.priv ≠ .m || c = 11 || c = 7 || c = 13))
  let hSet := order.filter (fun c => bit p c && bit del c && !bit hdel c && hsOn)
  let vSet := order.filter (fun c => bit p c && bit del c && bit hdel c && vsOn)
  match mSet with
  | c :: _ => some (c, 3)
  | [] => match hSet with
    | c :: _ => some (c, 1)
    | [] => match vSet with
      | c :: _ => some (c, 2)
      | [] => none

/-- Where an exception is taken (R97, R127, R312): M-mode from M-mode, for a walk fault and for a cause not delegated;
else HS, or VS for a guest when `hedeleg` passes it on. -/
def excTarget (x : Hart) (cause : Nat) : Nat :=
  if x.priv = .m || (24 ≤ cause && cause ≤ 26) || !bit (csr x 0x302).toNat cause then 3
  else if x.virt && bit (csr x 0x602).toNat cause && cause ≠ 20 && cause ≠ 21 && cause ≠ 22 && cause ≠ 23 then 2
  else 1

def privCode (p : Priv) : Nat :=
  match p with
  | .u => 0
  | .s => 1
  | .m => 3

def privOf (n : Nat) : Priv := if n = 3 then .m else if n = 1 then .s else .u

/-- The address a trap vector sends a trap to: vectored mode adds 4 × cause for an interrupt. -/
def vecAddr (tvec : Word) (intr : Bool) (cause : Nat) : Word :=
  let base := tvec &&& ~~~3#64
  if intr && wb tvec 1 0 = 1 then base + BitVec.ofNat 64 (4 * cause) else base

/-- The cause register of a trap. -/
def causeWord (intr : Bool) (cause : Nat) : Word := BitVec.ofNat 64 (cause + if intr then 2 ^ 63 else 0)

/-- A trap is taken in mode `tgt` (3 M, 1 HS, 2 VS) by the standard trap entry: the address of the instruction, the
cause and the trap value are saved, the previous privilege and interrupt enable are stacked, interrupts of that mode are
off, and control passes to the handler. Settling writes come into effect (R91); an entry to M-mode is the entry to the
secure world (R312). `tval2` is the guest physical address shifted right by 2, `gva` says that `tval` is a guest virtual
address. `mcycle` counts the entry: 6 DetClk cycles in deterministic mode (R106), else 8 CoreClk cycles (R94). -/
def enterTrap (x : Hart) (tgt : Nat) (intr : Bool) (cause : Nat) (tval tval2 : Word) (gva : Bool) : Hart :=
  let x := settleAll x
  let x := if wbit (csr x 0x320) 0 then x else setCsr x 0xB00 (csr x 0xB00 + if x.active then 6 else 8)
  let st := csr x 0x300
  if tgt = 3 then
    let st1 := wset (wset (wset st 7 7 (b2n (wbit st 3))) 3 3 0) 12 11 (privCode x.priv)
    let st2 := wset (wset st1 39 39 (b2n x.virt)) 38 38 (b2n gva)
    let x1 := setCsr (setCsr (setCsr (setCsr x 0x300 st2) 0x341 x.pc) 0x342 (causeWord intr cause)) 0x343 tval
    let x2 := setCsr (setCsr x1 0x34B tval2) 0x34A 0
    { x2 with priv := .m, virt := false, pc := vecAddr (csr x 0x305) intr cause, run := .running }
  else if tgt = 1 then
    let st1 := wset (wset (wset st 5 5 (b2n (wbit st 1))) 1 1 0) 8 8 (privCode x.priv)
    let hs := csr x 0x600
    let hs1 := wset (wset hs 7 7 (b2n x.virt)) 6 6 (b2n gva)
    let hs2 := if x.virt then wset hs1 8 8 (privCode x.priv) else hs1
    let x1 := setCsr (setCsr (setCsr (setCsr x 0x300 st1) 0x600 hs2) 0x141 x.pc) 0x142 (causeWord intr cause)
    let x2 := setCsr (setCsr (setCsr x1 0x143 tval) 0x643 tval2) 0x64A 0
    { x2 with priv := .s, virt := false, pc := vecAddr (csr x 0x105) intr cause, run := .running }
  else
    let vs := csr x 0x200
    let vs1 := wset (wset (wset vs 5 5 (b2n (wbit vs 1))) 1 1 0) 8 8 (privCode x.priv)
    let vc := if intr then cause - 1 else cause
    let x1 := setCsr (setCsr (setCsr (setCsr x 0x200 vs1) 0x241 x.pc) 0x242 (causeWord intr vc)) 0x243 tval
    { x1 with priv := .s, virt := true, pc := vecAddr (csr x 0x205) intr vc, run := .running }

/-- An exception of hart `h` with its trap value; whatever access was in progress ends. The store buffer drains before
the trap is entered (R140): until it is empty the trap waits. -/
def raise (s : State) (h cause : Nat) (tval : Word) (tval2 : Word := 0) : State :=
  let x := hartOf s h
  let x := { x with cur := none, walk := none, miss := none, missSt := false, missOwn := false, refused := none,
                    stalled := false, ioTag := none, trapWait := none, useOld := false }
  let gva := x.virt && (cause = 1 || cause = 4 || cause = 5 || cause = 6 || cause = 7 || cause = 12 || cause = 13
    || cause = 15 || cause = 20 || cause = 21 || cause = 23 || (24 ≤ cause && cause ≤ 26))
  if sbEmpty x then setHart s h (enterTrap x (excTarget x cause) false cause tval tval2 gva)
  else setHart s h { x with trapWait := some (cause, tval, tval2) }

/-- Debug enables in effect (R325): 0 SID, 1 SNID, 2 NID, 3 NNID. -/
def dbgOn (s : State) (n : Nat) : Bool :=
  match n with
  | 0 => decide (rdF s hub HUB.DBG_FUSE.SID = 0 ∧ rdF s hub HUB.DBG_CTRL.SID = 1)
  | 1 => decide (rdF s hub HUB.DBG_FUSE.SNID = 0 ∧ rdF s hub HUB.DBG_CTRL.SNID = 1)
  | 2 => decide (rdF s hub HUB.DBG_FUSE.NID = 0 ∧ rdF s hub HUB.DBG_CTRL.NID = 1)
  | _ => decide (rdF s hub HUB.DBG_FUSE.NNID = 0 ∧ rdF s hub HUB.DBG_CTRL.NNID = 1)

/-- The invasive enable of the hart's world. -/
def invasiveOn (s : State) (x : Hart) : Bool := if x.priv = .m then dbgOn s 0 else dbgOn s 2

/-- The hart halts in debug mode: `dpc` holds the next instruction's address and `dcsr` the privilege and the cause. -/
def haltHart (x : Hart) (cause : Nat) : Hart :=
  let d := csr x 0x7B0
  let d1 := wset (wset (wset d 1 0 (privCode x.priv)) 5 5 (b2n x.virt)) 8 6 cause
  { setCsr (setCsr x 0x7B0 d1) 0x7B1 x.pc with run := .halted, haltReq := false }

/-- Cycles and one retired instruction are counted (R326, R424): `mcycle` always, `minstret` not in M-mode while SNID is
off; `mcountinhibit` stops either. The swap of R109 stops both. -/
def retire (s : State) (x : Hart) (cycles : Nat) : Hart :=
  let inh := csr x 0x320
  let x := if wbit inh 0 then x else setCsr x 0xB00 (csr x 0xB00 + BitVec.ofNat 64 cycles)
  if wbit inh 2 || (x.priv = .m && !dbgOn s 1) then x else setCsr x 0xB02 (csr x 0xB02 + 1)

/-- The hart is free to issue an instruction: running, and waiting for no fill, walk, drain, I/O read or SYNC.CR. -/
def ready (x : Hart) : Bool :=
  x.run = .running && x.cur.isNone && x.walk.isNone && x.miss.isNone && x.ioTag.isNone && x.trapWait.isNone
    && !x.syncing

/-- The state of a hart after hart reset (R74, R75): parked, its CSRs, registers, TLBs and predictors in their reset
state, its L1 empty. `core` is kept: the hart map is not part of the reset. Interrupt files keep nothing (their CSRs are
the hart's). -/
def resetHart (x : Hart) : Hart := { core := x.core }

/-- The hart's world is secure exactly in M-mode (R312). -/
def secureHart (x : Hart) : Bool := decide (x.priv = .m)

/-- The hart starts in M-mode, secure, at `pc` (R78, R312). -/
def startHart (x : Hart) (pc : Word) : Hart := { x with run := .running, priv := .m, virt := false, pc := pc }

/-- A scan-wake ends the scan-wait of a hart (R108): `mscaninfo` takes the release, and the hart goes on behind its SCAN.DONE. -/
def scanWake (x : Hart) (info : Word) : Hart :=
  { setCsr x 0x7C2 info with done := false, wakePend := false, swait := false, run := .running, pc := x.pc + 4 }

/-- An uncorrectable error in a hart's arrays is recorded (R152, R150): ARRAY 3 is the local store. -/
def hclUe (s : State) (h array addr : Nat) : State :=
  let x := hartOf s h
  let b := hcl (coreDie x.core) (coreInst x.core)
  let s := if rdF s b HCL.UE_INFO.VALID = 1 then wrF s b HCL.UE_INFO.OVER 1
    else
      let s := wrF s b HCL.UE_ADDR_LO.ADDR addr
      let s := wrF s b HCL.UE_ADDR_HI.ADDR (addr / 2 ^ 32)
      let s := wrF s b HCL.UE_INFO.VALID 1
      let s := wrF s b HCL.UE_INFO.ARRAY array
      wrF s b HCL.UE_INFO.HART h
  capture s b 2

end Sys2Proof.Machine
end

