-- ==== Sys2Proof/Machine/Mem.lean ====
section
/-! DEFINITION. The physical address map (R33, R34), homing and interleave (R162, R208-R211), the secure regions (R317)
and the coherent view of memory: which copy of a line is current, and the line reads and writes of the hub's engines. -/
namespace Sys2Proof.Machine
open Sys2Proof

/-- The ranges of the physical address map (R33). -/
inductive Zone where
  | hbm | ddr | rootWin | regs | aliasWin | view | site | unmapped
deriving DecidableEq, Repr

/-- Usable HBM3E bytes (R33, R208, R211). -/
def hbmSize (s : State) : Nat :=
  if !s.hbmOn then 0
  else if rdF s hub HUB.MEM_CFG.MODE = 1 then 0x18_0000_0000
  else 0x30_0000_0000 / 2 ^ rdF s hub HUB.MEM_CFG.FOLD

/-- Installed DDR5 bytes (R206). The exponent is kept whole: the field DDR_EXP of HUB.MEM_CFG has five bits and cannot
show 34-42 (assumption log 6). -/
def ddrSize (s : State) : Nat := if rdF s hub HUB.MEM_CFG.DDR_EN = 1 then 2 ^ s.ddrExp else 0

/-- The range a physical address lies in. -/
def zoneOf (s : State) (pa : Nat) : Zone :=
  if pa < hbmSize s then .hbm
  else if 0x0100_0000_0000 ≤ pa ∧ pa < 0x0100_0000_0000 + ddrSize s then .ddr
  else if 0x0E00_0000_0000 ≤ pa ∧ pa < 0x0F00_0000_0000 then .rootWin
  else if 0x0F00_0000_0000 ≤ pa ∧ pa < 0x0F10_0000_0000 then .regs
  else if 0x0F10_0000_0000 ≤ pa ∧ pa < 0x0F18_0000_0000 then .aliasWin
  else if 0x0F20_0000_0000 ≤ pa ∧ pa < 0x0F21_0000_0000 then .view
  else if 0x0F40_0000_0000 ≤ pa ∧ pa < 0x0F80_0000_0000 ∧ dieUp s 28 then .site
  else .unmapped

/-- Main memory (R34). -/
def isMem (z : Zone) : Bool :=
  match z with
  | .hbm | .ddr => true
  | .rootWin | .regs | .aliasWin | .view | .site | .unmapped => false

/-- An I/O range of R34. -/
def isIo (z : Zone) : Bool :=
  match z with
  | .rootWin | .regs | .aliasWin | .view | .site => true
  | .hbm | .ddr | .unmapped => false

/-- Address bits as a number. -/
def ab (a hi lo : Nat) : Nat := bits a hi lo

/-- The home value of a line's address (R162). -/
def homeVal (a : Nat) : Nat := ab a 9 8 ^^^ ab a 17 16 ^^^ ab a 25 24 ^^^ ab a 33 32 ^^^ ab a 41 40
/-- The base die that homes value `h` (HUB.HOME_MAP, R208, R209). -/
def subOf (s : State) (h : Nat) : Nat :=
  match h with
  | 0 => rdF s hub HUB.HOME_MAP.SUB_0
  | 1 => rdF s hub HUB.HOME_MAP.SUB_1
  | 2 => rdF s hub HUB.HOME_MAP.SUB_2
  | _ => rdF s hub HUB.HOME_MAP.SUB_3
/-- The base die (0-3) that homes the line at address `a`. -/
def homeDie (s : State) (a : Nat) : Nat := subOf s (homeVal a)
/-- The home bank and the directory set (R162). -/
def homeBank (a : Nat) : Nat := ab a 15 10 ^^^ ab a 21 16
def homeSet (a : Nat) : Nat := ab a 24 16 * 4 + ab a 7 6

/-- The stack select bit of R208. -/
def stripeT (a : Nat) : Nat := ab a 10 10 ^^^ ab a 20 20 ^^^ ab a 30 30
/-- A stack is in service. -/
def stackUp (s : State) (k : Nat) : Bool := dieUp s (32 + k)
/-- The home values that base die `d` serves. -/
def homedOn (s : State) (d : Nat) : List Nat := (List.range 4).filter (fun h => subOf s h = d)

/-- The stack and the stack-local address of an HBM3E address under the interleave in use (R208, R211). -/
def stackOf (s : State) (a : Nat) : Nat × Nat :=
  let h := homeVal a
  let t := stripeT a
  if rdF s hub HUB.MEM_CFG.MODE = 1 then
    let st := 2 * h + t
    if stackUp s st then (st, ab a 37 11 * 256 + ab a 7 0) else (st ^^^ 6, ab a 37 11 * 256 + ab a 7 0 + 0x3_0000_0000)
  else
    let d := subOf s h
    let i := ((homedOn s d).findIdx? (· = h)).getD 0
    let f := rdF s hub HUB.MEM_CFG.FOLD
    let (st, sub) :=
      if stackUp s (2 * d) && stackUp s (2 * d + 1) then (2 * d + t, i)
      else if stackUp s (2 * d) then (2 * d, 2 * i + t) else (2 * d + 1, 2 * i + t)
    (st, ab a 37 11 * 2 ^ (8 + f) + sub * 256 + ab a 7 0)

/-- The mirror stack of a stack (R211). -/
def partner (k : Nat) : Nat := k ^^^ 6

/-- The channel and channel-local address of a DDR5 address (R210). -/
def chanOf (s : State) (a : Nat) : Nat × Nat :=
  let d := a - 0x0100_0000_0000
  let w := rdF s hub HUB.MEM_CFG.DDR_CH
  ((ab d 10 8 ^^^ ab d 21 19 ^^^ ab d 32 30) % 2 ^ w, (d / 2 ^ (8 + w)) * 256 + ab d 7 0)

/-- The register block of the controller that serves an address, and the local address. -/
def ctlOf (s : State) (a : Nat) : Blk × Nat :=
  if a < 0x0100_0000_0000 then let (k, l) := stackOf s a; (mch k, l) else let (c, l) := chanOf s a; (mcd c, l)

/-- A region covers an address (R317). -/
def covers (r : Sreg) (pa : Nat) : Bool := r.en && decide (pa / 2 ^ r.exp = r.base / 2 ^ r.exp)

/-- Whether an address is secure (R317). While a region change is on its way to the copies (R319), an access it decides
is checked against the old or the new value: a free value picks. -/
def isSecure (s : State) (pa : Nat) : Bool × State :=
  let now := s.sregs.any (fun e => covers e.2 pa)
  let before := s.sregs.any (fun e => covers ((mfind s.sregPrev e.1).getD e.2) pa)
  if now = before then (now, s)
  else let (v, s') := draw s; (if v % 2 = 1 then now else before, s')

/-- The base dies that peer Hinge `q` joins (R226). -/
def peerPair (q : Nat) : Nat × Nat :=
  match q with
  | 0 => (0, 1)
  | 1 => (0, 2)
  | 2 => (0, 3)
  | 3 => (1, 2)
  | 4 => (1, 3)
  | _ => (2, 3)

/-- The base die (0-3) at the far end of Hinge instance `i` of base die `a`; 4 for the hub (R40). -/
def peerOf (a i : Nat) : Nat := if 3 ≤ i then 4 else if i < a then i else i + 1

/-- The base die that traffic from `a` to `b` goes to first (XFB.ROUTE, R177). -/
def nextHop (s : State) (a b : Nat) : Nat :=
  peerOf a (if rdF s (xfb (1 + a)) XFB.ROUTE.USING_ALT b = 1 then rdF s (xfb (1 + a)) XFB.ROUTE.ALT b else rdF s (xfb (1 + a)) XFB.ROUTE.PRI b)

/-- One unit crosses the Hinge from base die `a` to its neighbour `b` (R226, R227); 4 is the hub. -/
def meterHop (s : State) (m a b : Nat) : State :=
  if a = b then s
  else if b = 4 then meter s m (3 + 2 * a) 1
  else if a = 4 then meter s m (2 + 2 * b) 1
  else match (List.range 6).find? (fun q => peerPair q = (min a b, max a b)) with
    | some q => meter s m (10 + 2 * q + (if b < a then 1 else 0)) 1
    | none => s

/-- One unit of data goes from base die `a` to `b` over the mesh. -/
def meterPath (s : State) (m a b : Nat) : State :=
  if a = b then s else let n := if a = 4 then b else nextHop s a b
  meterHop (meterHop s m a n) m n b

/-- Units read from or written to memory at address `a`; under Mirror-4 a write goes to both copies (R212, R227). -/
def meterPool (s : State) (m a : Nat) (wr : Bool) : State :=
  meter s m (if a < 0x0100_0000_0000 then 0 else 1)
    (if wr && a < 0x0100_0000_0000 && rdF s hub HUB.MEM_CFG.MODE = 1 then 2 else 1)

/-- A line's bytes and poison marks in memory. -/
def memLine (s : State) (ln : Nat) : Line × BitVec 8 :=
  (BitVec.ofNat 512 (readBytes s.dram (ln * 64) 64),
   BitVec.ofNat 8 ((List.range 8).foldl (fun a i => if s.poison.contains (ln * 8 + i) then a + 2 ^ i else a) 0))

/-- A line written to memory with its poison marks (R219, R220); under Mirror-4 both copies take it (R212). -/
def putMem (s : State) (ln : Nat) (v : Line) (p : BitVec 8) : State :=
  { s with dram := writeBytes s.dram (ln * 64) 64 v.toNat,
           poison := (List.range 8).foldl (fun l i => if p.getLsbD i then sIns l (ln * 8 + i) else sDel l (ln * 8 + i)) s.poison }

/-- The key of a cluster's copy of a line. -/
def l2key (cl ln : Nat) : Nat := ln * 128 + cl
def l2Of (s : State) (cl ln : Nat) : Option L2Line := mfind s.l2 (l2key cl ln)
def setL2 (s : State) (cl ln : Nat) (l : L2Line) : State := { s with l2 := mput s.l2 (l2key cl ln) l }

/-- The clusters that hold a line. -/
def holders (s : State) (ln : Nat) : List Nat := (List.range 72).filter (fun c => (l2Of s c ln).isSome)

/-- The copy of a line that is current: an owner's (M, E or O), else that of a write-back on its way to the home (R175),
else the L3's, else memory's (R165, R168). -/
def curLine (s : State) (ln : Nat) : Line × BitVec 8 :=
  match (List.range 72).find? (fun c => match l2Of s c ln with
      | some l => l.st != .s
      | none => false) with
  | some c => match l2Of s c ln with
    | some l => (l.data, l.poison)
    | none => memLine s ln
  | none => match s.wbs.find? (fun w => w.line = ln && !w.answered) with
    | some w => (w.data, w.poison)
    | none => match mfind s.l3 ln with
      | some e => if e.valid then (e.data, e.poison) else memLine s ln
      | none => memLine s ln

/-- Every copy of a line leaves the L1 and victim caches of a cluster's harts (R143); a reservation on it is lost
(R175). -/
def dropL1 (s : State) (cl ln : Nat) : State :=
  { s with harts := s.harts.map (fun e =>
      if coreCluster e.2.core = cl then
        (e.1, { e.2 with l1d := e.2.l1d.filter (fun c => c.line != ln), vc := e.2.vc.filter (fun c => c.line != ln),
                         l1i := e.2.l1i.filter (fun c => c.line != ln), resv := if e.2.resv = some ln then none else e.2.resv })
      else e) }

/-- A cluster's copy of a line is invalidated, its L1 copies first (R143). -/
def dropL2 (s : State) (cl ln : Nat) : State :=
  let s := dropL1 s cl ln
  { s with l2 := mdel s.l2 (l2key cl ln) }

/-- A snoop that the cluster holds for its latch window is answered as the line leaves it (R173, R175). -/
def answerHeld (s : State) (cl ln : Nat) (data : Option (Line × BitVec 8)) : State :=
  match (l2Of s cl ln).bind (·.held) with
  | some _ => { s with rsps := s.rsps ++ [⟨cl, ln, false, data⟩] }
  | none => s

/-- Every cluster's copy of a line is invalidated. A write-back of it on its way is taken as complete and ignored on arrival
(R175), and the data of an answer on its way are no longer the line's. -/
def dropAll (s : State) (ln : Nat) : State :=
  let s : State := { s with wbs := s.wbs.map (fun w => if w.line = ln then { w with answered := true } else w),
                            rsps := s.rsps.map (fun p => if p.line = ln then { p with data := none } else p) }
  (holders s ln).foldl (fun s c => dropL2 (answerHeld s c ln none) c ln) s

/-- A line is written at its home by an I/O-coherent master: every L2 copy goes, and the line in the L3, or in memory
where the L3 holds none, takes the bytes (R167). -/
def cohWriteLine (s : State) (ln : Nat) (v : Line) (p : BitVec 8) : State :=
  let s := dropAll s ln
  match mfind s.l3 ln with
  | some e => { s with l3 := mput s.l3 ln { e with data := v, poison := p, valid := true, dirty := true,
                                                   dst := .uncached, vec := [], owner := 0 } }
  | none => putMem s ln v p

/-- Bytes of a line replaced under a mask of 64 bits. -/
def mergeLine (old v : Line) (mask : BitVec 64) : Line :=
  BitVec.ofNat 512 ((List.range 64).foldl (fun a i =>
    a + 2 ^ (8 * i) * ((if mask.getLsbD i then v else old).toNat / 2 ^ (8 * i) % 256)) 0)

/-- The poison marks after a masked write (R220): a word whose eight bytes are all written is clean; a word partly
written keeps its mark. -/
def mergePoison (p : BitVec 8) (mask : BitVec 64) : BitVec 8 :=
  BitVec.ofNat 8 ((List.range 8).foldl (fun a i =>
    if p.getLsbD i && decide ((mask.toNat / 2 ^ (8 * i)) % 256 ≠ 255) then a + 2 ^ i else a) 0)

/-- A masked write of a line by an I/O-coherent master: the line is recalled, merged and invalidated (R167). -/
def cohMerge (s : State) (ln : Nat) (v : Line) (mask : BitVec 64) : State :=
  let (o, p) := curLine s ln
  cohWriteLine s ln (mergeLine o v mask) (mergePoison p mask)

/-- `n` bytes written at `a`, all in one line, by an I/O-coherent master. -/
def cohWrite (s : State) (a n v : Nat) : State :=
  let off := a % 64
  cohMerge s (a / 64) (BitVec.ofNat 512 (v * 2 ^ (8 * off))) (BitVec.ofNat 64 ((2 ^ n - 1) * 2 ^ off))

/-- `n` bytes read at `a`, all in one line, with whether any word read is poisoned. -/
def cohRead (s : State) (a n : Nat) : Nat × Bool :=
  let (v, p) := curLine s (a / 64)
  let off := a % 64
  (v.toNat / 2 ^ (8 * off) % 2 ^ (8 * n),
   (List.range 8).any (fun i => p.getLsbD i && decide (i * 8 < off + n) && decide (off < i * 8 + 8)))

/-- An access of an I/O-coherent master to a main-memory address is checked at the home bank (R317): a normal access to
a secure address reads zeros and raises a KIND 0 event (R318). -/
def ioReadMem (s : State) (w : Who) (a n : Nat) : (Nat × Bool) × State :=
  let (sec, s) := isSecure s a
  if sec && !w.sec then ((0, false), secEvent s 0 a w false) else (cohRead s a n, s)

/-- The write of an I/O-coherent master, dropped with a KIND 0 event when a normal access names a secure address. -/
def ioWriteMem (s : State) (w : Who) (a n v : Nat) : State :=
  let (sec, s) := isSecure s a
  if sec && !w.sec then secEvent s 0 a w true else cohWrite s a n v

/-- `ioWriteMem` over a range of words of 4 bytes. -/
def ioWriteWords (s : State) (w : Who) (a : Nat) : List Nat → State
  | [] => s
  | v :: r => ioWriteWords (ioWriteMem s w a 4 v) w (a + 4) r

/-- `n` words of 4 bytes read from `a` on. -/
def ioReadWords (s : State) (w : Who) (a : Nat) : Nat → List Nat × State
  | 0 => ([], s)
  | n + 1 =>
    let ((v, _), s) := ioReadMem s w a 4
    let (r, s) := ioReadWords s w (a + 4) n
    (v :: r, s)

/-- The top level, and the index bits of level `l`, of Sv39 (3) and Sv48 (4) tables. -/
def vpn (va l : Nat) : Nat := va / 2 ^ (12 + 9 * l) % 512
/-- The index into a G-stage table: the top level has two more bits (Sv39x4, Sv48x4). -/
def gvpn (gpa l top : Nat) : Nat := gpa / 2 ^ (12 + 9 * l) % (if l = top then 2048 else 512)

/-- The top level of a `satp`, `vsatp` or `hgatp` MODE: 2 for Sv39, 3 for Sv48. -/
def topOf (mode : Nat) : Nat := if mode = 9 then 3 else 2

/-- The outcome of a PTE: a table below, a leaf of 2^`exp` bytes at `base`, or a fault (R118, R119). -/
inductive Pte where
  | table (a : Nat) | leaf (base exp : Nat) | bad
deriving DecidableEq, Repr

/-- A PTE of level `l` read (R118, R119). Without NAPOT_ANY only the 64 KiB size is a valid one (R193). -/
def pteOf (any : Bool) (p l : Nat) : Pte :=
  let ppn := bits p 53 10
  let rwx := bit p 1 || bit p 2 || bit p 3
  if !bit p 0 || (bit p 2 && !bit p 1) || bits p 62 54 ≠ 0 then .bad
  else if !rwx then (if bit p 63 || l = 0 then .bad else .table (ppn * 4096))
  else if ppn % 2 ^ (9 * l) ≠ 0 then .bad
  else if bit p 63 then
    let f := ppn / 2 ^ (9 * l) % 512
    match (List.range 8).find? (fun j => bit f j) with
    | some z => if l ≤ 2 && (any || (l = 0 && z = 3)) then .leaf (ppn * 4096 / 2 ^ (12 + 9 * l + z + 1) * 2 ^ (12 + 9 * l + z + 1)) (12 + 9 * l + z + 1) else .bad
    | none => .bad
  else .leaf (ppn * 4096) (12 + 9 * l)

/-- The key of a local-store byte: the store belongs to the core (R148). -/
def lsKey (core off : Nat) : Nat := core * 2 ^ 17 + off % 2 ^ 17

/-- An unmapped access is counted (R35). -/
def unmapped (s : State) (w : Who) (a : Nat) (wr : Bool) : State := guardCount s w 3 a wr

end Sys2Proof.Machine
end

