-- ==== Sys2Proof/Machine/Coherence.lean ====
section
/-! DEFINITION. The home banks: requests, snoops, answers, retries, write-backs and the L3 (chapter "Xancy Fabric and
Coherence"), with the memory controllers' error handling (R212, R221). -/
namespace Sys2Proof.Machine
open Sys2Proof

/-- An uncorrectable error is recorded in a controller's UE registers: the first since the last read, a further one
only sets OVER. SOURCE: 0 demand read, 1 scrub, 2 resynchronisation, 3 on-die. -/
def recordUe (s : State) (b : Blk) (la words src : Nat) (fixed : Bool) : State :=
  if rdF s b MCH.UE_INFO.VALID = 1 then wrF s b MCH.UE_INFO.OVER 1
  else
    let s := wrF s b MCH.UE_ADDR_LO.ADDR (la / 64 * 64)
    let s := wrF s b MCH.UE_ADDR_HI.ADDR (la / 2 ^ 32)
    let s := wrF s b MCH.UE_INFO.VALID 1
    let s := wrF s b MCH.UE_INFO.REPAIRED (b2n fixed)
    let s := wrF s b MCH.UE_INFO.SOURCE src
    wrF s b MCH.UE_INFO.WORDS words

/-- The lifetime counter of corrected errors of a controller (R412 group 4). -/
def lifeCe (b : Blk) : Nat := 4 * 4096 + b.die * 32 + (if b.die = 0 then instOf b else 0)

/-- A line keeps two good copies: Mirror-4 with both stacks of its pair in service (R212, R213). -/
def twoCopies (s : State) (a : Nat) : Bool :=
  rdF s hub HUB.MEM_CFG.MODE = 1 && a < 0x0100_0000_0000 &&
    (let k := 2 * homeVal a + stripeT a; stackUp s k && stackUp s (partner k)
      && rdF s (mch k) MCH.RESYNC.BUSY = 0 && rdF s (mch (partner k)) MCH.RESYNC.BUSY = 0)

/-- An uncorrectable line is left poisoned: counted, recorded and logged (R221). -/
def poisonLine (s : State) (ln words : Nat) : State :=
  let a := ln * 64
  let (b, la) := ctlOf s a
  let s := addF s b MCH.UE_CNT.COUNT
  let s := recordUe s b la words 0 false
  let s := capture s b 1
  let s := logRec s 0x30 b.die (instOf b) (leBytes (la / 64 * 64) 4 ++ leBytes (la / 2 ^ 32) 4
      ++ leBytes (2 ^ 31 + words % 256) 4)
  { s with poison := (List.range 8).foldl (fun l i => if bit words i then sIns l (ln * 8 + i) else l) s.poison }

/-- The controller reads a line (R212, R221). -/
def memFetch (s : State) (ln : Nat) (e : EccFind) : (Line × BitVec 8) × State :=
  let a := ln * 64
  let (b, la) := ctlOf s a
  let s := match e with
    | .good => s
    | .corrected => capture (lifeAdd (addF (countEv s b 0x12) b MCH.CE_CNT.COUNT) (lifeCe b)) b 0
    | .onDie => if typeOf b = 15 then lifeAdd (addF s b MCH.ODECC_CNT.COUNT) (lifeCe b + 1) else s
    | .primary words =>
      if twoCopies s a then capture (recordUe (addF s b MCH.FIX_CNT.COUNT) b la words 0 true) b 2
      else poisonLine s ln words
    | .both words => poisonLine s ln words
  (memLine s ln, s)

/-- The latch window in half GTIME units: LATCH_WIN MeshClk cycles of 1.5 units (R65, R173). -/
def latchEnd (s : State) : Nat := 2 * s.gtime + 3 * rdF s (xfb 0) XFB.LATCH_WIN.CYCLES

/-- A line leaves an L2: of a dirty one a write-back is on its way to the home (R166), already answered from where a snoop was held. -/
def evictL2 (s : State) (cl ln : Nat) : State :=
  match l2Of s cl ln with
  | none => s
  | some l =>
    match l.st with
    | .m | .o =>
      let s := dropL2 (answerHeld s cl ln (some (l.data, l.poison))) cl ln
      { s with wbs := s.wbs ++ [⟨cl, ln, l.data, l.poison, l.sec, l.held.isSome⟩] }
    | .e | .s => dropL2 (answerHeld s cl ln none) cl ln

/-- The ways of a cluster's L2 set with the lines that use them. -/
def l2Set (s : State) (cl ln : Nat) : List (Nat × Nat) :=
  (s.l2.filter (fun e => e.1 % 128 = cl && (e.1 / 128) % 2048 = ln % 2048)).map (fun e => (e.2.way, e.1 / 128))

/-- The way a fill takes among those `mask` enables: a free one, else a not-recently-used one, which the spec leaves
open and a free value picks (R135, R144, assumption log 7). Answers the way and the line that must leave it. -/
def pickWay (s : State) (n mask : Nat) (used : List (Nat × Nat)) : Nat × Option Nat × State :=
  let ways := (List.range n).filter (fun w => bit mask w)
  match ways.find? (fun w => !used.any (fun u => u.1 = w)) with
  | some w => (w, none, s)
  | none =>
    let (v, s) := draw s
    let w := (ways[v % max 1 ways.length]?).getD 0
    (w, (used.find? (fun u => u.1 = w)).map (·.2), s)

/-- A cluster installs a line (R144, R173): a way is freed, and a line installed in E or M starts its latch window. -/
def installL2 (s : State) (cl ln : Nat) (st : LSt) (d : Line × BitVec 8) (sec : Bool) (pclass : Nat) : State :=
  let le := match st with
    | .m | .e => latchEnd s
    | .o | .s => 0
  match l2Of s cl ln with
  | some l => setL2 s cl ln { l with st := st, data := d.1, poison := d.2, sec := sec, latchEnd := le }
  | none =>
    let mask := rdF s (hcl (clDie cl) (clInst cl)) HCL.L2_WAYS.MASK pclass
    let (w, out, s) := pickWay s 16 mask (l2Set s cl ln)
    let s := match out with
      | some o => evictL2 s cl o
      | none => s
    setL2 s cl ln ⟨st, d.1, d.2, sec, w, le, none⟩

/-- The L3 lines of the directory set of a line: those with the same home die, bank and set (R168). -/
def l3Set (s : State) (ln : Nat) : List (Nat × L3Line) :=
  s.l3.filter (fun e => homeDie s (e.1 * 64) = homeDie s (ln * 64) && homeBank (e.1 * 64) = homeBank (ln * 64)
    && homeSet (e.1 * 64) = homeSet (ln * 64))

/-- The retry of a request with its backoff, which doubles up to 1,024 MeshClk cycles (R171). -/
def retryReq (s : State) (r : CohReq) (bo : Nat) : State :=
  { s with retries := s.retries ++ [⟨r, min 1024 bo⟩] }

/-- The directory block of a line's home. -/
def dirOf (s : State) (ln : Nat) : Blk := dirB (1 + homeDie s (ln * 64))

/-- An L3 line leaves the L3 for a request of master `m`: dirty data goes to memory. -/
def evictL3 (s : State) (m ln : Nat) : State :=
  match mfind s.l3 ln with
  | none => s
  | some e =>
    let s := if e.dirty then meterPool (putMem s ln e.data e.poison) m (ln * 64) true else s
    { s with l3 := mdel s.l3 ln }

/-- Snoops are sent to clusters, and the entry becomes busy with its transaction (R168). -/
def startTxn (s : State) (ln : Nat) (e : L3Line) (t : Txn) (inval : Nat → Bool) : State :=
  { s with l3 := mput s.l3 ln { e with busy := some t }, snps := s.snps ++ t.wait.map (fun c => ⟨c, ln, inval c⟩) }

/-- What the choice of an L3 way comes to (R170, R171): a way now free, a victim that must first leave every L2, or every
usable way busy. -/
inductive L3Way where
  | free (w : Nat)
  | victim (ln : Nat)
  | full
deriving DecidableEq, Repr

/-- The rank of a victim (R170): invalid, Uncached, Shared, Exclusive or Owned. -/
def victimRank (e : L3Line) : Nat :=
  if !e.valid then 0 else match e.dst with
    | .uncached => 1
    | .shared => 2
    | .exclusive | .owned => 3

/-- The bank chooses a way among those the class may use (R170). -/
def pickL3 (s : State) (m ln pclass : Nat) : L3Way × State :=
  let mask := if capEff s 36 then rdF s (l3c (1 + homeDie s (ln * 64))) L3C.WAYS.MASK pclass else 0xFFFF
  let ways := (List.range 16).filter (fun w => bit mask w)
  let set := l3Set s ln
  match ways.find? (fun w => !set.any (fun u => u.2.way = w)) with
  | some w => (.free w, s)
  | none =>
    let cand := set.filter (fun u => ways.contains u.2.way && u.2.busy.isNone)
    let best := (List.range 4).find? (fun k => cand.any (fun u => victimRank u.2 = k))
    match best with
    | none => (.full, s)
    | some k =>
      let kind := cand.filter (fun u => victimRank u.2 = k)
      let (v, s) := draw s
      match kind[v % max 1 kind.length]? with
      | none => (.full, s)
      | some u => if k ≤ 1 then (.free u.2.way, evictL3 s m u.1) else (.victim u.1, s)

/-- The clusters a directory entry names. -/
def named (e : L3Line) : List Nat :=
  match e.dst with
  | .uncached => []
  | .shared => e.vec
  | .exclusive => [e.owner]
  | .owned => sIns e.vec e.owner

/-- A request that finds its entry busy waits in the bank's pending queue of 64, or is retried and counted in PENDFULL
(R172). `on` is the line whose entry it waits for. -/
def enqueue (s : State) (on : Nat) (r : CohReq) (bo : Nat) : State :=
  let same := s.pendq.filter (fun q => homeDie s (q.1 * 64) = homeDie s (on * 64) && homeBank (q.1 * 64) = homeBank (on * 64))
  if same.length < 64 then countEv { s with pendq := s.pendq ++ [(on, r)] } (dirOf s on) 0x15
  else capture (addF (countEv (retryReq s r bo) (dirOf s on) 0x12) (dirOf s on) DIR.PENDFULL.COUNT) (dirOf s on) 1

/-- The home grants a request that needs no further snoop, with the line's data: a read installs E when no other cluster
holds the line and S else, an ownership request installs M, or E for an LR on a clean line (R166); a full-line write of
a streaming hart invalidates every copy and writes the L3 (R136). -/
def grant (s : State) (r : CohReq) (e : L3Line) (d : Line × BitVec 8) (others : List Nat) (owned : Bool) : State :=
  let far := homeDie s (r.line * 64)
  match r.kind with
  | .read =>
    let s := meterPath s r.cl far (r.cl / 18)
    let e' := if owned then { e with busy := none, vec := sIns e.vec r.cl }
      else if others.isEmpty then { e with busy := none, dst := .exclusive, owner := r.cl, vec := [] }
      else { e with busy := none, dst := .shared, owner := 0, vec := sIns others r.cl }
    let s := { s with l3 := mput s.l3 r.line e' }
    installL2 s r.cl r.line (if owned || !others.isEmpty then .s else .e) d e.sec r.pclass
  | .own | .ownLr =>
    let s := meterPath s r.cl far (r.cl / 18)
    let e' := { e with busy := none, dst := .exclusive, owner := r.cl, vec := [] }
    let s := { s with l3 := mput s.l3 r.line e' }
    let clean := decide (r.kind = .ownLr) && decide (d = (e.data, e.poison))
    installL2 s r.cl r.line (if clean then .e else .m) d e.sec r.pclass
  | .fullWrite v =>
    let s := meterPath s r.cl (r.cl / 18) far
    { s with l3 := mput s.l3 r.line { e with busy := none, data := v, poison := 0, valid := true, dirty := true,
                                                  dst := .uncached, vec := [], owner := 0 } }

/-- The request is served under the entry it found (R166, R168): at once, or with snoops to the clusters named. -/
def serveEntry (s : State) (r : CohReq) (e : L3Line) : State :=
  let others := (named e).filter (· ≠ r.cl)
  match r.kind with
  | .read =>
    match e.dst with
    | .uncached => grant s r e (e.data, e.poison) [] false
    | .shared => grant s r e (e.data, e.poison) others false
    | .exclusive | .owned =>
      if e.owner = r.cl then grant s r { e with dst := .uncached } (e.data, e.poison) (others) false
      else startTxn s r.line e { what := .req r, wait := [e.owner] } (fun _ => false)
  | .own | .ownLr | .fullWrite _ =>
    let self := match l2Of s r.cl r.line with
      | some l => (l.data, l.poison)
      | none => (e.data, e.poison)
    let wait := match r.kind with
      | .fullWrite _ => named e
      | .read | .own | .ownLr => others
    if wait.isEmpty then grant s r e self [] false
    else startTxn s r.line e { what := .req r, wait := wait, data := if (l2Of s r.cl r.line).isSome then some self else none }
      (fun _ => true)

/-- An L3 line is allocated for a request and served with memory's data; with every usable way busy it is retried and
counted in SETFULL (R170, R171); a victim held by an L2 is first removed by invalidating snoops, counted in BACKINV. -/
def allocServe (s : State) (r : CohReq) (ecc : EccFind) (bo : Nat) : State :=
  match pickL3 s r.cl r.line r.pclass with
  | (.full, s) => capture (addF (countEv (retryReq s r bo) (dirOf s r.line) 0x11) (dirOf s r.line) DIR.SETFULL.COUNT) (dirOf s r.line) 0
  | (.victim v, s) =>
    match mfind s.l3 v with
    | none => s
    | some ve =>
      let s := countEv (addF s (dirOf s v) DIR.BACKINV.COUNT) (dirOf s v) 0x14
      let s := startTxn s v ve { what := .evict r.cl, wait := named ve } (fun _ => true)
      enqueue s v r bo
  | (.free w, s) =>
    let (d, s) := match r.kind with
      | .fullWrite v => ((v, (0 : BitVec 8)), s)
      | .read | .own | .ownLr => let (d, s) := memFetch s r.line ecc; (d, meterPool s r.cl (r.line * 64) false)
    let (sec, s) := isSecure s (r.line * 64)
    grant s r ⟨d.1, d.2, true, false, .uncached, [], 0, w, r.pclass, sec && r.sec, none⟩ d [] false

/-- A coherent request at its home bank (R163, R168-R172). `bo` is the backoff a retry would take. -/
def homeServe (s : State) (r : CohReq) (ecc : EccFind) (bo : Nat) : State :=
  let (sec, s) := isSecure s (r.line * 64)
  if sec && !r.sec then secEvent s 0 (r.line * 64) { num := r.cl } (decide (r.kind ≠ .read))
  else
    match mfind s.l3 r.line with
    | some e =>
      if e.busy.isSome then enqueue s r.line r bo
      else serveEntry s r e
    | none => allocServe s r ecc bo

/-- A write-back of the line from the cluster is on its way to the home. A request of the cluster for that line does not
overtake it (DEDUCED from R158 and R175, assumption log 76). -/
def wbAhead (s : State) (cl ln : Nat) : Bool := s.wbs.any (fun w => w.cl = cl && w.line = ln && !w.answered)

/-- HOME_REQUEST (R168): a request to a sleeping L3 slice wakes it and waits (R160); any other is served. -/
def execHomeRequest (r : CohReq) (e : EccFind) (s : State) : Res :=
  let d := 1 + homeDie s (r.line * 64)
  if domState s d 0 ≠ 0 then .next (wakeFor s d 0 (some (.homeRequest r e)))
  else if wbAhead s r.cl r.line then .next s
  else .next (homeServe s r e 16)

/-- The end of a transaction: every answer is in (R168, R169). -/
def finishTxn (s : State) (ln : Nat) (e : L3Line) (t : Txn) : State :=
  let d := t.data.getD (e.data, e.poison)
  match t.what with
  | .req r =>
    match r.kind with
    | .read =>
      let owned := t.data.isSome && decide (t.kept ≠ [])
      let e' := if owned then { e with dst := .owned } else e
      grant s r e' d (t.kept.foldl sIns e.vec) owned
    | .own | .ownLr | .fullWrite _ => grant s r e d [] false
  | .io w op =>
    match op with
    | .read =>
      let all := t.kept.foldl sIns e.vec
      let e' := if t.data.isSome && t.kept.contains e.owner then { e with busy := none, dst := .owned }
        else if all.isEmpty then { e with busy := none, dst := .uncached, vec := [], owner := 0 }
        else { e with busy := none, dst := .shared, vec := all, owner := 0 }
      respond { s with l3 := mput s.l3 ln e' } d.1.toNat
    | .full v => { s with l3 := mput s.l3 ln { e with busy := none, data := v, poison := 0, dirty := true, dst := .uncached,
                                                            vec := [], owner := 0, sec := e.sec && w.sec } }
    | .part mask v =>
      { s with l3 := mput s.l3 ln { e with busy := none, data := mergeLine d.1 v mask, poison := mergePoison d.2 mask,
                                                dirty := true, dst := .uncached, vec := [], owner := 0 } }
  | .evict m =>
    let s := match t.data with
      | some d => meterPool (putMem s ln d.1 d.2) m (ln * 64) true
      | none => if e.dirty then meterPool (putMem s ln e.data e.poison) m (ln * 64) true else s
    { s with l3 := mdel s.l3 ln }

/-- IO_REQUEST (R167): an I/O-coherent request at the home bank. It waits while the entry is busy; it recalls the line
from an M or O owner; a write invalidates every L2 copy. A normal access to a secure address reads zeros or is dropped
(R318). A line that the L3 does not hold is read from memory, and a write allocates in the ways of its class. -/
def execIoRequest (m : Master) (line : Nat) (op : IoOp) (pclass : Nat) (s : State) : Res :=
  let w := whoOf s m
  let wr := decide (op ≠ .read)
  if !isMem (zoneOf s (line * 64)) then .next (respond (unmapped s w (line * 64) wr) 0 true)
  else
    let d := 1 + homeDie s (line * 64)
    if domState s d 0 ≠ 0 then .next (wakeFor s d 0 (some (.ioRequest m line op pclass)))
    else
      let (sec, s) := isSecure s (line * 64)
      let s := if wr then meterPath s w.num 4 (homeDie s (line * 64)) else meterPath s w.num (homeDie s (line * 64)) 4
      if sec && !w.sec then .next (respond (secEvent s 0 (line * 64) w wr) 0)
      else match mfind s.l3 line with
        | some e =>
          if e.busy.isSome then .next s
          else match op with
            | .read =>
              match e.dst with
              | .exclusive | .owned =>
                .next (startTxn s line e { what := .io w op, wait := [e.owner] } (fun _ => false))
              | .uncached | .shared => .next (respond s e.data.toNat)
            | .full _ | .part _ _ =>
              if (named e).isEmpty then .next (finishTxn s line e { what := .io w op, wait := [] })
              else .next (startTxn s line e { what := .io w op, wait := named e } (fun _ => true))
        | none =>
          match op with
          | .read => .next (respond (meterPool s w.num (line * 64) false) (memLine s line).1.toNat)
          | .full v =>
            match pickL3 s w.num line pclass with
            | (.free wy, s) => .next { s with l3 := mput s.l3 line ⟨v, 0, true, true, .uncached, [], 0, wy, pclass, sec && w.sec, none⟩ }
            | (_, s) => .next (meterPool (putMem s line v 0) w.num (line * 64) true)
          | .part mask v =>
            let (o, p) := memLine s line
            match pickL3 s w.num line pclass with
            | (.free wy, s) => .next { s with l3 := mput s.l3 line ⟨mergeLine o v mask, mergePoison p mask, true, true, .uncached,
                                                                     [], 0, wy, pclass, sec && w.sec, none⟩ }
            | (_, s) => .next (meterPool (putMem s line (mergeLine o v mask) (mergePoison p mask)) w.num (line * 64) true)

/-- A snoop is honoured by a cluster that holds the line (R166). -/
def honour (s : State) (cl ln : Nat) (inval : Bool) : State :=
  match l2Of s cl ln with
  | none => { s with rsps := s.rsps ++ [⟨cl, ln, false, none⟩] }
  | some l =>
    let data := match l.st with
      | .m | .o => some (l.data, l.poison)
      | .e | .s => none
    let s := if inval then dropL2 s cl ln
      else match l.st with
        | .m => setL2 s cl ln { l with st := .o, held := none, latchEnd := 0 }
        | .e => setL2 s cl ln { l with st := .s, held := none, latchEnd := 0 }
        | .o | .s => s
    { s with rsps := s.rsps ++ [⟨cl, ln, true, data⟩] }

/-- SNOOP (R166, R173, R175): a snoop to a line that would end its write permission inside its latch window is held; a
snoop that meets the cluster's write-back in flight is answered from the write-back buffer, and the home ignores the
write-back; any other is honoured at once. -/
def execSnoop (cl line : Nat) (s : State) : Res :=
  match s.snps.find? (fun p => p.cl = cl && p.line = line) with
  | none => .next s
  | some p =>
    let s := countEv { s with snps := s.snps.erase p } (hcl (clDie cl) (clInst cl)) 0x13
    match s.wbs.find? (fun w => w.cl = cl && w.line = line && !w.answered) with
    | some w =>
      .next { s with wbs := (s.wbs.erase w) ++ [{ w with answered := true }],
                     rsps := s.rsps ++ [⟨cl, line, false, some (w.data, w.poison)⟩] }
    | none =>
      match l2Of s cl line with
      | some l =>
        let ends := match l.st with
          | .m | .e => true
          | .o | .s => false
        if ends && decide (2 * s.gtime < l.latchEnd) then .next (countEv (setL2 s cl line { l with held := some p.inval }) (hcl (clDie cl) (clInst cl)) 0x14)
        else .next (honour s cl line p.inval)
      | none => .next (honour s cl line p.inval)

/-- LATCH_WINDOW_END (R173): GTIME reaches the end of the line's latch window and the held snoop is honoured. -/
def execLatchWindowEnd (cl line : Nat) (s : State) : Res :=
  match l2Of s cl line with
  | none => .next s
  | some l =>
    let s := runTo s ((l.latchEnd + 1) / 2)
    match l.held with
    | none => .next s
    | some inval => .next (honour (setL2 s cl line { l with held := none }) cl line inval)

/-- SNOOP_RESPONSE (R169): the home takes one answer. "Not present" clears the cluster's bit or takes an Exclusive entry
to Uncached and is counted in STALE_SNP; data an owner supplies serve the transaction, and the last answer ends it. -/
def execSnoopResponse (cl line : Nat) (s : State) : Res :=
  match s.rsps.find? (fun p => p.cl = cl && p.line = line) with
  | none => .next s
  | some p =>
    let s := { s with rsps := s.rsps.erase p }
    match mfind s.l3 line with
    | none => .next s
    | some e =>
      match e.busy with
      | none => .next s
      | some t =>
        let stale := !p.present && p.data.isNone
        let s := if stale then countEv (addF s (dirOf s line) DIR.STALE_SNP.COUNT) (dirOf s line) 0x13 else s
        let stays := p.present && (l2Of s cl line).isSome
        let e := if stays then e else
          { e with vec := sDel e.vec cl,
                   dst := (match e.dst with
                     | .exclusive => if e.owner = cl then .uncached else .exclusive
                     | .owned => if e.owner = cl then .shared else .owned
                     | .uncached => .uncached
                     | .shared => .shared) }
        let e := if p.data.isSome && !stays then
            { e with data := (p.data.getD (e.data, e.poison)).1, poison := (p.data.getD (e.data, e.poison)).2, dirty := true }
          else e
        let t' : Txn := { t with wait := sDel t.wait cl, data := if p.data.isSome then p.data else t.data,
                                 kept := if stays then sIns t.kept cl else t.kept }
        if t'.wait.isEmpty then .next (finishTxn s line e t')
        else .next { s with l3 := mput s.l3 line { e with busy := some t' } }

/-- RETRY_BACKOFF_EXPIRE (R171): the requester resends; a further retry takes twice the backoff. -/
def execRetryBackoffExpire (cl line : Nat) (e : EccFind) (s : State) : Res :=
  match s.retries.find? (fun r => r.req.cl = cl && r.req.line = line) with
  | none => .next s
  | some r => if wbAhead s cl line then .next s else .next (homeServe { s with retries := s.retries.erase r } r.req e (2 * r.backoff))

/-- PENDING_SERVE (R172): the entry of `line` is free and the oldest request waiting for it is served. -/
def execPendingServe (line : Nat) (e : EccFind) (s : State) : Res :=
  let free := match mfind s.l3 line with
    | some x => x.busy.isNone
    | none => true
  match s.pendq.find? (fun q => q.1 = line) with
  | none => .next s
  | some q => if free && !wbAhead s q.2.cl q.2.line then .next (homeServe { s with pendq := s.pendq.erase q } q.2 e 16) else .next s

/-- WRITE_BACK (R166, R175, R318): the oldest write-back of the line from the cluster reaches the home. One already
answered from the buffer is ignored; a dirty unmarked line whose address has become secure is dropped with a KIND 1
event; any other is written to the L3, or to memory where the L3 does not hold the line. -/
def execWriteBack (cl line : Nat) (s : State) : Res :=
  match s.wbs.find? (fun w => w.cl = cl && w.line = line) with
  | none => .next s
  | some w =>
    let s := { s with wbs := s.wbs.erase w }
    let s := meterPath s cl (cl / 18) (homeDie s (line * 64))
    if w.answered then .next s
    else
      let (sec, s) := isSecure s (line * 64)
      if sec && !w.sec then .next (secEvent s 1 (line * 64) { num := cl } true)
      else match mfind s.l3 line with
        | none => .next (meterPool (putMem s line w.data w.poison) cl (line * 64) true)
        | some e =>
          let vec := sDel e.vec cl
          .next { s with l3 := mput s.l3 line { e with data := w.data, poison := w.poison, valid := true, dirty := true,
                                                          vec := vec, owner := 0,
                                                          dst := if vec.isEmpty then .uncached else .shared } }

/-- DIR_PROBE_GO (R168): a write of PROBE_CTRL.GO = 1 by a machine-level master clears DONE and starts, or restarts, a
probe. `dirProbe` of the die remembers the world of the write. -/
def dirProbeGo (s : State) (w : Who) (d : Nat) : State :=
  let b := dirB d
  if !present s b then s else if !w.mach then s
  else
    let s := wrF s b DIR.PROBE_CTRL.DONE 0
    { s with probes := mput s.probes d w }

/-- DIR_PROBE_DONE (R168): the probe reads the entry once it is not busy, sets DONE and captures PROBE_DONE. A line not
homed on the die sets NOT_HOME; a normal-world probe of a secure region sets DENIED; the result fields then read 0. -/
def execDirProbeDone (d : Nat) (s : State) : Res :=
  let b := dirB d
  match mfind s.probes d with
  | none => .next s
  | some w =>
    let a := rdF s b DIR.PROBE_LO.ADDR * 64 + rdF s b DIR.PROBE_HI.ADDR * 2 ^ 32
    let ln := a / 64
    let busy := match mfind s.l3 ln with
      | some e => e.busy.isSome
      | none => false
    if busy then .next s
    else
      let (sec, s) := isSecure s a
      let notHome := decide (1 + homeDie s a ≠ d)
      let denied := !notHome && sec && !w.sec
      let e := if notHome || denied then none else mfind s.l3 ln
      let s := { s with probes := mdel s.probes d }
      let s := wrF s b DIR.PROBE_CTRL.NOT_HOME (b2n notHome)
      let s := wrF s b DIR.PROBE_CTRL.DENIED (b2n denied)
      let s := wrF s b DIR.PROBE_STATE.L3_VALID (match e with
        | some x => b2n x.valid
        | none => 0)
      let s := wrF s b DIR.PROBE_STATE.L3_DIRTY (match e with
        | some x => b2n x.dirty
        | none => 0)
      let s := wrF s b DIR.PROBE_STATE.STATE (match e with
        | some x => (match x.dst with
          | .uncached => 0
          | .shared => 1
          | .exclusive => 2
          | .owned => 3)
        | none => 0)
      let s := wrF s b DIR.PROBE_STATE.OWNER (match e with
        | some x => x.owner
        | none => 0)
      let s := wrF s b DIR.PROBE_STATE.WAY (match e with
        | some x => x.way
        | none => 0)
      let vec := match e with
        | some x => x.vec.foldl (fun a c => a + 2 ^ c) 0
        | none => 0
      let s := wrF s b DIR.PROBE_SHR.VEC vec 0
      let s := wrF s b DIR.PROBE_SHR.VEC (vec / 2 ^ 32) 1
      let s := wrF s b DIR.PROBE_SHR.VEC (vec / 2 ^ 64) 2
      let s := wrF s b DIR.PROBE_CTRL.DONE 1
      .next (capture s b 4)

/-- Every L2 copy of a line is written back to main memory; with `keep` the copies stay valid and become clean, without
they are invalidated; without `wb` nothing is written (R145). -/
def cacheOp (s : State) (ln : Nat) (wb keep : Bool) : State :=
  let (d, p) := curLine s ln
  let s : State := if wb then
      let s := putMem s ln d p
      match mfind s.l3 ln with
      | some e => { s with l3 := mput s.l3 ln { e with data := d, poison := p, dirty := false } }
      | none => s
    else s
  if keep then
    let s := { s with l2 := s.l2.map (fun (e : Nat × L2Line) => if e.1 / 128 = ln then
        (e.1, { e.2 with st := (match e.2.st with
          | .m => .e
          | .o => .s
          | .e => .e
          | .s => .s) }) else e) }
    { s with harts := s.harts.map (fun (e : Nat × Hart) => (e.1, { e.2 with
        l1d := e.2.l1d.map (fun c => if c.line = ln then { c with dirty := false } else c),
        vc := e.2.vc.map (fun c => if c.line = ln then { c with dirty := false } else c) })) }
  else
    let s := dropAll s ln
    match mfind s.l3 ln with
    | some e => if e.busy.isSome then s else { s with l3 := mdel s.l3 ln }
    | none => s

/-- A cluster's L2 is cleaned before retention (R161): every M line is written back and becomes E, every O line is
written back and becomes S. -/
def cleanCluster (s : State) (cl : Nat) : State :=
  (s.l2.filter (fun e => e.1 % 128 = cl)).foldl (fun (s : State) (e : Nat × L2Line) =>
    let ln := e.1 / 128
    match e.2.st with
    | .m | .o =>
      let s := match mfind s.l3 ln with
        | some x => { s with l3 := mput s.l3 ln { x with data := e.2.data, poison := e.2.poison, valid := true, dirty := true } }
        | none => putMem s ln e.2.data e.2.poison
      setL2 s cl ln { e.2 with st := (match e.2.st with
        | .m => .e
        | .o => .s
        | .e => .e
        | .s => .s) }
    | .e | .s => s) s

/-- A cluster's L2 is flushed: cleaned, then every line invalidated (R147, R143). -/
def flushCluster (s : State) (cl : Nat) : State :=
  let s := cleanCluster s cl
  (s.l2.filter (fun e => e.1 % 128 = cl)).foldl (fun (s : State) (e : Nat × L2Line) => dropL2 s cl (e.1 / 128)) s

/-- The directory of a base die is drained (R176): every line homed on it leaves every L2 with its data, and every dirty
L3 line is written to memory. -/
def drainHome (s : State) (h : Nat) : State :=
  (s.l3.filter (fun e => homeDie s (e.1 * 64) = h)).foldl (fun (s : State) (e : Nat × L3Line) =>
    let (d, p) := curLine s e.1
    let s := putMem s e.1 d p
    let s := dropAll s e.1
    { s with l3 := mdel s.l3 e.1 }) s

end Sys2Proof.Machine
end

