-- ==== Sys2Proof/Machine/HartCtl.lean ====
section
/-! DEFINITION. What is done to a hart from outside at an instruction boundary: park, reset, gating of its cluster, halt,
with the rules of worlds (R76, R323, R324, R326, R384), and the answers of the Warden mailbox (R398, R399). -/
namespace Sys2Proof.Machine
open Sys2Proof

/-- The status registers of mailbox channel `c`. -/
def chBusyF (c : Nat) : Field := match c with
  | 0 => WDN.CH_STAT0.BUSY
  | 1 => WDN.CH_STAT1.BUSY
  | _ => WDN.CH_STAT2.BUSY
def chTagF (c : Nat) : Field := match c with
  | 0 => WDN.CH_STAT0.TAG
  | 1 => WDN.CH_STAT1.TAG
  | _ => WDN.CH_STAT2.TAG
def chStatF (c : Nat) : Field := match c with
  | 0 => WDN.CH_STAT0.STATUS
  | 1 => WDN.CH_STAT1.STATUS
  | _ => WDN.CH_STAT2.STATUS
def chArgF (c : Nat) : Field := match c with
  | 0 => WDN.CH_ARG0.DATA
  | 1 => WDN.CH_ARG1.DATA
  | _ => WDN.CH_ARG2.DATA
def chRspF (c : Nat) : Field := match c with
  | 0 => WDN.CH_RSP0.DATA
  | 1 => WDN.CH_RSP1.DATA
  | _ => WDN.CH_RSP2.DATA

def chanOfW (s : State) (c : Nat) : Chan := mget {} s.wd.chans c
def setChan (s : State) (c : Nat) (x : Chan) : State := { s with wd := { s.wd with chans := mput s.wd.chans c x } }

/-- Byte `n`, and the little-endian number in bytes `n` to `n + k - 1`, of a channel's argument buffer (R400). -/
def argByte (s : State) (c n : Nat) : Nat := rdF s wdn (chArgF c) (n / 4) / 2 ^ (8 * (n % 4)) % 256
def argNum (s : State) (c n : Nat) : Nat → Nat
  | 0 => 0
  | k + 1 => argByte s c n + 256 * argNum s c (n + 1) k

/-- The result buffer takes words from word `n` on. -/
def putRsp (s : State) (c n : Nat) : List Nat → State
  | [] => s
  | v :: r => putRsp (wrF s wdn (chRspF c) v n) c (n + 1) r

/-- A command reaches its final status (R398, R399): BUSY clears and DONE_c is captured. -/
def answer (s : State) (c st : Nat) : State :=
  let s := wrF s wdn (chBusyF c) 0
  let s := wrF s wdn (chStatF c) st
  let s := setChan s c { chanOfW s c with code := 0, names := [], arg := 0 }
  capture s wdn c

/-- A command cannot finish at once: PENDING. -/
def pendCmd (s : State) (c : Nat) : State := wrF (wrF s wdn (chBusyF c) 1) wdn (chStatF c) 2

def stAccepted : Nat := 1
def stDenied : Nat := 3
def stBusy : Nat := 4
def stUnsupported : Nat := 5
def stInvalid : Nat := 6
def stRefused : Nat := 7
def stFailed : Nat := 8

/-- Commands in progress with a code reach a final status. -/
def endCode (s : State) (code st : Nat) : State :=
  (List.range 3).foldl (fun (s : State) c => if (chanOfW s c).code = code then answer s c st else s) s

/-- The HCL block of a hart's cluster. -/
def hartHcl (s : State) (h : Nat) : Blk := hcl (coreDie (hartOf s h).core) (coreInst (hartOf s h).core)

/-- The hart is between instructions. -/
def atBoundary (x : Hart) : Bool := x.cur.isNone && x.trapWait.isNone && !x.syncing && x.run ≠ .swapping

/-- The hart is parked; what it waited for ends. -/
def parkHart (s : State) (h : Nat) : State := voidHart (setHart s h { hartOf s h with run := .parked }) h

/-- A hart reset starts (R75): the hart stops, and HART_RESET_DONE ends it. Requests that meet are served by one (R76). -/
def startReset (s : State) (h : Nat) (chs : List Nat) : State :=
  let s := voidHart s h
  let x := hartOf s h
  setHart s h { x with run := .parked, cur := none, walk := none, miss := none, ioTag := none, trapWait := none, syncing := false,
                       rst := some ((x.rst.getD []) ++ chs) }

/-- A domain starts on its way to a state (R384): DOM_CTRL shows pending until DOMAIN_STATE_REACHED. -/
def domGo (s : State) (d n goal : Nat) : State :=
  let s := wrF s (pwr d) PWR.DOM_CTRL.STATUS 2 n
  { s with doms := mput s.doms (domKey d n) { mget {} s.doms (domKey d n) with goal := some goal } }

/-- One deferred request takes effect, or is refused DENIED with a secure event while its HCL block is secure-held
(R324). -/
def applyOne (s : State) (h : Nat) (r : Deferred) : State :=
  let b := hartHcl s h
  let deny := fun (w : Who) => !w.sec && secHeld s b
  match r with
  | .park c w => if deny w then answer (secEvent s 3 (basePage b) w true) c stDenied else answer (parkHart s h) c stAccepted
  | .reset c w => if deny w then answer (secEvent s 3 (basePage b) w true) c stDenied else startReset s h [c]
  | .gate n req w =>
    if deny w then wrF (secEvent s 2 (basePage b) w true) (pwr b.die) PWR.DOM_CTRL.STATUS 3 n else domGo s b.die n req

def deferredWho (r : Deferred) : Who :=
  match r with
  | .park _ w | .reset _ w | .gate _ _ w => w

/-- The deferred requests of a hart that may take effect at this boundary do so (R324): a normal one only outside the
secure world. -/
def applyDeferred (s : State) (h : Nat) : State :=
  let x := hartOf s h
  let go := x.deferred.filter (fun r => (deferredWho r).sec || !secureHart x)
  let s := setHart s h { x with deferred := x.deferred.filter (fun r => !((deferredWho r).sec || !secureHart x)) }
  go.foldl (fun s r => applyOne s h r) s

/-- SECURE_HOLD of an HCL block becomes 1: the normal requests deferred for its harts are refused (R324). -/
def denyDeferred (s : State) (b : Blk) : State :=
  s.harts.foldl (fun (s : State) (e : Nat × Hart) =>
    if hartHcl s e.1 = b then
      let x := hartOf s e.1
      let out := x.deferred.filter (fun r => !(deferredWho r).sec)
      let s := setHart s e.1 { x with deferred := x.deferred.filter (fun r => (deferredWho r).sec) }
      out.foldl (fun s r => applyOne s e.1 r) s
    else s) s

/-- The hart passes an instruction boundary: deferred requests take effect (R324), then a pending halt request takes hold
where the invasive enable of its world is in effect (R326) and a single step ends. -/
def boundary (s : State) (h : Nat) : State :=
  if !atBoundary (hartOf s h) then s
  else
    let s := if (hartOf s h).deferred.isEmpty then s else applyDeferred s h
    let x := hartOf s h
    if x.stepping && invasiveOn s x then setHart s h { haltHart x 4 with stepping := false }
    else if x.haltReq && (x.run = .running || x.run = .wfi || x.run = .scanWait) && invasiveOn s x then setHart s h (haltHart x 3) else s

/-- A park or reset of a hart is asked for (R76, R323, R324): refused for a secure-held HCL block, deferred while the hart
is secure or within an instruction, else carried out. -/
def askHart (s : State) (h : Nat) (r : Deferred) (c : Nat) : State :=
  let x := hartOf s h
  let w := deferredWho r
  if !w.sec && secHeld s (hartHcl s h) then answer (secEvent s 3 (basePage (hartHcl s h)) w true) c stDenied
  else if (x.run ≠ .parked && !w.sec && secureHart x) || !atBoundary x then
    pendCmd (setHart s h { x with deferred := x.deferred ++ [r] }) c
  else applyOne s h r

end Sys2Proof.Machine
end

