-- ==== Sys2Proof/Machine/Regs.lean ====
section
/-! DEFINITION. What a commit point does with the shadow of a block (R58). The register port itself stands in
Machine/Port.lean. -/
namespace Sys2Proof.Machine
open Sys2Proof

/-- An armed commit is resolved (R58): refused with a reason, or applied, every shadowed field taking its shadow
value. -/
def resolve (s : State) (b : Blk) (reason : Nat) : State :=
  let h := hdrOf s b
  let s := if reason = 0 then
      { s with fields := (s.shadow.filter (fun e => keyInBlock b e.1)).foldl (fun m e => mput m e.1 e.2.val) s.fields,
               shadow := mdrop s.shadow (keyInBlock b) }
    else s
  let s := setHdr s b { h with arm := false, applied := reason = 0, refused := reason ≠ 0, reason := reason, cseq := h.cseq + 1 }
  capture s b 23

end Sys2Proof.Machine
end

