-- ==== Sys2Proof/Machine/Bwr.lean ====
section
/-! DEFINITION. The bandwidth regulator and the L3 partitions (chapter "Bandwidth Regulation and Cache Partitioning"):
capacities, effective guarantees, the meters, and the checks of a BWR and an L3C commit. Scheduling between requests has
no order of its own here: commands come one at a time (assumption log 10). -/
namespace Sys2Proof.Machine
open Sys2Proof

/-- The bank of the guarantee of master `m` on resource `r`. -/
def gBank (m r : Nat) : Nat := 1 + m * 32 + r

/-- The DDR5 channels in use. -/
def ddrChans (s : State) : Nat := if rdF s hub HUB.MEM_CFG.DDR_EN = 1 then 2 ^ rdF s hub HUB.MEM_CFG.DDR_CH else 0

/-- The full peak of a resource in 64-byte units per window (R226). -/
def fullPeak (s : State) (r : Nat) : Nat :=
  if r = 0 then (if capEff s 35 then 196608 else 163840)
  else if r = 1 then 1024 * ddrChans s
  else if r < 22 then 40960
  else if r < 24 then 145
  else if r < 28 then 2560
  else 0

/-- The far end of Hinge instance `i` of die `d` (R40, R180): hub instances 0-3 lead to base dies 1-4. -/
def farEnd (d i : Nat) : Nat × Nat :=
  if d = 0 then (i + 1, 3)
  else
    let a := d - 1
    let b := peerOf a i
    if b = 4 then (0, a) else (1 + b, if a < b then a else a - 1)

/-- The width of a Hinge now (R183, R189): its agreed width, less one during a recalibration; 0 while it is not up. -/
def hingeWidth (s : State) (b : Blk) : Nat :=
  let (d, i) := farEnd b.die (instOf b)
  if rdF s b HNG.TRAIN_STAT.STATE = 2 then
    rdF s b HNG.TRAIN_STAT.WIDTH - max (rdF s b HNG.RECAL.BUSY) (rdF s (hng d i) HNG.RECAL.BUSY)
  else 0

/-- The stacks in service whose resynchronisation is complete. -/
def goodStacks (s : State) : Nat :=
  ((List.range 8).filter (fun k => stackUp s k && rdF s (mch k) MCH.RESYNC.BUSY = 0)).length

/-- The parts of a resource available now, out of `full` (R234). -/
def availOf (s : State) (r : Nat) : Nat × Nat :=
  if r = 0 then (goodStacks s, 8)
  else if r = 1 then (1, 1)
  else if r < 10 then (hingeWidth s (hng 0 ((r - 2) / 2)), 8)
  else if r < 22 then let (lo, hi) := peerPair ((r - 10) / 2); (hingeWidth s (hng (1 + lo) (hi - 1)), 8)
  else if r < 24 then (b2n (barUp s), 1)
  else if r < 28 then (b2n (rdF s (ylk (r - 24)) YLK.PORT_STAT.STATE = 2), 1)
  else (0, 1)

/-- The effective capacity for a configured capacity (R234). -/
def effCapOf (s : State) (r cap : Nat) : Nat := let (a, f) := availOf s r; cap * a / f

/-- The sum of the guarantees on a resource, in the active settings or in the shadow. -/
def guarSum (s : State) (r : Nat) (shadow : Bool) : Nat :=
  (List.range 128).foldl (fun a m =>
    a + if shadow then shF s bwr BWR.G_VAL.GUAR 0 (gBank m r) else rdF s bwr BWR.G_VAL.GUAR 0 (gBank m r)) 0

/-- The effective guarantee of a master on a resource (R234). -/
def effGuar (s : State) (m r : Nat) : Nat :=
  let g := rdF s bwr BWR.G_VAL.GUAR 0 (gBank m r)
  if rdF s bwr BWR.RES_STAT.SCALED r = 1 then g * rdF s bwr BWR.RES_STAT.EFF_CAP r / max 1 (mget 1 s.bw.sum r) else g

/-- A resource is evaluated once against its effective capacity (R234, R407). -/
def bwEval (s : State) (r : Nat) : State :=
  let cap := effCapOf s r (rdF s bwr BWR.CAPACITY.CAP r)
  let sum := guarSum s r false
  let was := rdF s bwr BWR.RES_STAT.SCALED r = 1
  let s := wrF s bwr BWR.RES_STAT.EFF_CAP cap r
  if cap < sum then
    let s := { wrF s bwr BWR.RES_STAT.SCALED 1 r with bw := { s.bw with sum := mput s.bw.sum r sum } }
    logRec (capture s bwr 0) 0x40 0 0 ([r, 0, 0, 0] ++ leBytes cap 4)
  else
    let s := { wrF s bwr BWR.RES_STAT.SCALED 0 r with bw := { s.bw with sum := mdel s.bw.sum r } }
    if was then capture s bwr 1 else s

/-- A commit of the BWR shadow changes a resource. -/
def bwChanged (s : State) (r : Nat) : Bool :=
  shF s bwr BWR.CAPACITY.CAP r ≠ rdF s bwr BWR.CAPACITY.CAP r ||
  (List.range 128).any (fun m => shF s bwr BWR.G_VAL.GUAR 0 (gBank m r) ≠ rdF s bwr BWR.G_VAL.GUAR 0 (gBank m r))

/-- The checks of a BWR commit (R233): the reason of refusal, 0 for none, with the failing resource and sum of an
ADMISSION refusal. -/
def bwrCheck (s : State) : Nat × Nat × Nat :=
  let rs := List.range 32
  let range := rs.any (fun r => fullPeak s r < shF s bwr BWR.CAPACITY.CAP r)
    || rs.any (fun r => (List.range 128).any (fun m => (88 ≤ m || 28 ≤ r) && shF s bwr BWR.G_VAL.GUAR 0 (gBank m r) ≠ 0))
    || (List.range 128).any (fun m => shF s bwr BWR.MCFG.SHARE m = 0)
  let order := (List.range 6).any (fun k =>
    shF s bwr BWR.URG_CFG.T2 k < shF s bwr BWR.URG_CFG.T1 k || shF s bwr BWR.URG_CFG.T3 k < shF s bwr BWR.URG_CFG.T2 k)
  if range then (1, 0, 0)
  else if order then (2, 0, 0)
  else match rs.find? (fun r => bwChanged s r && effCapOf s r (shF s bwr BWR.CAPACITY.CAP r) < guarSum s r true) with
    | some r => (3, r, guarSum s r true)
    | none => (0, 0, 0)

/-- The outcome of the BWR commit resolves ADM_RES and ADM_SUM; the resources it changed are evaluated at once (R236). -/
def bwrCommit (s : State) (ovr : Option Nat) : State :=
  let (c, r, sum) := bwrCheck s
  let c := ovr.getD c
  let ch := (List.range 32).filter (bwChanged s)
  let s := wrF s bwr BWR.ADM_RES.VALID (b2n (c = 3))
  let s := if c = 3 then wrF (wrF s bwr BWR.ADM_RES.RES r) bwr BWR.ADM_SUM.SUM sum else s
  let s := resolve s bwr c
  if c = 0 then ch.foldl bwEval s else s

/-- The check of an L3C commit (R238): a zero mask is out of range. -/
def l3cCheck (s : State) (b : Blk) : Nat := if (List.range 16).any (fun c => shF s b L3C.WAYS.MASK c = 0) then 1 else 0

/-- The lines on a base die last allocated by a class (L3C.OCC). -/
def l3Occ (s : State) (d c : Nat) : Nat :=
  (s.l3.filter (fun e => e.2.valid && e.2.pclass = c && decide (1 + homeDie s (e.1 * 64) = d))).length

/-- The partition class a request is carried with (R193, R237). -/
def pclassOf (s : State) (c : Nat) : Nat := if capEff s 8 then c % 16 else c % 4

/-- The meters of a window end (R228): the monitored pair's units and demotion become readable, every meter is cleared. A
pair counts as demoted when it was served beyond its effective guarantee. -/
def windowMeters (s : State) : State :=
  let m := rdF s bwr BWR.MON_SEL.MASTER
  let r := rdF s bwr BWR.MON_SEL.RES
  let u := mget 0 s.bw.meter (m * 32 + r)
  let d := decide (effGuar s m r < u)
  let s := wrF s bwr BWR.MON_USED.UNITS (min u 0xFFFFF)
  let s := wrF s bwr BWR.MON_USED.DEMOTED (b2n d)
  let s := if d then addF s bwr BWR.MON_DEMOTE.COUNT else s
  { s with bw := { s.bw with meter := [] } }

/-- A write of MON_SEL (offset 0x500): monitoring restarts and MON_DEMOTE clears. -/
def monSel (s : State) (m r : Nat) : State :=
  let s := wrF (wrF s bwr BWR.MON_SEL.MASTER m) bwr BWR.MON_SEL.RES r
  wrF (wrF (wrF s bwr BWR.MON_DEMOTE.COUNT 0) bwr BWR.MON_USED.UNITS 0) bwr BWR.MON_USED.DEMOTED 0

end Sys2Proof.Machine
end

