-- ==== Sys2Proof/Machine/Spl.lean ====
section
/-! DEFINITION. The Signal Plane (chapter "Signal Plane and Views"): slots and descriptors, the flip of a segment, view
windows, scan-synchronous DMA with its dirty log, generations and the checks of an SPL commit. -/
namespace Sys2Proof.Machine
open Sys2Proof

/-- The field EN_j or CLASS_j of SCN.SEG_CLASS for a segment. -/
def segEnF (j : Nat) : Field := { SCN.SEG_CLASS.EN_0 with hi := 4 * j + 3, lo := 4 * j + 3 }
def segClF (j : Nat) : Field := { SCN.SEG_CLASS.CLASS_0 with hi := 4 * j + 2, lo := 4 * j }
/-- The class a segment is assigned to (R242), in the active settings. -/
def segClass (s : State) (seg : Nat) : Option Nat :=
  if rdF s scn (segEnF (seg % 8)) (seg / 8) = 1 then some (rdF s scn (segClF (seg % 8)) (seg / 8)) else none
/-- The same in the shadow. -/
def segClassSh (s : State) (seg : Nat) : Option Nat :=
  if shF s scn (segEnF (seg % 8)) (seg / 8) = 1 then some (shF s scn (segClF (seg % 8)) (seg / 8)) else none
/-- The segments of a class. -/
def segsOf (s : State) (c : Nat) : List Nat := (List.range 512).filter (fun g => segClass s g = some c)

/-- The image of a pair that is current for a segment (SEG_SEL_IN, SEG_SEL_OUT). -/
def selOf (s : State) (out : Bool) (seg : Nat) : Nat :=
  let f := if out then SPL.SEG_SEL_OUT.SEL else SPL.SEG_SEL_IN.SEL
  bits (rdF s spl f (seg / 32)) (seg % 32) (seg % 32)
/-- Array offsets of a signal's current and pending slots, of its safe and force slots and its descriptor (R268). -/
def curOff (s : State) (out : Bool) (i : Nat) : Nat := (if out then 0x200000 else 0) + selOf s out (i / 1024) * 0x100000 + 2 * i
def pendOff (s : State) (out : Bool) (i : Nat) : Nat := (if out then 0x200000 else 0) + (1 - selOf s out (i / 1024)) * 0x100000 + 2 * i
def safeOff (i : Nat) : Nat := 0x400000 + 2 * i
def forceOff (i : Nat) : Nat := 0x500000 + 2 * i
def descOff (i : Nat) : Nat := 0x600000 + 2 * i

/-- A slot of the array, and whether a byte of it is uncorrectable. -/
def slotAt (s : State) (off : Nat) : Nat := readBytes s.spl.arr off 2
def slotBad (s : State) (off : Nat) : Bool := s.spl.bad.contains off || s.spl.bad.contains (off + 1)
/-- A slot written whole: an uncorrectable byte in it becomes good (R269); `bad` writes one that carries an error on. -/
def putSlot (s : State) (off v : Nat) (bad : Bool := false) : State :=
  let b := sDel (sDel s.spl.bad off) (off + 1)
  { s with spl := { s.spl with arr := writeBytes s.spl.arr off 2 v, bad := if bad then sIns b off else b } }

/-- The descriptor in effect, and the one that will be in effect at the segment's next flip (R267). -/
def descOf (s : State) (i : Nat) : Nat := slotAt s (descOff i)
def descNext (s : State) (i : Nat) : Nat := ((s.spl.dq.filter (fun e => e.1 = i)).getLast?.map (·.2)).getD (descOf s i)

def toSigned12 (v : Nat) : Int := if v < 2048 then (v : Int) else (v : Int) - 4096
/-- The LIMIT bit (R266) of a slot with VALID and SAMPLE as in `v`, under descriptor `d`. Profile 0 checks nothing. -/
def limitOf (s : State) (d v : Nat) : Bool :=
  let p := d % 4096
  let lo := rdF s spl SPL.LIM_DATA.LO 0 (1 + p)
  let hi := rdF s spl SPL.LIM_DATA.HI 0 (1 + p)
  let x := v % 4096
  bit v 15 && p ≠ 0 && (match bits d 15 14 with
    | 0 => decide (x < lo) || decide (hi < x)
    | 1 => decide (toSigned12 x < toSigned12 lo) || decide (toSigned12 hi < toSigned12 x)
    | _ => false)
/-- A slot with VALID and SAMPLE of `v` and the marks given (R265). -/
def mkSlot (s : State) (d v : Nat) (stale forced : Bool) : Nat :=
  bits v 15 15 * 2 ^ 15 + b2n stale * 2 ^ 14 + b2n forced * 2 ^ 13 + b2n (limitOf s d v) * 2 ^ 12 + v % 4096

/-- What an output slot changed after its class's pre-send needs: its line is sent again (R298). -/
def markLine (s : State) (i : Nat) : State :=
  match segClass s (i / 1024) with
  | some c =>
    if s.bar.presend.contains c then
      { s with bar := { s.bar with marked := mput s.bar.marked c (sIns (mget [] s.bar.marked c) (i / 32)) } }
    else s
  | none => s

/-- A pending slot is written (R269) and its refresh bit set. -/
def putPend (s : State) (out : Bool) (i v : Nat) (stale : Bool) (bad : Bool := false) : State :=
  let s := putSlot s (pendOff s out i) (mkSlot s (descOf s i) v stale false) bad
  let s := { s with spl := if out then { s.spl with refOut := sIns s.spl.refOut i } else { s.spl with refIn := sIns s.spl.refIn i } }
  if out then markLine s i else s

/-- What a flip under descriptor `d` gives the current slot (R270), and whether it carries an uncorrectable byte on. -/
def flipVal (s : State) (out : Bool) (d i : Nat) : Nat × Bool :=
  if bit d 13 then (mkSlot s d (slotAt s (forceOff i)) false true, slotBad s (forceOff i))
  else if (if out then s.spl.refOut else s.spl.refIn).contains i then (slotAt s (pendOff s out i), slotBad s (pendOff s out i))
  else
    let v := slotAt s (curOff s out i)
    (v % 0x2000 + bits v 15 15 * 2 ^ 15 + 2 ^ 14, slotBad s (curOff s out i))

/-- The queued descriptors of the signals that `p` holds of take effect, in the order written (R267). -/
def applyDesc (s : State) (p : Nat → Bool) : State :=
  let go := s.spl.dq.filter (fun e => p e.1)
  let s := { s with spl := { s.spl with dq := s.spl.dq.filter (fun e => !p e.1) } }
  go.foldl (fun s e => putSlot s (descOff e.1) e.2) s

/-- One pair of images of a segment flips (R248, R270). -/
def flipSeg (s : State) (out : Bool) (seg : Nat) : State :=
  let sigs := (List.range 1024).map (fun j => seg * 1024 + j)
  let s := sigs.foldl (fun (s : State) i =>
    let (v, b) := flipVal s out (descOf s i) i
    putSlot s (pendOff s out i) v b) s
  let f := if out then SPL.SEG_SEL_OUT.SEL else SPL.SEG_SEL_IN.SEL
  let s := countEv s spl 0x10
  let s := wrF s spl f (rdF s spl f (seg / 32) ^^^ 2 ^ (seg % 32)) (seg / 32)
  { s with spl := if out then { s.spl with refOut := s.spl.refOut.filter (fun i => i / 1024 != seg) }
                  else { s.spl with refIn := s.spl.refIn.filter (fun i => i / 1024 != seg) } }

/-- The slots of a line of the image as the field die is sent them (R272, R289): 16-bit slots, a poisoned one as 0. -/
def packLine (vs : List Nat) : Nat :=
  (List.range 32).foldl (fun a i => let v := (vs[i]?).getD 0; a + v % 4096 * 2 ^ (12 * i) + bits v 15 15 * 2 ^ (384 + i)) 0
def unpackLine (p : Nat) : List Nat := (List.range 32).map (fun i => bits p (12 * i + 11) (12 * i) + bits p (384 + i) (384 + i) * 2 ^ 15)

/-- A line of the safe image, as SAFE_LINE carries it (R299). -/
def safeLine (s : State) (l : Nat) : Nat :=
  packLine ((List.range 32).map (fun j => let o := safeOff (32 * l + j); if slotBad s o then 0 else slotAt s o))

/-- The pair partner's port: the lowest one that is up and carries pair messages (R368). -/
def pairPort (s : State) : Option Nat :=
  (List.range 4).find? (fun p => rdF s (ylk p) YLK.PORT_STAT.STATE = 2 && rdF s (ylk p) YLK.PORT_CFG.PAIR = 1)
def pairState (s : State) : Nat := rdF s (ylk 0) YLK.PAIR_STAT.STATE
def clRole (s : State) : Nat := rdF s (ylk 0) YLK.CL_STAT.ROLE
/-- A Yilust message leaves port `p` (R354): SRC, DST and BCAST of its header, then its payload. -/
def ySend (s : State) (p typ dst : Nat) (bcast : Bool) (args : List Nat) : State :=
  send s (.ylk p) typ ([rdF s (ylk 0) YLK.CL_CFG.POS, dst, b2n bcast] ++ args)
/-- A pair message is sent to the partner; it carries master 76 and counts on the port's resource (R369). -/
def pairSend (s : State) (typ : Nat) (args : List Nat) : State :=
  match pairPort s with
  | some p => meter (ySend s p typ (rdF s (ylk 0) YLK.PAIR_STAT.PARTNER) false args) 76 (24 + p) 1
  | none => s
/-- The manager of a pair that is paired or syncing replicates (R369). -/
def replicating (s : State) : Bool := decide (pairState s ≠ 0) && decide (clRole s = 1)

/-- An image line written at the manager is replicated (R369): 0 the safe image, 1 the force image. -/
def replImg (s : State) (force l : Nat) : State :=
  if replicating s then
    pairSend s 0x24 ([force * 2 ^ 14 + l] ++ (List.range 32).map (fun j =>
      let o := (if force = 1 then forceOff else safeOff) (32 * l + j); if slotBad s o then 0 else slotAt s o))
  else s

/-- A descriptor is queued for signal `i` (R267), or dropped with the queue full. -/
def queueDesc (s : State) (i x : Nat) : State :=
  if 256 ≤ s.spl.dq.length then capture (wrF s spl SPL.DESC_ADDR.QFULL 1) spl 4
  else
    let s := { s with spl := { s.spl with dq := s.spl.dq ++ [(i, x)] } }
    markLine (if replicating s then pairSend s 0x25 [i, x] else s) i

/-- A descriptor write (R267), by whatever view its value was formed: queued, or refused for TYPE 0b11; INDEX advances
with INC. -/
def descWrite (s : State) (x : Nat) : State :=
  let i := rdF s spl SPL.DESC_ADDR.INDEX
  let x := x % 2 ^ 16 - (if bit x 12 then 4096 else 0)
  let s := if 3 ≤ bits x 15 14 then badWrite s spl else queueDesc s i x
  if rdF s spl SPL.DESC_ADDR.INC = 1 then wrF s spl SPL.DESC_ADDR.INDEX (i + 1) else s

/-- A base-view read of DESC_DATA. -/
def descRead (s : State) : Nat × State :=
  let i := rdF s spl SPL.DESC_ADDR.INDEX
  (descOf s i, if rdF s spl SPL.DESC_ADDR.INC = 1 then wrF s spl SPL.DESC_ADDR.INDEX (i + 1) else s)

/-- A setting of view `v`, active and in the shadow. -/
def vw (s : State) (f : Field) (v : Nat) : Nat := rdF s spl f 0 (1 + v)
def vwSh (s : State) (f : Field) (v : Nat) : Nat := shF s spl f 0 (1 + v)

/-- A slot of a view window is denied (R274). -/
def viewDenied (s : State) (w : Who) (v o : Nat) (wr : Bool) : Bool :=
  let r := o / 0x100000 % 64
  let right := match r, wr with
    | 0, false => vw s SPL.VIEW_CFG.R_IN v
    | 1, false => vw s SPL.VIEW_CFG.R_OUT v
    | 2, _ => vw s SPL.VIEW_CFG.W_OUT v
    | 3, _ => vw s SPL.VIEW_CFG.W_SAFE v
    | 4, _ => vw s SPL.VIEW_CFG.W_FORCE v
    | 5, false => vw s SPL.VIEW_CFG.R_DESC v
    | _, _ => 0
  right = 0 || decide (vw s SPL.VIEW_CNT.VALUE v ≤ o % 0x100000 / 2) || vw s SPL.VIEW_CFG.EN v = 0
    || (vw s SPL.VIEW_CFG.SECURE v = 1 && !w.sec)

/-- One slot read through a view: its value, and whether it is poisoned. -/
def viewSlot (s : State) (v o : Nat) : Nat × Bool :=
  let i := vw s SPL.VIEW_BASE.VALUE v + o % 0x100000 / 2
  let at_ := fun off => (slotAt s off, slotBad s off)
  match o / 0x100000 % 64 with
  | 0 => at_ (curOff s false i)
  | 1 => at_ (curOff s true i)
  | 2 => if s.spl.refOut.contains i then at_ (pendOff s true i) else (0, false)
  | 3 => at_ (safeOff i)
  | 4 => at_ (forceOff i)
  | _ => at_ (descOff i)

/-- One slot written through a view (R274, R269, R299). -/
def viewPut (s : State) (v o x : Nat) : State :=
  let i := vw s SPL.VIEW_BASE.VALUE v + o % 0x100000 / 2
  match o / 0x100000 % 64 with
  | 2 => putPend s true i x false
  | 3 =>
    let s := putSlot s (safeOff i) x
    replImg (barSend s true 0x103 (i / 32) (safeLine s (i / 32))) 0 (i / 32)
  | 4 => markLine (replImg (putSlot s (forceOff i) x) 1 (i / 32)) i
  | _ => s

/-- An access to a window is counted (R421), its denied slots too, and a normal access to a secure view raises one KIND 5 event (R274, R276). -/
def viewCount (s : State) (w : Who) (v pa n : Nat) (wr : Bool) : State :=
  let s := countEv (countEv (addF s spl SPL.VIEW_DENY.COUNT n 0 (1 + v)) spl 0x13) spl 0x14 (min n 1)
  if vw s SPL.VIEW_CFG.SECURE v = 1 && !w.sec then secEvent s 5 pa w wr else s

/-- A read of `size` bytes through a view window (R274, R275): the value and whether a slot of it is poisoned. -/
def viewRead (s : State) (w : Who) (pa size : Nat) : Nat × Bool × State :=
  let a := pa - 0x0F20_0000_0000
  let v := a / 0x4000000
  let offs := (List.range (size / 2)).map (fun j => (j, a % 0x4000000 + 2 * j))
  let ok := offs.filter (fun e => !viewDenied s w v e.2 false)
  let s' := viewCount s w v pa (offs.length - ok.length) false
  let bad := ok.any (fun e => (viewSlot s v e.2).2)
  (ok.foldl (fun x e => x + (viewSlot s v e.2).1 * 2 ^ (16 * e.1)) 0, bad, if bad then capture s' spl 3 else s')

/-- A write through a view window, with byte enables: a slot covered in part is dropped and counted (R275). -/
def viewWrite (s : State) (w : Who) (pa size x be : Nat) : State :=
  let a := pa - 0x0F20_0000_0000
  let v := a / 0x4000000
  let offs := ((List.range (size / 2)).map (fun j => (j, a % 0x4000000 + 2 * j))).filter (fun e => bits be (2 * e.1 + 1) (2 * e.1) ≠ 0)
  let ok := offs.filter (fun e => bits be (2 * e.1 + 1) (2 * e.1) = 3 && !viewDenied s w v e.2 true)
  let s := viewCount s w v pa (offs.length - ok.length) true
  ok.foldl (fun s e => viewPut s v e.2 (bits x (16 * e.1 + 15) (16 * e.1))) s

/-- The device context of a view, its ring and its world (R276, R279). -/
def viewHgatp (s : State) (v : Nat) : Nat := vw s SPL.CTX_HGATP_LO.VALUE v + vw s SPL.CTX_HGATP_HI.VALUE v * 2 ^ 32
def viewRing (s : State) (v : Nat) : Nat := vw s SPL.DMA_RING_LO.GPA v * 4096 + vw s SPL.DMA_RING_HI.GPA v * 2 ^ 32
def viewWho (s : State) (v : Nat) : Who := { num := 74, sec := decide (vw s SPL.VIEW_CFG.SECURE v = 1) }

/-- Why a translation by a device context fails: REASON and LEVEL (R126, R280). -/
abbrev GErr := Nat × Nat

/-- A G-stage walk by a device context, from level `l` down (R118-R121, R125, R126, R279): the leaf's base, size and low
byte, or the failure. -/
def gWalk (s : State) (w : Who) (gpa top : Nat) : Nat → Nat → Except GErr (Nat × Nat × Nat) × State
  | table, l =>
    let a := table + 8 * gvpn gpa l top
    let z := zoneOf s a
    if isIo z then (.error (3, l), s)
    else if !isMem z then (.error (1, l), s)
    else
      let ((p, bad), s) := ioReadMem s w a 8
      if bad then (.error (2, l), s)
      else match pteOf (capEff s 18) p l with
        | .bad => (.error (0, l), s)
        | .leaf base exp => (.ok (base, exp, p % 256), s)
        | .table t => match l with
          | 0 => (.error (0, l), s)
          | l' + 1 => gWalk s w gpa top t l'

/-- Translation of a guest physical address by a context in `hgatp` format (R279, R349): a cached leaf may serve it for as
long as the cache happens to hold it, else the tables are walked. `need` is the set of low leaf bits required. -/
def gTrans (s : State) (w : Who) (hgatp gpa need : Nat) : Except GErr Nat × State :=
  let mode := hgatp / 2 ^ 60
  let fin := fun (pa : Nat) (s : State) =>
    let z := zoneOf s pa
    if isMem z then (Except.ok pa, s) else if isIo z then (.error (3, 0), s) else (.error (1, 0), s)
  if mode = 0 then fin gpa s
  else
    let top := topOf mode
    let vmid := bits hgatp 57 44
    let (c, s) := draw s
    match if c % 2 = 1 then s.spl.tlb.find? (fun t => t.vmid = vmid && gpa / 2 ^ t.exp = t.gpa / 2 ^ t.exp && t.perm &&& need = need) else none with
    | some t => fin (t.pa + gpa % 2 ^ t.exp) s
    | none =>
      if 2 ^ (12 + 9 * (top + 1) + 2) ≤ gpa then (.error (0, top), s)
      else match gWalk s w gpa top (bits hgatp 43 0 * 4096) top with
        | (.error e, s) => (.error e, s)
        | (.ok (base, exp, perm), s) =>
          if perm &&& need = need then
            let t : GTlb := ⟨vmid, gpa / 2 ^ exp * 2 ^ exp, exp, base, perm⟩
            fin (base + gpa % 2 ^ exp) { s with spl := { s.spl with tlb := t :: s.spl.tlb } }
          else (.error (0, (exp - 12) / 9), s)

/-- The leaf bits that a DMA write needs: V, R, W, U, A, D (R279). -/
def needWrite : Nat := 0xD7

/-- Slot lines of one image in a buffer, the buffer's bytes, and its address (R277). -/
def dmaHalf (cnt : Nat) : Nat := (2 * cnt + 63) / 64
def dmaLines (d : Dma) : Nat := (b2n d.inn + b2n d.out) * dmaHalf d.cnt
def dmaAddr (s : State) (v : Nat) (d : Dma) : Nat :=
  viewRing s v + d.seq % 2 ^ vw s SPL.DMA_RING_LO.NBUF_EXP v * 2 ^ vw s SPL.DMA_RING_LO.STRIDE_EXP v

/-- The header of a buffer as a 64-byte number (R277). -/
def dmaHeader (v : Nat) (d : Dma) (flags : Nat) : Nat :=
  d.seq + flags * 2 ^ 32 + d.gen * 2 ^ 40 + v * 2 ^ 48 + d.gt * 2 ^ 64 + d.base * 2 ^ 128 + d.cnt * 2 ^ 160
    + (if d.inn then 64 else 0) * 2 ^ 192 + (if d.out then 64 + b2n d.inn * dmaHalf d.cnt * 64 else 0) * 2 ^ 224

/-- A line of a buffer leaves: it is written at its home as master 74 and metered (R227, R278). -/
def dmaWrite (s : State) (v pa n x : Nat) : State :=
  let s := ioWriteMem s (viewWho s v) pa n x
  let s := meter s 74 (if pa < 0x0100_0000_0000 then 0 else 1) 1
  let s := meter s 74 (2 + 2 * homeDie s pa) 1
  countEv { s with spl := { s.spl with used := s.spl.used + 1 } } spl 0x11

/-- The next write of a view's buffer: its guest physical address. -/
def dmaNext (s : State) (v : Nat) (d : Dma) : Nat :=
  dmaAddr s v d + if d.hdr && d.line < dmaLines d then 64 + 64 * d.line else 0

/-- A log entry is due for a page (R281, R282): written, or with the log full LOG_OVF is set and nothing is. -/
def dmaLog (s : State) (v page : Nat) (gen : Nat) : State :=
  let prod := vw s SPL.LOG_PROD.COUNT v
  let n := 2 ^ vw s SPL.LOG_BASE_LO.LOG_EXP v
  if vw s SPL.VIEW_CTRL.LOG_OVF v = 1 then s
  else if (prod + 2 ^ 32 - vw s SPL.LOG_CONS.COUNT v) % 2 ^ 32 = n then capture (wrF s spl SPL.VIEW_CTRL.LOG_OVF 1 0 (1 + v)) spl 0
  else
    let a := vw s SPL.LOG_BASE_LO.PA v * 4096 + vw s SPL.LOG_BASE_HI.PA v * 2 ^ 32 + 8 * (prod % n)
    wrF (countEv (dmaWrite s v a 8 (page * 4096 + gen)) spl 0x12) spl SPL.LOG_PROD.COUNT (prod + 1) 0 (1 + v)

def setDma (s : State) (v : Nat) (d : Dma) : State := { s with spl := { s.spl with dma := mput s.spl.dma v d } }
def endDma (s : State) (v : Nat) : State := { s with spl := { s.spl with dma := mdel s.spl.dma v } }

/-- The 32 slots of a buffer's slot line, padded with zeros, a poisoned one as 0 (R272, R277). -/
def dmaSlots (s : State) (d : Dma) : List (Nat × Bool) :=
  let half := dmaHalf d.cnt
  let out := !(d.inn && d.line < half)
  let j := if d.line < half then d.line else d.line - half
  (List.range 32).map (fun i =>
    let k := 32 * j + i
    if k < d.cnt then let o := curOff s out (d.base + k); if slotBad s o then (0, true) else (slotAt s o, false) else (0, false))

/-- One unit of a view's buffer at a translated address: a due log entry, the first header, or the next slot line. -/
def dmaUnit (s : State) (v : Nat) (d : Dma) (pa : Nat) : State :=
  let page := dmaNext s v d / 4096
  if vw s SPL.VIEW_CFG.LOG_EN v = 1 && !d.pages.contains page then
    setDma (dmaLog s v page d.gen) v { d with pages := page :: d.pages }
  else if !d.hdr then setDma (dmaWrite s v pa 64 (dmaHeader v d 0)) v { d with hdr := true }
  else
    let vs := dmaSlots s d
    let x := (List.range 32).foldl (fun a i => a + (((vs[i]?).getD (0, false)).1) * 2 ^ (16 * i)) 0
    let bad := vs.any (·.2)
    let s := if bad then capture s spl 3 else s
    setDma (dmaWrite s v pa 64 x) v { d with line := d.line + 1, poison := d.poison || bad }

/-- The view whose buffer the engine serves: the lowest with a header or slot line left (R278). -/
def dmaView (s : State) : Option (Nat × Dma) := s.spl.dma.find? (fun e => !e.2.hdr || decide (e.2.line < dmaLines e.2))

/-- The engine has units left in this window. -/
def dmaRoom (s : State) : Bool := decide (s.spl.used < rdF s spl SPL.DMA_RATE.UNITS)

/-- The pages of the writes left, not yet logged. -/
def dmaPagesLeft (s : State) (v : Nat) (d : Dma) : Nat :=
  if vw s SPL.VIEW_CFG.LOG_EN v = 0 then 0
  else (((List.range (dmaLines d - d.line)).map (fun j => (dmaAddr s v d + 64 + 64 * (d.line + j)) / 4096)).eraseDups.filter
    (fun p => !d.pages.contains p)).length

/-- A buffer that is not complete when its view triggers again (R278): the lines left are dropped and counted, and the
header, where it has been written, is written with ABORTED. -/
def dmaAbort (s : State) (v : Nat) (d : Dma) : State :=
  let s := addF s spl SPL.VIEW_DROP.LINES (dmaLines d - d.line) 0 (1 + v)
  let s := if d.hdr then
      match gTrans s (viewWho s v) (viewHgatp s v) (dmaAddr s v d) needWrite with
      | (.ok pa, s) => dmaWrite s v pa 64 (dmaHeader v d (2 + 4 * b2n d.poison))
      | (.error _, s) => s
    else s
  capture (endDma s v) spl 2

/-- The boundaries at instant `t` of the classes with sequence numbers `ks` trigger their views (R277), lowest first; a
buffer's first header goes at once where the window has a unit left and its address translates. -/
def dmaTrigger (s : State) (ks : Map Nat) (t : Nat) : State :=
  (List.range 64).foldl (fun (s : State) v =>
    let c := vw s SPL.VIEW_CFG.CLASS v
    let k := mget 0 ks c
    if vw s SPL.VIEW_CFG.EN v = 1 && (mfind ks c).isSome && vw s SPL.VIEW_CTRL.DMA_SUSP v = 0
        && (vw s SPL.VIEW_CFG.DMA_IN v = 1 || vw s SPL.VIEW_CFG.DMA_OUT v = 1) then
      let s := match mfind s.spl.dma v with
        | some d => dmaAbort s v d
        | none => s
      let d : Dma := { seq := k % 2 ^ 32, gt := t, gen := vw s SPL.VIEW_CTRL.GEN v, base := vw s SPL.VIEW_BASE.VALUE v,
                       cnt := vw s SPL.VIEW_CNT.VALUE v, inn := vw s SPL.VIEW_CFG.DMA_IN v = 1, out := vw s SPL.VIEW_CFG.DMA_OUT v = 1,
                       hdr := false, line := 0, pages := [], poison := false }
      let s := setDma s v d
      if dmaRoom s then
        match gTrans s (viewWho s v) (viewHgatp s v) (dmaNext s v d) needWrite with
        | (.ok pa, s) => dmaUnit s v d pa
        | (.error _, s) => s
      else s
    else s) s

/-- A view's generation advances (R283): what its buffer has not issued is dropped and counted. -/
def genAdvance (s : State) (v : Nat) : State :=
  let s := wrF s spl SPL.VIEW_CTRL.GEN (vw s SPL.VIEW_CTRL.GEN v + 1) 0 (1 + v)
  match mfind s.spl.dma v with
  | some d => endDma (addF s spl SPL.VIEW_DROP.LINES (dmaLines d - d.line + dmaPagesLeft s v d) 0 (1 + v)) v
  | none => s

/-- A write of VIEW_CTRL.RESET (R283). -/
def viewReset (s : State) (v : Nat) : State :=
  let s := genAdvance s v
  let z := fun (f : Field) (s : State) => wrF s spl f 0 0 (1 + v)
  z SPL.LOG_PROD.COUNT (z SPL.LOG_CONS.COUNT (z SPL.VIEW_CTRL.DMA_SUSP (z SPL.VIEW_CTRL.LOG_OVF s)))

/-- A write of LOG_CONS (R281): outside the entries the log holds it is ignored with BAD_WRITE. -/
def logCons (s : State) (v x : Nat) : State :=
  let prod := vw s SPL.LOG_PROD.COUNT v
  if (prod + 2 ^ 32 - x % 2 ^ 32) % 2 ^ 32 ≤ 2 ^ vw s SPL.LOG_BASE_LO.LOG_EXP v then wrF s spl SPL.LOG_CONS.COUNT x 0 (1 + v)
  else badWrite s spl

/-- A write of CTX_INV (R279); while BUSY it is ignored. -/
def splCtxInv (s : State) (all : Bool) (vmid : Nat) : State :=
  if s.spl.inv.isSome then s
  else wrF { s with spl := { s.spl with inv := some (if all then none else some vmid) } } spl SPL.CTX_INV.BUSY 1

/-- A view's shadow settings break a RANGE rule (R273). -/
def viewRange (s : State) (v : Nat) : Bool :=
  let cnt := vwSh s SPL.VIEW_CNT.VALUE v
  let st := vwSh s SPL.DMA_RING_LO.STRIDE_EXP v
  let le := vwSh s SPL.LOG_BASE_LO.LOG_EXP v
  let lb := vwSh s SPL.LOG_BASE_LO.PA v * 4096 + vwSh s SPL.LOG_BASE_HI.PA v * 2 ^ 32
  let mode := vwSh s SPL.CTX_HGATP_HI.VALUE v / 2 ^ 28
  let dm := vwSh s SPL.VIEW_CFG.DMA_IN v + vwSh s SPL.VIEW_CFG.DMA_OUT v
  cnt = 0 || decide (524288 < vwSh s SPL.VIEW_BASE.VALUE v + cnt) || decide (st < 12) || decide (20 < st)
    || decide (4 < vwSh s SPL.DMA_RING_LO.NBUF_EXP v)
    || (vwSh s SPL.VIEW_CFG.LOG_EN v = 1 && (decide (le < 9) || decide (16 < le)
        || !(isMem (zoneOf s lb) && zoneOf s lb = zoneOf s (lb + 8 * 2 ^ le - 1))))
    || !(mode = 0 || mode = 8 || mode = 9)
    || (dm ≠ 0 && (shF s spl SPL.DMA_RATE.UNITS = 0 || decide (2 ^ st < 64 + dm * dmaHalf cnt * 64)))

/-- A view's DMA touches a segment not assigned to its class (R273). -/
def viewSegs (s : State) (v : Nat) : Bool :=
  let base := vwSh s SPL.VIEW_BASE.VALUE v
  let cnt := vwSh s SPL.VIEW_CNT.VALUE v
  vwSh s SPL.VIEW_CFG.DMA_IN v + vwSh s SPL.VIEW_CFG.DMA_OUT v ≠ 0 &&
    (List.range 512).any (fun g => decide (g * 1024 < base + cnt) && decide (base < g * 1024 + 1024)
      && segClass s g ≠ some (vwSh s SPL.VIEW_CFG.CLASS v))

/-- The checks of an SPL commit (R273), SECURE first (R59). -/
def splCheck (s : State) : Nat :=
  let vs := (List.range 64).filter (fun v => vwSh s SPL.VIEW_CFG.EN v = 1)
  let secret := (List.range 64).any (fun v => vwSh s SPL.VIEW_CFG.SECURE v = 1 &&
    s.shadow.any (fun e => keyInBlock spl e.1 && e.1 / (32 * 4096 * 65536 * 64) = 1 + v && e.2.normal))
  let overlap := vs.any (fun v => vs.any (fun u => decide (v < u) && vwSh s SPL.VIEW_CFG.W_OUT v = 1 && vwSh s SPL.VIEW_CFG.W_OUT u = 1
    && decide (vwSh s SPL.VIEW_BASE.VALUE v < vwSh s SPL.VIEW_BASE.VALUE u + vwSh s SPL.VIEW_CNT.VALUE u)
    && decide (vwSh s SPL.VIEW_BASE.VALUE u < vwSh s SPL.VIEW_BASE.VALUE v + vwSh s SPL.VIEW_CNT.VALUE v)))
  if secret then 5 else if vs.any (viewRange s) then 1 else if vs.any (viewSegs s) || overlap then 2 else 0

/-- A resolved SPL commit: views that lose EN or change their DMA context advance their generation (R283). -/
def splCommit (s : State) (ovr : Option Nat) : State :=
  let c := ovr.getD (splCheck s)
  let df := fun (v : Nat) (f : Field) => vwSh s f v ≠ vw s f v
  let adv := (List.range 64).filter (fun v => vw s SPL.VIEW_CFG.EN v = 1 && (vwSh s SPL.VIEW_CFG.EN v = 0
    || df v SPL.CTX_HGATP_LO.VALUE || df v SPL.CTX_HGATP_HI.VALUE || df v SPL.DMA_RING_LO.GPA || df v SPL.DMA_RING_LO.STRIDE_EXP
    || df v SPL.DMA_RING_LO.NBUF_EXP || df v SPL.DMA_RING_HI.GPA || df v SPL.VIEW_CFG.DMA_IN || df v SPL.VIEW_CFG.DMA_OUT))
  if c = 0 then resolve (adv.foldl genAdvance s) spl c else resolve s spl c

end Sys2Proof.Machine
end

