-- ==== Sys2Proof/Machine/Scan.lean ====
section
/-! DEFINITION. The Scan Engine (chapter "Scan Engine"): classes and boundaries, tasks and their status words, pushes,
releases, reports, pulls and misses, the report histograms, and the checks of an SCN commit. A line moves whole when the
budget of its window lets the engine issue it; its transit is not modelled (assumption log 11). -/
namespace Sys2Proof.Machine
open Sys2Proof

/-- A 64-bit word of the task store. -/
def tsWord (s : State) (off : Nat) : Nat := readBytes s.scan.ts off 8
def putTs (s : State) (off n v : Nat) : State := { s with scan := { s.scan with ts := writeBytes s.scan.ts off n v,
                                                                                  tsBad := s.scan.tsBad.filter (fun b => !(decide (off ≤ b) && decide (b < off + n))) } }

/-- Word `n` of a task's descriptor (R244), and a slice entry (R245). -/
def descWord (s : State) (t n : Nat) : Nat := tsWord s (64 * t + 8 * n)
def sliceAt (s : State) (e : Nat) : Nat := tsWord s (0x40000 + 8 * (e % 32768))

/-- TASK_EN of a task, in the active settings and in the shadow. -/
def taskOn (s : State) (t : Nat) : Bool := bit (rdF s scn SCN.TASK_EN.EN (t / 32)) (t % 32)
def taskOnSh (s : State) (t : Nat) : Bool := bit (shF s scn SCN.TASK_EN.EN (t / 32)) (t % 32)

/-- Fields of descriptor words. -/
def dHart (w0 : Nat) : Nat := bits w0 63 56
def dClass (w0 : Nat) : Nat := bits w0 55 53
def dAct (w0 : Nat) : Nat := bits w0 51 50
def dLim (w0 : Nat) : Nat := bits w0 49 46
def dDeadline (w1 : Nat) : Nat := bits w1 63 32
def dRelease (w1 : Nat) : Nat := bits w1 31 0
/-- The slice entries of a descriptor's input range, and of its output range. -/
def inSlices (w2 : Nat) : List Nat := (List.range (bits w2 23 16)).map (fun j => bits w2 14 0 + j)
def outSlices (w2 : Nat) : List Nat := (List.range (bits w2 55 48)).map (fun j => bits w2 46 32 + j)
/-- Fields of a slice entry. -/
def eSig (e : Nat) : Nat := bits e 47 29
def eCnt (e : Nat) : Nat := bits e 28 17 + 1
def eLs (e : Nat) : Nat := bits e 16 0
def eUnits (e : Nat) : Nat := (eCnt e + 31) / 32

/-- FLAGS and STATUS of a task (R246): flag numbers 0 REPORTED, 1 MISSED, 2 SKIPPED, 3 LATE, 4 REJECTED, 5 DELAYED,
6 POISON_IN, 7 POISON_OUT. -/
def taskFlags (s : State) (t : Nat) : Nat := readBytes s.scan.ts (64 * t + 56) 1
def setFlag (s : State) (t n : Nat) : State := putTs s (64 * t + 56) 1 (taskFlags s t ||| 2 ^ n)
def missRun (s : State) (t : Nat) : Nat := readBytes s.scan.ts (64 * t + 63) 1

/-- The scan epoch, and boundary `k` of a class with an offset and a period (R239). -/
def epochOf (s : State) : Nat := rdF s scn SCN.EPOCH_LO.EPOCH + rdF s scn SCN.EPOCH_HI.EPOCH * 2 ^ 32
def tOf (s : State) (offset period k : Nat) : Nat := epochOf s + 32000 * offset + 32000 * period * k
/-- The first boundary at or after an instant. -/
def firstK (s : State) (offset period t : Nat) : Nat :=
  let t0 := epochOf s + 32000 * offset
  if t ≤ t0 then 0 else (t - t0 + 32000 * period - 1) / (32000 * max 1 period)

def clsOf (s : State) (c : Nat) : ScanCls := mget {} s.scan.cls c
def setCls (s : State) (c : Nat) (x : ScanCls) : State :=
  let t := if x.on then epochOf s + 32000 * x.offset + 32000 * x.period * x.next else 0
  let s := { s with scan := { s.scan with cls := mput s.scan.cls c x } }
  wrF (wrF s scn SCN.CLASS_NEXT_LO.TIME t c) scn SCN.CLASS_NEXT_HI.TIME (t / 2 ^ 32) c
/-- The instant of a class's next boundary. -/
def clsNext (s : State) (c : Nat) : Nat := let x := clsOf s c; tOf s x.offset x.period x.next
def clsOn (s : State) : List Nat := (List.range 8).filter (fun c => (clsOf s c).on)
/-- The earliest boundary of the classes that run (R60, R239). -/
def nextBoundary (s : State) : Option Nat :=
  (clsOn s).foldl (fun (a : Option Nat) c => match a with
    | none => some (clsNext s c)
    | some t => some (min t (clsNext s c))) none
/-- The running class with the shortest period (R373). -/
def fastest (s : State) : Option Nat :=
  (clsOn s).foldl (fun (a : Option Nat) c => match a with
    | none => some c
    | some b => if (clsOf s c).period < (clsOf s b).period then some c else some b) none

/-- The base die (0-3) whose hub Hinge serves a hart (R18). -/
def hartBase (s : State) (h : Nat) : Nat := (hartOf s h).core / 72
/-- The hart's compute die is in service. -/
def hartDieUp (s : State) (h : Nat) : Bool := dieUp s (coreDie (hartOf s h).core)

/-- The package is a manager whose partner is paired (R371). -/
def pairedMgr (s : State) : Bool := decide (pairState s = 2) && decide (clRole s = 1)

/-- The Warden's answer to HOLD_REQ (R257, R374, R377, R380, R381, R393). -/
def holdAct (s : State) (t : Nat) : State :=
  if modeOf s = 4 then
    if pairedMgr s then match fastest s with
      | some c => pairSend s 0x29 [c, (clsOf s c).next]
      | none => s
    else if rdF s (pwr 0) PWR.HOLD_CFG.AUTO = 1 && !(clsOn s).isEmpty then goMode s 6 3
    else s
  else if modeOf s = 5 || modeOf s = 6 then logRec s 0x90 0 0xFF (leBytes t 2 ++ [modeOf s])
  else s

/-- HOLD_REQ is captured and the task reported to the Warden, which during a management pause latches it (R413). -/
def holdReq (s : State) (t : Nat) : State :=
  let s := capture s scn 10
  if s.wd.pause then { s with wd := { s.wd with latched := s.wd.latched ++ [.holdReq t] } } else holdAct s t

/-- MISS_RUN increments; on reaching a non-zero MISS_LIM the task asks for Hold once (R257). -/
def missMore (s : State) (t lim : Nat) : State :=
  let n := satInc 255 (missRun s t)
  let s := putTs s (64 * t + 63) 1 n
  if lim ≠ 0 && n = lim then holdReq s t else s

/-- A miss, and a skip (R256): flag, count, event and lifetime count, then MISS_RUN. -/
def missCount (s : State) (t c lim : Nat) : State :=
  missMore (lifeAdd (capture (addF (setFlag (countEv s scn 0x14) t 1) scn SCN.CLASS_CNT.MISS 1 c) scn c) (5 * 4096 + c)) t lim
def skipTask (s : State) (t c lim : Nat) : State :=
  missMore (lifeAdd (capture (addF (setFlag (countEv s scn 0x15) t 2) scn SCN.CLASS_CNT.SKIP 1 c) scn c) (5 * 4096 + 8 + c)) t lim

/-- The lines of a slice entry. -/
def sliceLines (s : State) (t c h act : Nat) (e : Nat) : List SLine :=
  let n := eCnt e
  (List.range (eUnits e)).map (fun j =>
    ⟨t, c, h, hartBase s h, eSig e + 32 * j, min 32 (n - 32 * j), eLs e + 64 * j, bits e 62 62, 2 ^ 32 - 1, act⟩)

/-- The slots a push line delivers (R258): a poisoned word of four slots as zeros. -/
def pushSlot (s : State) (l : SLine) (j : Nat) : Nat × Bool :=
  let o := fun (i : Nat) => curOff s (l.src = 1) (l.sig + i)
  let bad := (List.range 4).any (fun q => slotBad s (o (j / 4 * 4 + q)))
  (if bad then 0 else slotAt s (o j), bad)

/-- One push line is written in the hart's local store (R148, R249) with good check bits. -/
def pushLine (s : State) (l : SLine) : State :=
  let s := countEv (meter s 72 (2 + 2 * l.base) 1) scn 0x10
  if !hartDieUp s l.hart then s
  else
    let k := lsKey (hartOf s l.hart).core l.ls
    let vs := (List.range l.n).map (pushSlot s l)
    let x := (List.range l.n).foldl (fun a j => a + (((vs[j]?).getD (0, false)).1) * 2 ^ (16 * j)) 0
    let s := { s with lstore := writeBytes s.lstore k (2 * l.n) x,
                      lsBad := s.lsBad.filter (fun b => !(decide (k ≤ b) && decide (b < k + 2 * l.n))) }
    if vs.any (·.2) then capture (capture (setFlag s l.task 6) scn 9) spl 3 else s

/-- A slot that a miss action writes (R256): the current output, or the safe image, with STALE. -/
def missSlot (s : State) (act i : Nat) : State :=
  let o := if act = 1 then safeOff i else curOff s true i
  putPend s true i (slotAt s o) true (slotBad s o)

/-- Slots of a line are taken from the pull lines still to move among `ls` (R253). -/
def unmask (ls : List SLine) (sig mask : Nat) : List SLine :=
  ls.map (fun l => if l.sig = sig then { l with mask := l.mask &&& (2 ^ 32 - 1 - mask % 2 ^ 32) } else l)

/-- One pull line reaches the pending output image (R253, R258). -/
def pullLine (s : State) (l : SLine) : State :=
  let s := countEv (meter s 73 (3 + 2 * l.base) 1) scn 0x11
  let k := lsKey (hartOf s l.hart).core l.ls
  (List.range l.n).foldl (fun (s : State) j =>
    if !bit l.mask j then s
    else if s.lsBad.contains (k + 2 * j) || s.lsBad.contains (k + 2 * j + 1) then
      capture (setFlag (missSlot (hclUe s l.hart 3 ((l.ls + 2 * j) % 2 ^ 17)) l.act (l.sig + j)) l.task 7) scn 9
    else putPend s true (l.sig + j) (readBytes s.lstore (k + 2 * j) 2) false) s

def usedKey (pull : Bool) (c base : Nat) : Nat := (b2n pull * 8 + c) * 4 + base

/-- The push lines that this window's budgets still let through are moved, in order per Hinge (R249). -/
def issuePush (s : State) : State :=
  let (s, left) := s.scan.push.foldl (fun (a : State × List SLine) l =>
    let (s, left) := a
    let k := usedKey false l.cls l.base
    if mget 0 s.scan.used k < (clsOf s l.cls).push then
      (pushLine { s with scan := { s.scan with used := mput s.scan.used k (mget 0 s.scan.used k + 1) } } l, left)
    else (s, left ++ [l])) (s, [])
  { s with scan := { s.scan with push := left } }

/-- The pull lines in the same way (R253); from a die out of service none comes. A task whose last line has moved is pulled and its MISS_RUN is 0 (R257). -/
def issuePull (s : State) : State :=
  let (s, left) := s.scan.pull.foldl (fun (a : State × List SLine) l =>
    let (s, left) := a
    let k := usedKey true l.cls l.base
    if mget 0 s.scan.used k < (clsOf s l.cls).pull && hartDieUp s l.hart then
      let s := pullLine { s with scan := { s.scan with used := mput s.scan.used k (mget 0 s.scan.used k + 1) } } l
      (s, unmask left l.sig (2 ^ l.n - 1))
    else (s, left ++ [l])) (s, [])
  let done := (s.scan.pull.map (·.task)).eraseDups.filter (fun t => !left.any (fun l => l.task = t))
  let s := { s with scan := { s.scan with pull := left } }
  done.foldl (fun (s : State) t => putTs s (64 * t + 63) 1 0) s

/-- The Scan Engine's BLK_CTRL.ENABLE (R263), in a mode in which scans run. -/
def scanOn (s : State) : Bool := (hdrOf s scn).enable && (modeOf s = 4 || modeOf s = 5 || modeOf s = 6)

/-- A release proceeds (R251): what the hart's state makes of it. -/
def doRelease (s : State) (o : Owe) : State :=
  let x := hartOf s o.hart
  let lim := dLim (match mfind s.scan.runs o.task with
    | some r => r.w0
    | none => 0)
  let info := BitVec.ofNat 64 (o.seq % 2 ^ 32 * 2 ^ 32 + 2 ^ 31 + o.cls * 2 ^ 12 + o.task)
  let owed := fun (s : State) => countEv { s with scan := { s.scan with owes := s.scan.owes ++ [o] } } scn 0x12
  if !x.active || x.run = .parked || x.rst.isSome || !hartDieUp s o.hart then skipTask s o.task o.cls lim
  else match x.run with
    | .scanWait => owed (setHart s o.hart (scanWake x info))
    | .parked => s
    | .swapping | .running | .wfi | .halted =>
      if x.wakePend then skipTask s o.task o.cls lim
      else owed (setFlag (countEv (setHart s o.hart { x with wakePend := true, wakeInfo := info }) scn 0x13 (1 - bits (taskFlags s o.task) 5 5)) o.task 5)

/-- The release of a run, due first: lowest instant, then lowest task (R251, R263). -/
def relAt (r : TaskRun) : Nat := r.t0 + 8 * dRelease r.w1
def dlAt (r : TaskRun) : Nat := r.t0 + 8 * dDeadline r.w1
def soonest (m : Map TaskRun) (at_ : TaskRun → Nat) : Option (Nat × TaskRun) :=
  m.foldl (fun (a : Option (Nat × TaskRun)) e => match a with
    | none => some e
    | some b => if at_ e.2 < at_ b.2 then some e else some b) none

/-- The status of a report reaches the engine (R252, R260): the first SCAN.DONE of the oldest release the hart owes. -/
def scanReport (s : State) (h status : Nat) : State :=
  match s.scan.owes.find? (fun o => o.hart = h) with
  | none => s
  | some o =>
    let s := { s with scan := { s.scan with owes := s.scan.owes.erase o } }
    let late := decide (o.dl ≤ s.gtime)
    let s := putTs (setFlag s o.task 0) (64 * o.task + 57) 1 status
    let s := if late then setFlag s o.task 3 else s
    let s := if bit status 7 then setFlag s o.task 4 else s
    let w := 2 ^ rdF s scn SCN.HIST_CFG.SHIFT 0 (1 + o.cls)
    let j := if late then 31 else min 30 ((o.dl - s.gtime) / w)
    let k := o.cls * 32 + j
    { s with scan := { s.scan with hist := mput s.scan.hist k (satInc 0xFFFFFFFF (mget 0 s.scan.hist k)) } }

/-- A task takes part in the scan that starts (R247). -/
def takesPart (s : State) (t h : Nat) : Bool :=
  let x := hartOf s h
  decide (h < hartCount s) && hartDieUp s h && x.run ≠ .parked && x.run ≠ .swapping && x.rst.isNone && x.active
    && !s.scan.owes.any (fun o => o.task = t) && !s.scan.late.any (fun o => o.task = t)

/-- The enabled tasks of a class, ascending. -/
def tasksOf (s : State) (c : Nat) : List Nat := (List.range 4096).filter (fun t => taskOn s t && dClass (descWord s t 0) = c)

/-- A task is sampled at boundary `k` of its class at instant `t0` (R246, R247), and its push lines are queued (R249). -/
def startTask (s : State) (c k t0 t : Nat) : State :=
  let w0 := descWord s t 0
  let h := dHart w0
  let s := putTs s (64 * t + 48) 8 (k % 2 ^ 32)
  let s := putTs s (64 * t + 56) 1 0
  let part := takesPart s t h
  let r : TaskRun := { cls := c, t0 := t0, w0 := w0, w1 := descWord s t 1, w2 := descWord s t 2, part := part, relDone := !part, dlDone := false }
  let s := { s with scan := { s.scan with runs := mput s.scan.runs t r } }
  if part then
    let ls := (inSlices r.w2).flatMap (fun e => sliceLines s t c h 0 (sliceAt s e))
    { s with scan := { s.scan with push := s.scan.push ++ ls } }
  else skipTask s t c (dLim w0)

/-- Pull lines of class `c` not moved by its boundary are discarded, each task a miss of the scan that ends (R254). -/
def pullDiscard (s : State) (c : Nat) : State :=
  let ts := ((s.scan.pull.filter (fun l => l.cls = c)).map (·.task)).eraseDups
  let s := { s with scan := { s.scan with pull := s.scan.pull.filter (fun l => l.cls != c) } }
  ts.foldl (fun (s : State) t => missCount s t c (dLim (match mfind s.scan.runs t with
    | some r => r.w0
    | none => 0))) s

/-- GRANT_MISS acted on (R377): Shadow at once. -/
def grantAct (s : State) : State :=
  if modeOf s = 4 || modeOf s = 6 then goMode (endCode { s with wd := { s.wd with leaving := [] } } 0x10 stRefused) 5 6 else s

/-- A paired manager without the grant of a boundary stops driving (R371): captured, counted, YIELD, and Shadow. It is no
longer the manager, hence the standby (R359). A request to leave Hold that this pre-empts ends REFUSED. -/
def grantMiss (s : State) : State :=
  let s := capture (addF s (ylk 0) YLK.PAIR_CNT.GRANT_MISS) (ylk 0) 6
  let s := pairSend s 0x2A []
  let s := wrF s (ylk 0) YLK.PAIR_STAT.STATE 0
  let s := wrF (wrF s (ylk 0) YLK.CL_STAT.ROLE 3) (ylk 0) YLK.CL_MEMBERS.POS 0
  let s := { s with cl := { s.cl with noDrive := true, granted := [], members := [] } }
  if s.wd.pause then { s with wd := { s.wd with latched := s.wd.latched ++ [.grantMiss] } } else grantAct s

/-- OUT_FLIP of a class's boundary (R298): after the marked lines, or every line of the class after a retraining (R311). -/
def outFlip (s : State) (c k t : Nat) (hold : Bool) : State :=
  let lines := if s.bar.full.contains c then (segsOf s c).flatMap (fun g => (List.range 32).map (fun j => g * 32 + j))
    else mget [] s.bar.marked c
  let s := lines.foldl (fun (s : State) l =>
    let vs := (List.range 32).map (fun j => let o := curOff s true (32 * l + j); if slotBad s o then 0 else slotAt s o)
    meter (barSend s true 0x102 l (packLine vs)) 76 22 1) s
  let s := { s with bar := { s.bar with full := s.bar.full.filter (· != c), marked := mdel s.bar.marked c,
                                        presend := s.bar.presend.filter (· != c) } }
  barSend s true 0x104 (c + 256 * b2n hold) (t + k % 2 ^ 32 * 2 ^ 64)

/-- Who drives boundary `b` of a class, in whose scan sequence it is number `k` (R271, R298, R371, R375, R380): nobody in
Shadow, nor a package that granted it; a paired manager with the grant only, which the first boundary of a class, having no
scan before it, does not need; in Hold the safe copy, until the class has left Hold. -/
def driveClass (s : State) (c b k t : Nat) (first : Bool) : State :=
  if s.cl.gave.contains (c, b) then { s with cl := { s.cl with gave := s.cl.gave.filter (· != (c, b)) } }
  else match modeOf s with
  | 4 =>
    if s.cl.noDrive then s
    else if pairedMgr s && !first && !s.cl.granted.contains (c, b) then grantMiss s
    else outFlip { s with cl := { s.cl with granted := s.cl.granted.filter (· != (c, b)) } } c k t false
  | 6 =>
    if s.wd.leaving.isEmpty then outFlip s c k t true
    else
      let s := outFlip s c k t false
      let l := s.wd.leaving.filter (· != c)
      let s := { s with wd := { s.wd with leaving := l } }
      if l.isEmpty then endCode (goMode s 4 1) 0x10 stAccepted else s
  | _ => s

/-- The REPL_END of the scan before boundary `b` is held with every line counted (R371). -/
def replWhole (s : State) (c b : Nat) : Bool :=
  match mfind s.cl.rend c, mfind s.cl.rcnt c with
  | some (ek, en), some (ck, cn) => decide (ek + 1 = b) && decide (ck = ek) && decide (en ≤ cn)
  | some (ek, en), none => decide (ek + 1 = b) && decide (en = 0)
  | _, _ => false

/-- The standby applies the buffered lines of a boundary it granted, or took over with (R371, R372). -/
def applyRepl (s : State) (c k : Nat) : State :=
  if (modeOf s = 5 || s.cl.took) && (s.cl.gave.contains (c, k) || (s.cl.took && replWhole s c k)) then
    let segs := segsOf s c
    let s := { s with spl := { s.spl with refOut := s.spl.refOut.filter (fun i => !segs.contains (i / 1024)) } }
    let ls := s.cl.lines.filter (fun e => segs.contains (e.1 / 32))
    let s := ls.foldl (fun (s : State) e => (List.range 32).foldl (fun (s : State) j =>
      let i := 32 * e.1 + j
      let s := putSlot s (pendOff s true i) ((e.2[j]?).getD 0)
      { s with spl := { s.spl with refOut := sIns s.spl.refOut i } }) s) s
    { s with cl := { s.cl with lines := s.cl.lines.filter (fun e => !segs.contains (e.1 / 32)) } }
  else s

/-- The flips of a class at its boundary (R241, R248): its input except at a last old boundary that starts no scan, its
output except at a first boundary. -/
def flipClass (s : State) (c : Nat) (inp out : Bool) : State :=
  let segs := segsOf s c
  let s := applyDesc s (fun i => segs.contains (i / 1024))
  segs.foldl (fun (s : State) g =>
    let s := if inp then flipSeg s false g else s
    if out then flipSeg s true g else s) s

/-- What a boundary of a class is (R241): the old index, whether a scan starts with its index and settings, and whether
the input and the output flip. -/
structure Bnd where
  k : Nat
  start : Option Nat
  inp : Bool
  out : Bool
deriving DecidableEq, Repr

def bndOf (s : State) (c : Nat) : Bnd × ScanCls :=
  let x := clsOf s c
  let t := clsNext s c
  if !x.begun then (⟨x.next, some x.next, true, false⟩, { x with begun := true, next := x.next + 1 })
  else if !x.last then (⟨x.next, some x.next, true, true⟩, { x with next := x.next + 1 })
  else if !x.newOn then (⟨x.next, none, false, true⟩, { x with on := false, last := false, begun := false })
  else
    let k := firstK s x.newOffset x.newPeriod t
    let y := { x with period := x.newPeriod, offset := x.newOffset, last := false }
    if tOf s x.newOffset x.newPeriod k = t then (⟨x.next, some k, true, true⟩, { y with begun := true, next := k + 1 })
    else (⟨x.next, none, false, true⟩, { y with begun := false, next := k })

/-- The flips of the classes due at an instant: every class flips before any push reads (R248, R263). -/
def boundaryFlips (s : State) (cs : List (Nat × Bnd)) : State :=
  cs.foldl (fun (s : State) e =>
    let s := pullDiscard s e.1
    let s := applyRepl s e.1 e.2.k
    if (hdrOf s scn).enable then flipClass s e.1 e.2.inp e.2.out else s) s

/-- The scans that start at an instant (R246, R247, R249), then who drives. A last old boundary that starts none shows its number
all the same (R240). -/
def boundaryStarts (s : State) (t : Nat) (cs : List (Nat × Bnd)) : State :=
  cs.foldl (fun (s : State) e =>
    let c := e.1
    let s := match e.2.start with
      | none => wrF s scn SCN.CLASS_SEQ.SEQ e.2.k c
      | some k =>
        let s := wrF s scn SCN.CLASS_SEQ.SEQ k c
        let x := clsOf s c
        let s := setCls s c { x with push := rdF s scn SCN.CLASS_BUD.PUSH c, pull := rdF s scn SCN.CLASS_BUD.PULL c }
        if (hdrOf s scn).enable then
          let s := { s with scan := { s.scan with runs := s.scan.runs.filter (fun r => r.2.cls != c) } }
          (tasksOf s c).foldl (fun s t' => startTask s c k t t') s
        else s
    driveClass s c e.2.k (e.2.start.getD e.2.k) t (!e.2.out)) s

/-- The boundaries due at instant `t` (R248). -/
def boundaries (s : State) (t : Nat) : State :=
  let due := (clsOn s).filter (fun c => clsNext s c = t)
  let cs := due.map (fun c => (c, (bndOf s c).1))
  let s := boundaryFlips s cs
  let s := due.foldl (fun (s : State) c => setCls s c (bndOf s c).2) s
  let s := boundaryStarts s t cs
  let s := dmaTrigger s (cs.filterMap (fun e => e.2.start.map (fun k => (e.1, k)))) t
  if (hdrOf s scn).enable then issuePush s else s

/-- In Lockdown the hub goes on sending OUT_FLIP with HOLD at the boundaries of the classes enabled at entry (R382). -/
def lockdownBoundary (s : State) (t : Nat) : State :=
  ((clsOn s).filter (fun c => clsNext s c = t)).foldl (fun (s : State) c =>
    let x := clsOf s c
    let s := barSend s true 0x104 (c + 256) (t + x.next % 2 ^ 32 * 2 ^ 64)
    setCls s c { x with next := x.next + 1 }) s

/-- Units of the slices of an enabled task in the shadow, to its base die. -/
def unitsOf (s : State) (es : List Nat) : Nat := es.foldl (fun a e => a + eUnits (sliceAt s e)) 0

/-- A slice entry breaks R245, or has the wrong DIR for its range. -/
def sliceBad (s : State) (e : Nat) (out : Bool) : Bool :=
  let v := sliceAt s e
  bit v 63 ≠ out || (out && bit v 62) || bits v 61 48 ≠ 0 || eSig v % 32 ≠ 0 || decide (524288 < eSig v + eCnt v)
    || eLs v % 64 ≠ 0 || decide (0x20000 < eLs v + 2 * eCnt v)

/-- Check 1 of R261. A reserved MISS_ACT counts as a reserved field. -/
def descBad (s : State) (t : Nat) : Bool :=
  let w0 := descWord s t 0
  let w2 := descWord s t 2
  bit w0 52 || bits w0 45 0 ≠ 0 || decide (2 ≤ dAct w0) || bits w2 63 56 ≠ 0 || bit w2 47 || bits w2 31 24 ≠ 0 || bit w2 15
    || descWord s t 3 ≠ 0 || descWord s t 4 ≠ 0 || descWord s t 5 ≠ 0
    || decide (32768 < bits w2 14 0 + bits w2 23 16) || decide (32768 < bits w2 46 32 + bits w2 55 48)
    || (inSlices w2).any (fun e => sliceBad s e false) || (outSlices w2).any (fun e => sliceBad s e true)

/-- A failed check of R261: reason, check, base die, class, task. -/
abbrev ScnFail := Nat × Nat × Nat × Nat × Nat

/-- The tasks of a class whose shadow bit is 1. -/
def tasksSh (s : State) (c : Nat) : List Nat := (List.range 4096).filter (fun t => taskOnSh s t && dClass (descWord s t 0) = c)

/-- A check over tasks, class by class. -/
def overTasks (s : State) (reason check : Nat) (p : Nat → Nat → Bool) : Option ScnFail :=
  (List.range 8).findSome? (fun c => ((tasksSh s c).find? (p c)).map (fun t => (reason, check, 0, c, t)))

/-- A check of a class's units to each base die against a budget. -/
def overUnits (s : State) (check : Nat) (c : Nat) (units : Nat → Nat) (limit : Nat) : Option ScnFail :=
  ((List.range 4).find? (fun b => limit < ((tasksSh s c).filter (fun t => hartBase s (dHart (descWord s t 0)) = b)).foldl
    (fun a t => a + units t) 0)).map (fun b => (7, check, b, c, 0))

/-- The checks of R261, in order. -/
def scnFail (s : State) : Option ScnFail :=
  let cs := List.range 8
  let pr := fun c => shF s scn SCN.CLASS_CFG.PERIOD c
  let rw1 := fun c => shF s scn SCN.CLASS_WIN.PUSH_RW c
  let rw2 := fun c => shF s scn SCN.CLASS_WIN.PULL_RW c
  let ps := fun c => shF s scn SCN.CLASS_PULL.PULL_START c
  let on := fun c => decide (shF s scn SCN.CLASS_CFG.EN c = 1)
  let hart := fun t => dHart (descWord s t 0)
  let rel := fun t => dRelease (descWord s t 1)
  let dl := fun t => dDeadline (descWord s t 1)
  let range := cs.findSome? (fun c => if pr c < 25 || 1024000 < pr c || pr c ≤ shF s scn SCN.CLASS_OFS.OFFSET c || rw1 c < 3 || rw2 c < 3
    then some (1, 0, 0, c, 0) else none)
  let seg := if (List.range 512).any (fun g => shF s scn (segEnF (g % 8)) (g / 8) = 0 && shF s scn (segClF (g % 8)) (g / 8) ≠ 0)
    then some (1, 0, 0, 0, 0) else none
  let epoch := if (shF s scn SCN.EPOCH_LO.EPOCH ≠ rdF s scn SCN.EPOCH_LO.EPOCH || shF s scn SCN.EPOCH_HI.EPOCH ≠ rdF s scn SCN.EPOCH_HI.EPOCH)
      && (cs.any on || cs.any (fun c => rdF s scn SCN.CLASS_CFG.EN c = 1)) then some (2, 0, 0, 0, 0) else none
  let fenced := overTasks s 4 0 (fun _ t => decide (hart t < hartCount s) && (mget {} s.dies (coreDie (hartOf s (hart t)).core)).st = 2)
  let c4 := cs.findSome? (fun c =>
    match (tasksSh s c).find? (fun t => 8 * rel t < rw1 c * 4096) with
    | some t => some (7, 4, 0, c, t)
    | none => overUnits s 4 c (fun t => unitsOf s (inSlices (descWord s t 2))) (shF s scn SCN.CLASS_BUD.PUSH c * (rw1 c - 2)))
  let c5 := cs.findSome? (fun c =>
    match (tasksSh s c).find? (fun t => ps c < dl t) with
    | some t => some (7, 5, 0, c, t)
    | none =>
      match overUnits s 5 c (fun t => unitsOf s (outSlices (descWord s t 2))) (shF s scn SCN.CLASS_BUD.PULL c * (rw2 c - 2)) with
      | some f => some f
      | none => if 32000 * pr c < 8 * ps c + rw2 c * 4096 then some (7, 5, 0, c, 0) else none)
  let c6 := overTasks s 7 6 (fun c t => (outSlices (descWord s t 2)).any (fun e =>
    let v := sliceAt s e
    (List.range 512).any (fun g => decide (g * 1024 < eSig v + eCnt v) && decide (eSig v < g * 1024 + 1024) && segClassSh s g ≠ some c)))
  let sum := fun (f : Field) => (cs.filter on).foldl (fun a c => a + shF s scn f c) 0
  let c7 := (List.range 4).findSome? (fun b =>
    if rdF s (hng 0 b) HNG.TRAIN_STAT.STATE = 2 && (effGuar s 72 (2 + 2 * b) < sum SCN.CLASS_BUD.PUSH || effGuar s 73 (3 + 2 * b) < sum SCN.CLASS_BUD.PULL)
    then some (7, 7, b, 0, 0) else none)
  let chain := [range, seg, epoch, fenced, overTasks s 7 1 (fun _ t => descBad s t), overTasks s 7 2 (fun _ t => decide (hartCount s ≤ hart t)),
    overTasks s 7 3 (fun _ t => decide (dl t < rel t + 8)), c4, c5, c6, c7, overTasks s 7 8 (fun c _ => !on c)]
  chain.findSome? id

/-- A class after a commit at the present instant (R241): enabled, disabled, or changed. -/
def clsCommit (s : State) (c : Nat) (changed : Bool) : State :=
  let x := clsOf s c
  let en := rdF s scn SCN.CLASS_CFG.EN c = 1
  let p := rdF s scn SCN.CLASS_CFG.PERIOD c
  let o := rdF s scn SCN.CLASS_OFS.OFFSET c
  let fresh : ScanCls := { on := true, period := p, offset := o, next := firstK s o p (s.gtime + 1), begun := false }
  if !x.on then (if en then setCls s c fresh else s)
  else if !x.begun then (if !en then setCls s c { x with on := false } else if changed then setCls s c fresh else s)
  else if x.last || !en || changed then setCls s c { x with last := true, newOn := en, newPeriod := p, newOffset := o }
  else s

/-- SEG_MAP of every word of the segment map that a commit changed (R290). -/
def sendSegMap (s : State) (ks : List Nat) : State :=
  ks.foldl (fun (s : State) k =>
    let w := (List.range 8).foldl (fun a j => a + rdF s scn (segEnF j) k * 2 ^ (4 * j + 3) + rdF s scn (segClF j) k * 2 ^ (4 * j)) 0
    barSend s true 0x105 k w) s

/-- The manager's SETTINGS (R363): EPOCH and the class settings in effect. -/
def sendSettings (s : State) : State :=
  if clRole s = 1 then
    (List.range 4).foldl (fun (s : State) p => if rdF s (ylk p) YLK.PORT_STAT.STATE = 2 then
      ySend s p 0x06 0 true ([epochOf s] ++ (List.range 8).flatMap (fun c =>
        [rdF s scn SCN.CLASS_CFG.EN c * 2 ^ 31 + rdF s scn SCN.CLASS_CFG.PERIOD c, rdF s scn SCN.CLASS_OFS.OFFSET c])) else s) s
  else s

/-- An armed SCN commit is resolved (R58, R261): CMT_INFO names a BLOCK refusal, and an applied one governs every class
from its next boundary. -/
def scanCommit (s : State) (ovr : Option Nat) : State :=
  let f := match ovr with
    | some r => some (r, 0, 0, 0, 0)
    | none => scnFail s
  let (reason, check, base, c, t) := f.getD (0, 0, 0, 0, 0)
  let blk := reason = 7
  let s := if reason ≠ 0 then
      let s := wrF s scn SCN.CMT_INFO.CHECK (if blk then check else 0)
      let s := wrF s scn SCN.CMT_INFO.BASE (if blk then base else 0)
      let s := wrF s scn SCN.CMT_INFO.CLASS (if blk then c else 0)
      wrF s scn SCN.CMT_INFO.TASK (if blk then t else 0)
    else s
  let ch := (List.range 8).map (fun c => shF s scn SCN.CLASS_CFG.PERIOD c ≠ rdF s scn SCN.CLASS_CFG.PERIOD c
    || shF s scn SCN.CLASS_OFS.OFFSET c ≠ rdF s scn SCN.CLASS_OFS.OFFSET c)
  let set := ch.any id || (List.range 8).any (fun c => shF s scn SCN.CLASS_CFG.EN c ≠ rdF s scn SCN.CLASS_CFG.EN c)
    || shF s scn SCN.EPOCH_LO.EPOCH ≠ rdF s scn SCN.EPOCH_LO.EPOCH || shF s scn SCN.EPOCH_HI.EPOCH ≠ rdF s scn SCN.EPOCH_HI.EPOCH
  let segs := (List.range 64).filter (fun k => (List.range 8).any (fun j =>
    shF s scn (segEnF j) k ≠ rdF s scn (segEnF j) k || shF s scn (segClF j) k ≠ rdF s scn (segClF j) k))
  let s := resolve s scn reason
  if reason ≠ 0 then s
  else
    let s := (List.range 8).foldl (fun (s : State) c => clsCommit s c ((ch[c]?).getD false)) s
    let s := sendSegMap s segs
    if set then sendSettings s else s

/-- BUDGET (R259): captured at the window start at which a guarantee first falls below its sum. -/
def budgetCheck (s : State) : State :=
  let sum := fun (f : Field) => (clsOn s).foldl (fun a c => a + rdF s scn f c) 0
  let short := (List.range 4).any (fun b => rdF s (hng 0 b) HNG.TRAIN_STAT.STATE = 2 &&
    (effGuar s 72 (2 + 2 * b) < sum SCN.CLASS_BUD.PUSH || effGuar s 73 (3 + 2 * b) < sum SCN.CLASS_BUD.PULL))
  let s' := { s with scan := { s.scan with short := short } }
  if short && !s.scan.short then capture s' scn 11 else s'

/-- TASK_RELEASE (R251): GTIME reaches the earliest release; with push lines outstanding the release waits. -/
def execTaskRelease (s : State) : Res :=
  if !scanOn s then .next s
  else match soonest (s.scan.runs.filter (fun e => !e.2.relDone)) relAt with
    | none => .next s
    | some (t, r) =>
      let s := runTo s (relAt r)
      let s := { s with scan := { s.scan with runs := mput s.scan.runs t { r with relDone := true } } }
      let seq := tsWord s (64 * t + 48) % 2 ^ 32
      let o : Owe := ⟨dHart r.w0, t, r.cls, seq, dlAt r⟩
      if s.scan.push.any (fun l => l.task = t) then .next { s with scan := { s.scan with late := s.scan.late ++ [o] } }
      else .next (doRelease s o)

/-- DELAYED_RELEASE (R251): the last push line of a late task has been written. -/
def execDelayedRelease (s : State) : Res :=
  match s.scan.late.find? (fun o => !s.scan.push.any (fun l => l.task = o.task)) with
  | none => .next s
  | some o =>
    if !scanOn s then .next s
    else
      let s := { s with scan := { s.scan with late := s.scan.late.erase o } }
      .next (doRelease (countEv (capture (setFlag s o.task 5) scn 8) scn 0x13) o)

/-- TASK_DEADLINE (R252, R253, R256): GTIME reaches the earliest deadline; the task is pulled, or its outputs are written
as a miss, over what earlier pulls still have to write. -/
def execTaskDeadline (s : State) : Res :=
  if !scanOn s then .next s
  else match soonest (s.scan.runs.filter (fun e => !e.2.dlDone)) dlAt with
    | none => .next s
    | some (t, r) =>
      let s := runTo s (dlAt r)
      let s := { s with scan := { s.scan with runs := mput s.scan.runs t { r with dlDone := true } } }
      let fl := taskFlags s t
      let es := (outSlices r.w2).map (sliceAt s)
      if r.part && bit fl 0 && !bit fl 3 && !bit fl 4 && !bit fl 2 then
        let ls := es.flatMap (sliceLines s t r.cls (dHart r.w0) (dAct r.w0))
        if ls.isEmpty then .next (putTs s (64 * t + 63) 1 0)
        else .next (issuePull { s with scan := { s.scan with pull := s.scan.pull ++ ls } })
      else
        let s := if r.part && !bit fl 2 then missCount s t r.cls (dLim r.w0) else s
        .next (es.foldl (fun (s : State) e =>
          let s := { s with scan := { s.scan with pull := (List.range (eUnits e)).foldl (fun ls j =>
            unmask ls (eSig e + 32 * j) (2 ^ min 32 (eCnt e - 32 * j) - 1)) s.scan.pull } }
          (List.range (eCnt e)).foldl (fun (s : State) j => missSlot s (dAct r.w0) (eSig e + j)) s) s)

/-- TASK_CHECK_PREP_DONE (R261): the checks of one changed TASK_EN bit are prepared. -/
def execTaskCheckPrepDone (s : State) : Res := .next { s with chkBusy := s.chkBusy.drop 1 }

/-- Stores a word through TS_DATA (R243): words of an enabled descriptor are denied, status words ignored; OFFSET advances
with INC. -/
def tsStore (s : State) (hi : Nat) : State :=
  let off := rdF s scn SCN.TS_ADDR.OFFSET * 8
  let t := off / 64
  let s := if off < 0x40000 then
      if taskOn s t || taskOnSh s t then wrF s scn SCN.TS_ADDR.DENIED 1
      else if 48 ≤ off % 64 then s
      else putTs s off 8 (hi * 2 ^ 32 + s.scan.tsLo)
    else putTs s off 8 (hi * 2 ^ 32 + s.scan.tsLo)
  if rdF s scn SCN.TS_ADDR.INC = 1 then wrF s scn SCN.TS_ADDR.OFFSET (off / 8 + 1) else s

/-- A read of TS_DATA_LO loads the word; a read of TS_DATA_HI returns its upper half and advances OFFSET with INC. -/
def tsReadLo (s : State) : Nat × State :=
  let w := tsWord s (rdF s scn SCN.TS_ADDR.OFFSET * 8)
  (w % 2 ^ 32, { s with scan := { s.scan with tsHi := w / 2 ^ 32 } })
def tsReadHi (s : State) : Nat × State :=
  (s.scan.tsHi, if rdF s scn SCN.TS_ADDR.INC = 1 then wrF s scn SCN.TS_ADDR.OFFSET (rdF s scn SCN.TS_ADDR.OFFSET + 1) else s)

/-- A base-view read of HIST_SEQ (R56, R260): the live bins of the selected class are copied to its snapshot. -/
def histSeqRead (s : State) : Nat × State :=
  let c := rdF s scn SCN.HIST_SEL.CLASS
  let q := (rdF s scn SCN.HIST_SEQ.SEQ 0 (1 + c) + 1) % 256
  let s := wrF s scn SCN.HIST_SEQ.SEQ q 0 (1 + c)
  (q, (List.range 32).foldl (fun (s : State) j => wrF s scn SCN.HIST_BIN.COUNT (mget 0 s.scan.hist (c * 32 + j)) j (1 + c)) s)

/-- A write of HIST_ACK (R56): the snapshot is subtracted from the live bins, a saturated one staying saturated, and is
emptied; with another number STALE_ACK is set. -/
def histAck (s : State) (q : Nat) : State :=
  let c := rdF s scn SCN.HIST_SEL.CLASS
  if q % 256 = rdF s scn SCN.HIST_SEQ.SEQ 0 (1 + c) then
    (List.range 32).foldl (fun (s : State) j =>
      let k := c * 32 + j
      let v := mget 0 s.scan.hist k
      let s := if v = 0xFFFFFFFF then s
        else { s with scan := { s.scan with hist := mput s.scan.hist k (v - rdF s scn SCN.HIST_BIN.COUNT j (1 + c)) } }
      wrF s scn SCN.HIST_BIN.COUNT 0 j (1 + c)) s
  else staleAck s scn

/-- A write of HIST_CFG with a value that is not reserved clears the class's bins and snapshot (R260). -/
def histClear (s : State) : State :=
  let c := rdF s scn SCN.HIST_SEL.CLASS
  let s := { s with scan := { s.scan with hist := s.scan.hist.filter (fun e => e.1 / 32 != c) } }
  (List.range 32).foldl (fun (s : State) j => wrF s scn SCN.HIST_BIN.COUNT 0 j (1 + c)) s

end Sys2Proof.Machine
end

