-- ==== Sys2Proof/Machine/Field.lean ====
section
/-! DEFINITION. The isolation barrier and the field die (chapter "Field Island and Isolation Barrier"): frames and their
link protocol, the cyclic path, sessions, field ports and the watch engine. A frame sent stands in its direction's list
until the command of its type receives it; register frames stand in Machine/IoCmds.lean. -/
namespace Sys2Proof.Machine
open Sys2Proof

/-- The field die works: fitted, in service, powered (R286). -/
def fldUp (s : State) : Bool := !s.fld.held && dieUp s 24

def dirOfBar (s : State) (toField : Bool) : BDir := if toField then s.bar.toField else s.bar.toHost
def setDir (s : State) (toField : Bool) (d : BDir) : State :=
  { s with bar := if toField then { s.bar with toField := d } else { s.bar with toHost := d } }

/-- The next frame of a direction arrives if it is of one of the types given (R291); nothing arrives while a replay is
awaited. -/
def arrive (s : State) (toField : Bool) (typs : List Nat) : Option BFrame × State :=
  let d := dirOfBar s toField
  match d.out[d.got]? with
  | some f => if !d.retry && typs.contains f.typ then (some f, setDir s toField { d with got := d.got + 1 }) else (none, s)
  | none => (none, s)

/-- Frames that wait take the credits that have come back (R291). -/
def pump : Nat → BDir → BDir
  | 0, d => d
  | n + 1, d =>
    match d.wait with
    | [] => d
    | f :: r => if d.credits = 0 then d else pump n (dirSend { d with wait := [] } f |> fun (e : BDir) => { e with wait := r })

/-- LINK (R291): the oldest LINK frame on its way acknowledges the frames received and returns their credits. -/
def execLink (s : State) : Res :=
  match s.bar.links with
  | [] => .next s
  | (toField, last, cr) :: r =>
    let s := { s with bar := { s.bar with links := r } }
    let d := dirOfBar s toField
    let n := match d.out.findIdx? (fun f => f.seq = last) with
      | some i => i + 1
      | none => 0
    let d := { d with out := d.out.drop n, got := d.got - n, credits := d.credits + min cr n }
    .next (setDir s toField (pump d.wait.length d))

/-- RETRY (R291): the sender replays from the SEQ named; each replay is counted. -/
def execRetry (s : State) : Res :=
  match s.bar.retries with
  | [] => .next s
  | (toField, seq) :: r =>
    let s := { s with bar := { s.bar with retries := r, replays := s.bar.replays.filter (fun t => s.gtime < t + 3200000) ++ [s.gtime] } }
    let d := dirOfBar s toField
    let got := match d.out.findIdx? (fun f => f.seq = seq) with
      | some i => i
      | none => d.got
    .next (addF (countEv (setDir s toField { d with got := got, retry := false }) bar 0x12) bar BAR.REPLAY_CNT.COUNT)

/-- BARRIER_LINK_TIMER (R291): each end that has received frames not yet acknowledged sends LINK. -/
def execBarrierLinkTimer (s : State) : Res :=
  let one := fun (s : State) (toField : Bool) =>
    let d := dirOfBar s toField
    match (d.out.take d.got).getLast? with
    | some f => { s with bar := { s.bar with links := s.bar.links ++ [(toField, f.seq, d.got)] } }
    | none => s
  .next (one (one s true) false)

/-- BAD_BARRIER_FRAME (R290, R291). With `crc` the next frame of the direction arrives with a bad CRC or an unexpected
SEQ: it is discarded, counted on the host side, and RETRY goes back. Without, a frame of an unlisted or wrong-direction
type or with a reserved bit set is discarded, counted and acknowledged. -/
def execBadBarrierFrame (toHost crc : Bool) (s : State) : Res :=
  if !barUp s then .next s
  else if crc then
    let s := if toHost then addF s bar BAR.CRC_CNT.COUNT else s
    let d := dirOfBar s (!toHost)
    let seq := match d.out[d.got]? with
      | some f => f.seq
      | none => d.seq
    let s := setDir s (!toHost) { d with retry := decide (d.got < d.out.length) }
    .next { s with bar := { s.bar with retries := s.bar.retries ++ [(!toHost, seq)] } }
  else if toHost then .next (addF s bar BAR.BAD_TYPE.TYPE) else .next (addF s (fld 0) FLD.DROP_CNT.FRAME)

/-- A setting of the admission table's entry `n`, and of watch point `n`. -/
def se (s : State) (f : Field) (n : Nat) : Nat := rdF s (fld 0) f 0 (1 + n)
def wp (s : State) (f : Field) (n : Nat) : Nat := rdF s (fld 9) f 0 (1 + n)

/-- A field port sends and receives: enabled, its link up, its ports not stopped (R382). -/
def portOn (s : State) (p : Nat) : Bool :=
  fldUp s && !s.fld.stopped && rdF s (fld (1 + p)) FLD.PORT_CFG.EN = 1 && rdF s (fld (1 + p)) FLD.PORT_STAT.LINK = 1
/-- A frame leaves a field port; a Shadow package drives no field output (R370). -/
def portSend (s : State) (p kind : Nat) (args : List Nat) : State :=
  if portOn s p && modeOf s ≠ 5 then send s (.field p) kind args else s

def sessOf (s : State) (n : Nat) : Sess := mget {} s.fld.sess n
def sessDrop (s : State) : State := addF s (fld 0) FLD.DROP_CNT.GEN

/-- A session takes a new state; a change of state or generation is replicated (R369). -/
def setSess (s : State) (n : Nat) (x : Sess) : State :=
  let o := sessOf s n
  let s := { s with fld := { s.fld with sess := mput s.fld.sess n x } }
  let s := if o.st ≠ x.st then wrF s (fld 0) FLD.SESS_LAST.SESSION n else s
  if (o.st ≠ x.st || o.gen ≠ x.gen) && replicating s then pairSend s 0x26 [n, x.st, x.gen, x.node.getD 0] else s

/-- The session's ADMIT (R300). -/
def sendAdmit (s : State) (n : Nat) : State :=
  portSend s (se s FLD.SESS_CFG0.PORT n) 2
    [n, (sessOf s n).gen, (clsOf s (se s FLD.SESS_CFG0.CLASS n)).period, se s FLD.SESS_CFG1.CNT n, se s FLD.SESS_CFG2.CNT n]

/-- The generation advances and the node is admitted (R302). -/
def admitNode (s : State) (n node boot : Nat) : State :=
  let x := sessOf s n
  sendAdmit (setSess s n { x with st := 2, gen := (x.gen + 1) % 256, miss := 0, node := some node, boot := boot, got := false }) n

/-- The lines of a session's output as the field die sends them: its current output, or the safe copy. -/
def outSlots (s : State) (n : Nat) (safe : Bool) : List Nat :=
  (List.range (se s FLD.SESS_CFG2.CNT n)).flatMap (fun j =>
    unpackLine (mget 0 (if safe then s.fld.safe else s.fld.cur) (se s FLD.SESS_CFG2.LINE n + j)))

/-- CYC_OUT of a session (R300, R302). -/
def cycOut (s : State) (n seq : Nat) (safe : Bool) : State :=
  portSend s (se s FLD.SESS_CFG0.PORT n) 4
    ([n, (sessOf s n).gen, seq, se s FLD.SESS_CFG0.VID n, se s FLD.SESS_CFG0.PCP n] ++ outSlots s n safe)

/-- A boundary of a session (R302): three in a row without an accepted CYC_IN lose it. -/
def sessBoundary (s : State) (n : Nat) : State :=
  let x := sessOf s n
  if x.st ≠ 3 && x.st ≠ 4 then s
  else if x.got then setSess s n { x with got := false, miss := 0 }
  else
    let m := satInc 255 x.miss
    if x.st = 3 && 3 ≤ m then capture (setSess s n { x with st := 4, miss := m, lost := s.gtime }) (fld 0) 2
    else setSess s n { x with miss := m }

/-- The sessions of a class, and of every class. -/
def sessOfClass (s : State) (c : Nat) : List Nat := (s.fld.sess.map (·.1)).filter (fun n => se s FLD.SESS_CFG0.CLASS n = c)

/-- GTIME units of `ms` milliseconds. -/
def msUnits (ms : Nat) : Nat := 3200000 * ms

/-- The class of a segment as the field die's map holds it (R290). -/
def fldSegClass (s : State) (g : Nat) : Option Nat :=
  let w := mget 0 s.fld.segs (g / 8)
  if bit w (4 * (g % 8) + 3) then some (bits w (4 * (g % 8) + 2) (4 * (g % 8))) else none

/-- IN_LINE (R269): the samples of one line reach the pending input image. -/
def execInLine (s : State) : Res :=
  match arrive s false [0x101] with
  | (none, s) => .next s
  | (some f, s) =>
    let vs := unpackLine f.pay
    let s := (List.range 32).foldl (fun (s : State) j => putPend s false (32 * f.tag + j) ((vs[j]?).getD 0) false) s
    .next (meter s 75 23 1)

/-- OUT_LINE (R298): the next output values of a line. -/
def execOutLine (s : State) : Res :=
  match arrive s true [0x102] with
  | (none, s) => .next s
  | (some f, s) => .next { s with fld := { s.fld with nxt := mput s.fld.nxt f.tag f.pay } }

/-- SAFE_LINE (R299): the field die's copy of a line of the safe image. -/
def execSafeLine (s : State) : Res :=
  match arrive s true [0x103] with
  | (none, s) => .next s
  | (some f, s) => .next { s with fld := { s.fld with safe := mput s.fld.safe f.tag f.pay } }

/-- SEG_MAP (R290): a word of the segment map. -/
def execSegMap (s : State) : Res :=
  match arrive s true [0x105] with
  | (none, s) => .next s
  | (some f, s) => .next { s with fld := { s.fld with segs := mput s.fld.segs f.tag (f.pay % 2 ^ 32) } }

/-- OUT_FLIP (R298, R299, R302): the lines received for the class's segments become its current output, the others keep
theirs; each Cyclic or Lost session of the class is sent CYC_OUT, from the safe copy with HOLD; the boundary counts for
the class's sessions. -/
def execOutFlip (s : State) : Res :=
  match arrive s true [0x104] with
  | (none, s) => .next s
  | (some f, s) =>
    let c := f.tag % 8
    let hold := bit f.tag 8
    let mine := fun (l : Nat) => fldSegClass s (l / 32) = some c
    let new := s.fld.nxt.filter (fun e => mine e.1)
    let s := { s with fld := { s.fld with cur := new.foldl (fun m e => mput m e.1 e.2) s.fld.cur,
                                          nxt := s.fld.nxt.filter (fun e => !mine e.1),
                                          flips := mput s.fld.flips c (f.pay % 2 ^ 64, (clsOf s c).period) } }
    let ns := sessOfClass s c
    let s := ns.foldl (fun (s : State) n =>
      if (sessOf s n).st = 3 || (sessOf s n).st = 4 then cycOut s n (f.pay / 2 ^ 64 % 2 ^ 32) hold else s) s
    .next (ns.foldl sessBoundary s)

/-- BARRIER_TIME (R294): at a multiple of 2^20 GTIME units the host sends TIME and the field die's counter slews to
within ±3 units of the hub's; `dev` is the deviation left. -/
def execBarrierTime (dev : Int) (s : State) : Res :=
  if !barUp s || dev < -3 || 3 < dev then .next s
  else
    let s := runTo s ((s.gtime + 0xFFFFF) / 0x100000 * 0x100000)
    .next { s with dies := mput s.dies 24 { mget {} s.dies 24 with dev := dev, slew := true } }

/-- A hart's load from an I/O range ends in an error: cause 5 (R51, R159, R293). -/
def ioErr (s : State) (h : Nat) : State :=
  match (hartOf s h).cur with
  | some (.load _ _ _ rs1 imm _ k) =>
    let hyp := match k with
      | .hlv _ | .hlvx => true
      | .int _ | .fp => false
    raise s h 5 (xr (hartOf s h) rs1 + (if hyp then 0 else imm.signExtend 64))
  | _ => s

/-- The tag under which a hart waits for a field-die register. -/
def fldTag (t : Nat) : Nat := 0x10000 + t

/-- An answer that was waited for reaches a master that is no hart: the response of a command, a host read's or a site
read's completion of one word. -/
def backSend (s : State) (back : List Nat) (v : Nat) (err : Bool) : State :=
  match back with
  | [] => respond s v err
  | 0 :: r => send s .host 2 (r ++ [b2n err, 0, v])
  | _ :: r => send s .site 0x0A (r ++ [b2n err, v])

/-- A read of the field die ends in an error (R293). -/
def barRegErr (s : State) (tag : Nat) (r : BarReg) : State :=
  let s := { s with bar := { s.bar with regs := mdel s.bar.regs tag } }
  if r.hart = 0xFF then backSend s r.back 0 true
  else if (hartOf s r.hart).ioTag = some (fldTag tag) then ioErr s r.hart else s

/-- The barrier goes down (R292, R293, R299, R311): what was under way is lost, reads end in errors, lost writes are
counted, and each Cyclic session is sent one CYC_OUT from the safe copy. A firmware image being sent
is given up (R415). In Watch the package goes to Standby (R377). -/
def barDown (s : State) : State :=
  if rdF s bar BAR.LINK_STAT.STATE = 0 then s
  else
    let one := decide (rdF s bar BAR.LINK_STAT.STATE = 3)
    let s := wrF (wrF s bar BAR.LINK_STAT.STATE 0) bar BAR.LINK_STAT.CH_OK 0
    let lost := ((s.bar.toField.out ++ s.bar.toField.wait).filter (fun f => f.typ = 0x302)).length
    let s := addF s bar BAR.REG_ERR.COUNT lost
    let s := { s with bar := { s.bar with toField := {}, toHost := {}, links := [], retries := [], replays := [], presend := [],
                                          marked := [], downAt := some s.gtime },
                      fld := { s.fld with nxt := [] } }
    let s := endCode (s.bar.regs.foldl (fun (s : State) e => barRegErr s e.1 e.2) s) 0x40 stRefused
    if one then (if modeOf s = 2 then goMode s 1 2 else s)
    else
      let s := logRec (capture s bar 0) 0x50 24 0xFF []
      if fldUp s then s.fld.sess.foldl (fun (s : State) e => if e.2.st = 3 then cycOut s e.1 0 true else s) s else s

/-- BARRIER_REPLAY_LIMIT (R291): more than 16 replays within 1 ms take the barrier down. -/
def execBarrierReplayLimit (s : State) : Res :=
  if 16 < (s.bar.replays.filter (fun t => s.gtime < t + 3200000)).length then .next (barDown s) else .next s

/-- BARRIER_CHANNEL_FAIL (R288): a channel fails and takes the barrier down. -/
def execBarrierChannelFail (s : State) : Res := .next (barDown s)

/-- BARRIER_TRAIN_ATTEMPT (R292): both sides try to train the channels in `mask`; all 24 bring the barrier up, after which
every SEG_MAP and SAFE_LINE is sent again. In Standby and Watch one channel is trained (R308). -/
def execBarrierTrainAttempt (mask : Nat) (s : State) : Res :=
  let m := modeOf s
  if !fldUp s || rdF s bar BAR.LINK_STAT.STATE ≠ 0 || m = 0 || m = 7 then .next s
  else if m = 1 || m = 2 then
    if mask % 2 ^ 24 = 0 then .next s
    else .next (wrF (wrF s bar BAR.LINK_STAT.STATE 3) bar BAR.LINK_STAT.CH_OK (mask % 2 ^ 24))
  else
    let s := wrF s bar BAR.LINK_STAT.CH_OK (mask % 2 ^ 24)
    if mask % 2 ^ 24 ≠ 2 ^ 24 - 1 then .next s
    else
      let s := wrF s bar BAR.LINK_STAT.STATE 2
      let s := { s with bar := { s.bar with toField := {}, toHost := {}, full := List.range 8, downAt := none } }
      let s := capture s bar 1
      let s := sendSegMap s (List.range 64)
      .next ((List.range 16384).foldl (fun (s : State) l => barSend s true 0x103 l (safeLine s l)) s)

/-- FLD_EVENT (R293): the hub's copy of an instance's event output; the router sends a message when it is asserted. -/
def execFldEvent (s : State) : Res :=
  match arrive s false [0x401] with
  | (none, s) => .next s
  | (some f, s) =>
    let on := decide (f.pay % 2 ^ 32 ≠ 0)
    let s := { s with bar := { s.bar with evt := mput s.bar.evt f.tag on } }
    .next (if on then sendEvt s (fld f.tag) else s)

/-- The instant of the pre-send of class `c` in the scan in progress (R298). -/
def presendAt (s : State) (c : Nat) : Nat :=
  let x := clsOf s c
  tOf s x.offset x.period (x.next - 1) + 8 * rdF s scn SCN.CLASS_PULL.PULL_START c + 4096 * rdF s scn SCN.CLASS_WIN.PULL_RW c

/-- The slots that the current output of a line will hold after the next flip (R270, R298), a poisoned one as 0. -/
def nextSlots (s : State) (l : Nat) : List Nat :=
  (List.range 32).map (fun j => let i := 32 * l + j
    let (v, bad) := flipVal s true (descNext s i) i
    if bad then 0 else v)

/-- An output line of scan `k` is replicated (R369). -/
def replLine (s : State) (c k l : Nat) : State :=
  if replicating s then
    let s := pairSend s 0x23 ([c, k, l] ++ nextSlots s l)
    { s with cl := { s.cl with sent := mput s.cl.sent c (mget 0 s.cl.sent c + 1) } }
  else s

/-- An output line is sent ahead of its boundary and replicated (R298, R369). -/
def presendLine (s : State) (c k l : Nat) : State :=
  replLine (meter (barSend s true 0x102 l (packLine (nextSlots s l))) 76 22 1) c k l

/-- The lines of a class's scan have been sent: REPL_END, and with the last class of a sync PAIR_ACK (R368, R369). -/
def replEnd (s : State) (c k : Nat) (full : Bool) : State :=
  let s := pairSend s 0x27 [c, k, mget 0 s.cl.sent c, b2n full]
  if full then
    let s := { s with cl := { s.cl with sync := s.cl.sync.filter (· != c) } }
    if s.cl.sync.isEmpty then wrF (pairSend s 0x21 []) (ylk 0) YLK.PAIR_STAT.STATE 2 else s
  else s

/-- PRESEND (R298, R368, R369): the pre-send of class `c`: every line of its output segments with a refreshed slot or one
whose descriptor will force it; run again before the boundary, the lines marked since. REPL_END follows. In a sync every
line of the class goes to the standby. -/
def execPresend (c : Nat) (s : State) : Res :=
  let x := clsOf s c
  if !x.on || !x.begun || modeOf s = 5 || !scanOn s then .next s
  else
    let s := runTo s (presendAt s c)
    let first := !s.bar.presend.contains c
    let all := (segsOf s c).flatMap (fun g => (List.range 32).map (fun j => 32 * g + j))
    let lines := if first then all.filter (fun l => (List.range 32).any (fun j => s.spl.refOut.contains (32 * l + j) || bit (descNext s (32 * l + j)) 13))
      else mget [] s.bar.marked c
    let full := replicating s && s.cl.sync.contains c
    let s := if first then { s with cl := { s.cl with sent := mdel s.cl.sent c } } else s
    let s := lines.foldl (fun (s : State) l => presendLine s c (x.next - 1) l) s
    let s := if full then (all.filter (fun l => !lines.contains l)).foldl (fun (s : State) l => replLine s c (x.next - 1) l) s else s
    let s := { s with bar := { s.bar with presend := if first then s.bar.presend ++ [c] else s.bar.presend, marked := mdel s.bar.marked c } }
    .next (if replicating s && (first || full || !lines.isEmpty) then replEnd s c (x.next - 1) full else s)

/-- An unmatched HELLO is held in the announce list of 64 records (R301). -/
def announce (s : State) (a : Ann) : State :=
  let l := s.fld.anns
  let i := match l.find? (fun e => e.2.node = a.node && e.2.port = a.port) with
    | some e => e.1
    | none => match (List.range 64).find? (fun i => (mfind l i).isNone) with
      | some i => i
      | none => (l.foldl (fun (b : Nat × Nat) e => if e.2.at_ < b.2 then (e.1, e.2.at_) else b) (0, 2 ^ 64)).1
  { s with fld := { s.fld with anns := mput l i a } }

/-- A HELLO matches its entry (R301). -/
def helloMatch (s : State) (p node req inL outL : Nat) : Bool :=
  let id := se s FLD.SESS_ID_LO.ID req + se s FLD.SESS_ID_HI.ID req * 2 ^ 32
  let x := sessOf s req
  se s FLD.SESS_CFG0.EN req = 1 && se s FLD.SESS_CFG0.PORT req = p && inL = se s FLD.SESS_CFG1.CNT req && outL = se s FLD.SESS_CFG2.CNT req
    && (id = node || (id = 0 && rdF s (fld 0) FLD.ETYPE.AUTO = 1 && (x.st < 2 || x.node = none || x.node = some node)))

/-- What a HELLO does (R301, R302). -/
def hello (s : State) (p node req inL outL boot : Nat) : State :=
  let x := sessOf s req
  if helloMatch s p node req inL outL then
    let s := { s with fld := { s.fld with anns := s.fld.anns.filter (fun e => !(e.2.node = node && e.2.req = req)) } }
    if x.st = 0 || x.st = 1 then admitNode s req node boot
    else if x.st = 5 then s
    else if x.boot ≠ boot then admitNode s req node boot
    else if x.st = 2 then sendAdmit s req else s
  else
    let s := announce s ⟨node, p, inL, outL, req, s.gtime⟩
    if x.st = 0 then capture (setSess s req { x with st := 1 }) (fld 0) 0
    else if x.st = 2 || x.st = 3 || x.st = 4 then capture s (fld 0) 0 else s

/-- FIELD_HELLO (R301, R302): a node's HELLO on a port. It waits during a firmware switch (R310); a standby's sessions
come from its manager alone (R370). -/
def execFieldHello (p node req inL outL boot : Nat) (s : State) : Res :=
  if !portOn s p || modeOf s = 5 || 4096 ≤ req then .next s
  else if s.fld.switching.isSome then
    .next { s with fld := { s.fld with waiting := s.fld.waiting ++ [[p, node, req, inL, outL, boot]] } }
  else .next (hello s p node req inL outL boot)

/-- CYC_IN (R300, R302, R303): a frame of the current generation makes its session Cyclic and is sent on as IN_LINE
frames with VALID = GOOD; one of another generation or with the wrong LINES is dropped and counted. -/
def execCycIn (p n gen lines : Nat) (slots : List Nat) (s : State) : Res :=
  if !portOn s p || 4096 ≤ n then .next s
  else
    let x := sessOf s n
    if x.st < 2 || 4 < x.st || x.gen ≠ gen then .next (sessDrop s)
    else if lines ≠ se s FLD.SESS_CFG1.CNT n then .next (addF s (fld 0) FLD.DROP_CNT.FRAME)
    else
      let s := setSess s n { x with st := 3, miss := 0, got := true }
      let s := if x.st = 3 then s else capture s (fld 0) 1
      let s := { s with fld := { s.fld with polled := mput s.fld.polled n slots } }
      .next ((List.range lines).foldl (fun (s : State) j =>
        barSend s false 0x101 (se s FLD.SESS_CFG1.LINE n + j) (packLine ((slots.drop (32 * j)).take 32))) s)

/-- BYE (R302): the node ends its session. -/
def execBye (p n gen : Nat) (s : State) : Res :=
  if !portOn s p || 4096 ≤ n then .next s
  else
    let x := sessOf s n
    if x.st = 0 || (2 ≤ x.st && x.st ≤ 4 && x.gen ≠ gen) then .next (sessDrop s) else .next (setSess s n { x with st := 5 })

/-- SESSION_LOST_TIMEOUT (R302): LOST_TMO ms in Lost. -/
def execSessionLostTimeout (n : Nat) (s : State) : Res :=
  let x := sessOf s n
  if x.st ≠ 4 || rdF s bar BAR.LINK_STAT.STATE < 2 then .next s
  else .next (setSess (runTo s (x.lost + msUnits (rdF s (fld 0) FLD.LOST_TMO.MS))) n { x with st := 5 })

/-- A Removed session ends (R302): its input lines once with VALID 0, then Unknown. -/
def sessEnd (s : State) (n : Nat) : State :=
  let x := sessOf s n
  let s := (List.range (se s FLD.SESS_CFG1.CNT n)).foldl (fun (s : State) j => barSend s false 0x101 (se s FLD.SESS_CFG1.LINE n + j) 0) s
  capture (setSess s n { gen := x.gen }) (fld 0) 3

/-- SESSION_REMOVED_CLEANUP (R302): the next frame boundary of instance 0. -/
def execSessionRemovedCleanup (n : Nat) (s : State) : Res :=
  if (sessOf s n).st = 5 && fldUp s then .next (sessEnd s n) else .next s

/-- ANNOUNCE_EXPIRE (R301, R302): record `i` has seen no HELLO for 1 s. -/
def execAnnounceExpire (i : Nat) (s : State) : Res :=
  match mfind s.fld.anns i with
  | none => .next s
  | some a =>
    let s := runTo s (a.at_ + msUnits 1000)
    let s := { s with fld := { s.fld with anns := mdel s.fld.anns i } }
    let x := sessOf s a.req
    if x.st = 1 && !s.fld.anns.any (fun e => e.2.req = a.req) then .next (setSess s a.req { x with st := 0 }) else .next s

/-- FIELD_LOCAL_BOUNDARY (R302): with the barrier down the field die counts the boundaries of a class on its own time and
applies the rows for Cyclic to Lost and Lost to Removed; it sends nothing. -/
def execFieldLocalBoundary (c : Nat) (s : State) : Res :=
  match mfind s.fld.flips c with
  | none => .next s
  | some (t, p) =>
    if rdF s bar BAR.LINK_STAT.STATE ≠ 0 || !fldUp s then .next s
    else
      let t' := t + 32000 * p
      let s := runTo s t'
      let s := { s with fld := { s.fld with flips := mput s.fld.flips c (t', p) } }
      .next ((sessOfClass s c).foldl (fun (s : State) n =>
        let x := sessOf s n
        if x.st = 4 && x.lost + msUnits (rdF s (fld 0) FLD.LOST_TMO.MS) ≤ s.gtime then setSess s n { x with st := 5 } else sessBoundary s n) s)

/-- The priority1 a port advertises (R296). -/
def prio1 (s : State) (p : Nat) : Nat := if modeOf s = 5 then 255 else rdF s (fld (1 + p)) FLD.PORT_CFG.PRIO1

/-- GM_ANNOUNCE (R296): another grandmaster's announcement with its priority1, and whether the rest of the best master
clock comparison prefers it at equal priority. A better one makes the port passive. -/
def execGmAnnounce (p prio : Nat) (tie : Bool) (s : State) : Res :=
  if !portOn s p || s.fld.switching.isSome then .next s
  else if prio < prio1 s p || (prio = prio1 s p && tie) then
    if rdF s (fld (1 + p)) FLD.PORT_STAT.ROLE = 3 then .next s
    else .next (capture (wrF s (fld (1 + p)) FLD.PORT_STAT.ROLE 3) (fld (1 + p)) 0)
  else .next s

/-- ANNOUNCEMENTS_STOP (R296): the other grandmaster is heard no more. -/
def execAnnouncementsStop (p : Nat) (s : State) : Res :=
  if rdF s (fld (1 + p)) FLD.PORT_STAT.ROLE = 3 then .next (wrF s (fld (1 + p)) FLD.PORT_STAT.ROLE 1) else .next s

/-- PTP_SYNC_SEND (R296): a master port sends a sync message with the field die's time. -/
def execPtpSyncSend (p : Nat) (s : State) : Res :=
  if portOn s p && rdF s (fld (1 + p)) FLD.PORT_STAT.ROLE = 1 && s.fld.switching.isNone then
    .next (send s (.field p) 0x101 [((s.gtime : Int) + (mget {} s.dies 24).dev).toNat, prio1 s p])
  else .next s

/-- The 802.1AS role of a port follows its enable and its link (R296). -/
def portRole (s : State) (p : Nat) : State :=
  let b := fld (1 + p)
  if rdF s b FLD.PORT_CFG.EN = 1 && rdF s b FLD.PORT_STAT.LINK = 1 then
    (if rdF s b FLD.PORT_STAT.ROLE = 0 then wrF s b FLD.PORT_STAT.ROLE 1 else s)
  else wrF s b FLD.PORT_STAT.ROLE 0

/-- FIELD_PORT_LINK_CHANGE (R295, R296). -/
def execFieldPortLinkChange (p : Nat) (up : Bool) (s : State) : Res :=
  if !fldUp s || 8 ≤ p then .next s else .next (portRole (wrF s (fld (1 + p)) FLD.PORT_STAT.LINK (b2n up)) p)

/-- The enabled watch points. -/
def watchPoints (s : State) : List Nat := (List.range 256).filter (fun n => wp s FLD.WP_CFG.EN n = 1)

/-- WATCH_WAKE_TIMER (R306): the watch engine wakes: a boundary for every session, and a POLL to each session that holds
an enabled watch point. -/
def execWatchWakeTimer (s : State) : Res :=
  match s.fld.wakeAt with
  | none => .next s
  | some t =>
    if modeOf s ≠ 2 || rdF s (fld 9) FLD.WATCH_CFG.EN = 0 || !fldUp s then .next s
    else
      let s := runTo s t
      let s := (s.fld.sess.map (·.1)).foldl sessBoundary s
      let s := { s with fld := { s.fld with wakeAt := some (t + msUnits (rdF s (fld 9) FLD.WATCH_CFG.PERIOD_MS)), pollAt := some (t + msUnits 2), polled := [] } }
      let ns := ((watchPoints s).map (fun n => wp s FLD.WP_CFG.SESSION n)).eraseDups
      .next (ns.foldl (fun (s : State) n => portSend s (se s FLD.SESS_CFG0.PORT n) 6 [n, (sessOf s n).gen, 0]) s)

/-- One watch point after the wait (R307): the crossing with its cause (R309) and value, if any. -/
def watchPoint (s : State) (n : Nat) : Option (Nat × Option Nat) × State :=
  let sn := wp s FLD.WP_CFG.SESSION n
  match mfind s.fld.polled sn with
  | none =>
    let m := mget 0 s.fld.missP n + 1
    (if 3 ≤ m && wp s FLD.WP_CFG.WAKE_LOSS n = 1 then some (3, none) else none, { s with fld := { s.fld with missP := mput s.fld.missP n m } })
  | some slots =>
    let s := { s with fld := { s.fld with missP := mdel s.fld.missP n } }
    let v := (slots[wp s FLD.WP_CFG.SLOT n]?).getD 0
    if !bit v 15 then (none, s)
    else
      let g := fun (x : Nat) => if wp s FLD.WP_CFG.SIGNED n = 1 then toSigned12 x else (x : Int)
      let x := v % 4096
      let roc := wp s FLD.WP_ROC.ROC n
      let jump := match mfind s.fld.prev n with
        | some p => roc ≠ 0 && decide ((roc : Int) < ((g x - g p).natAbs : Int))
        | none => false
      let c := if g (wp s FLD.WP_LIM.HI n) < g x then some (0, some x)
        else if g x < g (wp s FLD.WP_LIM.LO n) then some (1, some x)
        else if jump then some (2, some x) else none
      (c, { s with fld := { s.fld with prev := mput s.fld.prev n x } })

/-- WATCH_POLL_TIMEOUT (R307, R308): the 2 ms are over; the points are evaluated in ascending order and the lowest
crossing is recorded and reported. A lost session gives no sample: the value reported is open (assumption log 1). -/
def execWatchPollTimeout (s : State) : Res :=
  match s.fld.pollAt with
  | none => .next s
  | some t =>
    let s := { runTo s t with fld := { s.fld with pollAt := none } }
    let (found, s) := (watchPoints s).foldl (fun (a : Option (Nat × Nat × Option Nat) × State) n =>
      let (c, s) := watchPoint a.2 n
      (match a.1, c with
        | none, some x => some (n, x)
        | o, _ => o, s)) (none, s)
    match found with
    | none => .next s
    | some (n, cause, v) =>
      let (x, s) := match v with
        | some x => (x, s)
        | none => draw s
      let b := fld 9
      let s := wrF (wrF (wrF (wrF s b FLD.WAKE_INFO.VALID 1) b FLD.WAKE_INFO.CAUSE cause) b FLD.WAKE_INFO.POINT n) b FLD.WAKE_INFO.VALUE x
      let s := { s with fld := { s.fld with wakeAt := none } }
      .next (barSend s false 0x501 n (x % 4096 + cause * 2 ^ 16))

/-- The field die is held in reset with its pins floating, or restarts (R286): its registers and sessions return to
their reset values; its MRAM banks keep. -/
def fldReset (s : State) (held : Bool) : State :=
  let s := barDown { s with fld := { s.fld with held := true } }
  { clearDie s 24 with fld := { held := held }, bar := { s.bar with evt := [] } }

/-- VFLD_OUT_OF_RANGE (R286, R377): in Watch the package goes to Standby. -/
def execVfldOutOfRange (s : State) : Res :=
  if s.fld.held then .next s
  else
    let s := fldReset s true
    if modeOf s = 2 then .next (goMode s 1 2) else .next s

/-- VFLD_IN_RANGE (R286): the firmware starts and the barrier trains. -/
def execVfldInRange (s : State) : Res := if s.fld.held then .next { s with fld := { held := false } } else .next s

/-- FW_DATA (R310): a block of an image reaches the unused bank; an FW_ACK answers, with an error where the bank could not be
written. -/
def execFwData (err : Bool) (s : State) : Res :=
  match arrive s true [0x601] with
  | (none, s) => .next s
  | (some f, s) =>
    let s : State := if err then s else { s with fld := { s.fld with img := mput s.fld.img (f.pay / 2 ^ 384 % 2 ^ 32) (f.pay % 2 ^ 384) } }
    .next (barSend s false 0x602 (f.tag % 65536 + 65536 * b2n err) 0)

end Sys2Proof.Machine
end

