-- ==== Sys2Proof/Machine/Io.lean ====
section
/-! DEFINITION. The Service Endpoint and the root ports (chapter "Service Endpoint and Root Ports"): requests of the hub
that wait for a completion (R157, R159), the host window, the function's resets, MSI-X, windows, and device requests with
their contexts. Completions and the host's requests into the package stand in Machine/IoCmds.lean. -/
namespace Sys2Proof.Machine
open Sys2Proof

/-- A packet for root port `p`: into its wake buffer while its domain sleeps (R160), else out of the package. -/
def rcxSend (s : State) (p kind : Nat) (args : List Nat) : State :=
  if domState s 0 p = 0 then send s (.rcx p) kind args
  else
    let s := wakeFor s 0 p none
    let d := mget {} s.doms (domKey 0 p)
    { s with doms := mput s.doms (domKey 0 p) { d with heldTx := d.heldTx ++ [⟨.rcx p, kind, args⟩] } }

/-- A non-posted request is issued under the lowest free tag (R157): the tag, and the state that waits. -/
def ioStart (s : State) (w : Who) (pa size port link gen : Nat) (cfg : Bool) : Nat × State :=
  let tag := ((List.range 1024).find? (fun t => (mfind s.iot t).isNone)).getD 0
  (tag, { s with iot := mput s.iot tag ⟨w.hart, w.num, w.sec, pa, size, port, link, gen, cfg, s.gtime⟩ })

/-- The generation the hub holds for a tag. -/
def tagGen (s : State) (tag : Nat) : Nat := mget 0 s.ioGen tag
def bumpTag (s : State) (tag : Nat) : State := { s with ioGen := mput s.ioGen tag ((tagGen s tag + 1) % 256) }

/-- A waiting request ends: the hart that waits for it takes an access fault (R159). -/
def ioFail (s : State) (tag : Nat) : State :=
  match mfind s.iot tag with
  | none => s
  | some t =>
    let s := { s with iot := mdel s.iot tag }
    if t.hart < hartCount s && (hartOf s t.hart).ioTag = some tag then ioErr s t.hart
    else if t.hart = 0xFF then respond s 0 true else s

/-- The header of a request, as XFB.ERR_HDR records it (R157): the port numbers are open (assumption log 1). -/
def hdrOfTxn (s : State) (tag : Nat) (t : IoTxn) : Nat × State :=
  let (a, s) := draw s
  let (b, s) := draw s
  let (g, s) := draw s
  ((a % 65536) * 2 ^ 112 + (b % 65536) * 2 ^ 96 + t.num % 128 * 2 ^ 89 + 5 * 2 ^ 84 + b2n t.sec * 2 ^ 83
    + pclassOf s (rdF s bwr BWR.MCFG.PCLASS t.num) * 2 ^ 79 + g % 4 * 2 ^ 77 + t.gen % 256 * 2 ^ 66 + tag % 1024 * 2 ^ 56 + t.addr % 2 ^ 48, s)

/-- The links of a root port (R346). -/
def linksOf (mode : Nat) : List Nat :=
  match mode with
  | 0 => [0]
  | 1 => [0, 2]
  | 2 => [0, 2, 3]
  | 3 => [0, 1, 2]
  | 4 => [0, 1, 2, 3]
  | _ => []

def portLinks (s : State) (p : Nat) : List Nat := linksOf (rdF s (rcx p) RCX.LINK_CFG.MODE)
def linkUp (s : State) (p l : Nat) : Bool := bit (rdF s (rcx p) RCX.LINK_CFG.UP) l
/-- A dword of a link's Type 1 header. -/
def bridge (s : State) (p l dw : Nat) : Nat := mget 0 s.io.bridge ((p * 4 + l) * 64 + dw)

/-- The bridge windows of a link claim a PCI Express address: memory base and limit, or prefetchable base and limit, with
Memory Space Enable (the Type 1 header of the PCI Express Base Specification; assumption log 12). -/
def claims (s : State) (p l a : Nat) : Bool :=
  let m := bridge s p l 8
  let q := bridge s p l 9
  let lo := bits m 15 4 * 2 ^ 20
  let hi := bits m 31 20 * 2 ^ 20 + 0xFFFFF
  let plo := bits q 15 4 * 2 ^ 20 + bridge s p l 10 * 2 ^ 32
  let phi := bits q 31 20 * 2 ^ 20 + 0xFFFFF + bridge s p l 11 * 2 ^ 32
  bit (bridge s p l 1) 1 && ((decide (lo ≤ a) && decide (a ≤ hi)) || (decide (plo ≤ a) && decide (a ≤ phi)))

/-- The link whose secondary buses hold a bus number. -/
def busLink (s : State) (p bus : Nat) : Option Nat :=
  (portLinks s p).find? (fun l => linkUp s p l && decide (bits (bridge s p l 6) 15 8 ≤ bus) && decide (bus ≤ bits (bridge s p l 6) 23 16))

/-- A dword of a root port's own configuration space: the registers modelled are the command, the bus numbers and the
windows; the value of any other is open (assumption logs 1, 12). -/
def bridgeReg (dw : Nat) : Bool := dw = 1 || dw = 6 || (8 ≤ dw && dw ≤ 11)

/-- A read of root port `p`'s window (R345-R348). -/
def rootRead (s : State) (w : Who) (pa size : Nat) : IoAns × State :=
  let p := (pa - 0x0E00_0000_0000) / 0x30_0000_0000
  let o := (pa - 0x0E00_0000_0000) % 0x30_0000_0000
  let go := fun (l : Nat) (cfg : Bool) (s : State) =>
    let (tag, s) := ioStart s w pa size p l 0 cfg
    let g := tagGen s tag
    let s := match mfind s.iot tag with
      | some t => { s with iot := mput s.iot tag { t with gen := g } }
      | none => s
    (IoAns.wait tag, rcxSend s p 1 [tag, g, b2n cfg, l, o, size])
  if o < 0x1000_0000 then
    let bus := bits o 27 20
    let l := bits o 19 15
    if size = 8 then (.err, addF s (rcx p) RCX.UR_CNT.COUNT)
    else if bus = 0 then
      if (portLinks s p).contains l && bits o 14 12 = 0 then
        let dw := bits o 11 2
        if bridgeReg dw then (.val (bridge s p l dw / 2 ^ (8 * (o % 4)) % 2 ^ (8 * size)), s)
        else let (v, s) := draw s; (.val (v % 2 ^ (8 * size)), s)
      else (.val (2 ^ (8 * size) - 1), s)
    else match busLink s p bus with
      | some l => go l true s
      | none => (.val (2 ^ (8 * size) - 1), s)
  else match (portLinks s p).find? (fun l => linkUp s p l && claims s p l o) with
    | some l => go l false s
    | none => (.err, addF s (rcx p) RCX.UR_CNT.COUNT)

/-- A write of root port `p`'s window. -/
def rootWrite (s : State) (pa size v : Nat) : State :=
  let p := (pa - 0x0E00_0000_0000) / 0x30_0000_0000
  let o := (pa - 0x0E00_0000_0000) % 0x30_0000_0000
  if o < 0x1000_0000 then
    let bus := bits o 27 20
    let l := bits o 19 15
    if size = 8 then addF s (rcx p) RCX.UR_CNT.COUNT
    else if bus = 0 then
      let dw := bits o 11 2
      if (portLinks s p).contains l && bits o 14 12 = 0 && bridgeReg dw then
        let old := bridge s p l dw
        let m := (2 ^ (8 * size) - 1) * 2 ^ (8 * (o % 4))
        let new := (old - (old &&& m)) + (v * 2 ^ (8 * (o % 4)) &&& m)
        { s with io := { s.io with bridge := mput s.io.bridge ((p * 4 + l) * 64 + dw) (new % 2 ^ 32) } }
      else s
    else match busLink s p bus with
      | some l => rcxSend s p 0 [l, 1, o, size, v]
      | none => s
  else match (portLinks s p).find? (fun l => linkUp s p l && claims s p l o) with
    | some l => rcxSend s p 0 [l, 0, o, size, v]
    | none => addF s (rcx p) RCX.UR_CNT.COUNT

/-- The endpoint may issue requests (R337): link up, D0, Bus Master Enable. -/
def sepCan (s : State) : Bool :=
  fitsBlock s.variant sep && rdF s sep SEP.STAT.LINK_UP = 1 && rdF s sep SEP.STAT.DSTATE = 0 && rdF s sep SEP.STAT.BME = 1

/-- The host address of an address in the host window (R337). -/
def hostAddr (s : State) (pa : Nat) : Nat :=
  rdF s sep SEP.OB_BASE_LO.ADDR / 4096 * 4096 + rdF s sep SEP.OB_BASE_HI.ADDR * 2 ^ 32 + (pa - 0x0EC0_0000_0000)

/-- A hart's read through the host window (R337, R342); above the function's generation it carries that of its tag. -/
def hostRead (s : State) (w : Who) (pa size : Nat) : IoAns × State :=
  if sepCan s then
    let g := rdF s sep SEP.STAT.GEN
    let (tag, s) := ioStart s w pa size 4 0 g false
    let g := g + 256 * tagGen s tag
    let s := match mfind s.iot tag with
      | some t => { s with iot := mput s.iot tag { t with gen := g } }
      | none => s
    (.wait tag, send s .host 1 [tag, g, hostAddr s pa, size])
  else (.err, addF s sep SEP.ABORT_CNT.COUNT)

def hostWrite (s : State) (pa size v : Nat) : State :=
  if sepCan s then send s .host 0 [hostAddr s pa, size, v] else addF s sep SEP.ABORT_CNT.COUNT

/-- The requests outstanding to one place. -/
def waitingAt (s : State) (p : IoTxn → Bool) : List Nat := (s.iot.filter (fun e => p e.2)).map (·.1)

/-- Outstanding host reads end as ABORTED (R342). -/
def abortHost (s : State) : State :=
  (waitingAt s (fun t => t.port = 4)).foldl (fun (s : State) t => addF (ioFail s t) sep SEP.ABORT_CNT.COUNT) s

/-- The function generation advances (R341). -/
def sepGen (s : State) : State := wrF s sep SEP.STAT.GEN (rdF s sep SEP.STAT.GEN + 1)

/-- AER reports an error to the host (R334, R338, R339): 0 Unsupported Request, 1 Completion Timeout, 2 Poisoned TLP. -/
def aer (s : State) (n : Nat) : State := send s .host 3 [n]

/-- Vector `n` is masked in the table, by the function mask, or MSI-X is off. -/
def vecMasked (s : State) (n : Nat) : Bool :=
  !s.io.msixEn || s.io.msixMask || bit (byteAt s.io.msix (16 * n + 12)).toNat 0

/-- An MSI-X vector is sent, or its pending bit set (R340). -/
def msixSend (s : State) (n : Nat) : State :=
  if sepCan s && !vecMasked s n then
    send { s with io := { s.io with pend := sDel s.io.pend n } } .host 4 [n, readBytes s.io.msix (16 * n) 8, readBytes s.io.msix (16 * n + 8) 4]
  else { s with io := { s.io with pend := sIns s.io.pend n } }

/-- HOST_IRQ has been written (R340, R344). -/
def hostIrq (s : State) (v : Nat) : State :=
  let s := if v % 32 ≠ 0 then msixSend s (v % 32) else s
  if bit v 31 then
    let s := if rdF s sep SEP.STAT.DSTATE = 3 then send s .host 5 [] else s
    if rdF s sep SEP.STAT.PERST = 1 then send { s with io := { s.io with wake := true } } .pin 1 [0] else s
  else s

/-- The descriptor table is rebuilt (R333): SEQ advances and vector 0 is sent. -/
def romRebuild (s : State) : State := msixSend { s with io := { s.io with romSeq := (s.io.romSeq + 1) % 65536 } } 0

/-- The settings of window `w`. -/
def winTgt (s : State) (w : Nat) : Nat := rdF s sep SEP.WIN_LO.TGT w * 4096 + rdF s sep SEP.WIN_HI.TGT w * 2 ^ 32
def winExp (s : State) (w : Nat) : Nat := rdF s sep SEP.WIN_LO.SIZE_EXP w
def winOfs (s : State) (w : Nat) : Nat := rdF s sep SEP.WIN_OFS.OFS w * 4096
def winEn (s : State) (w : Nat) : Bool := rdF s sep SEP.WIN_CTRL.EN w = 1
def barExp (s : State) (b : Nat) : Nat := if b = 0 then s.io.bar2 else s.io.bar4
def barSize (s : State) (b : Nat) : Nat := if barExp s b = 0 then 0 else 2 ^ barExp s b

/-- A window may not be enabled (R335). -/
def winBad (s : State) (w : Nat) : Bool :=
  let e := winExp s w
  let t := winTgt s w
  let last := t + 2 ^ e - 1
  let z := zoneOf s t
  let inside := zoneOf s last = z && (z = .hbm || z = .ddr || z = .aliasWin || (z = .view && t / 0x400_0000 = last / 0x400_0000))
  let b := rdF s sep SEP.WIN_CTRL.BAR w
  e < 12 || 40 < e || t % 2 ^ e ≠ 0 || !inside || winOfs s w % 2 ^ e ≠ 0 || barSize s b < winOfs s w + 2 ^ e
    || (List.range 32).any (fun v => v ≠ w && winEn s v && rdF s sep SEP.WIN_CTRL.BAR v = b
        && decide (winOfs s v < winOfs s w + 2 ^ e) && decide (winOfs s w < winOfs s v + 2 ^ winExp s v))

/-- The registers of window `w` have been written; `was` is whether it was enabled before (R333, R335). -/
def winWritten (s : State) (w : Nat) (was : Bool) : State :=
  let s := if winEn s w && !was && winBad s w then wrF (wrF s sep SEP.WIN_CTRL.EN 0 w) sep SEP.WIN_CTRL.REFUSED 1 w
    else if winEn s w && !was then wrF s sep SEP.WIN_CTRL.REFUSED 0 w else s
  if winEn s w || was then romRebuild s else s

/-- The steps of a function reset (R343): the generation advances, outstanding reads end as ABORTED, and the configuration
space, the MSI-X table and the doorbells return to their reset values; a PERST# or a hot reset applies BAR_CFG. -/
def sepReset (s : State) (bars : Bool) : State :=
  let s := abortHost (sepGen s)
  let s := wrF (wrF (wrF s sep SEP.DB_PEND.PEND 0) sep SEP.STAT.BME 0) sep SEP.STAT.MSE 0
  let s := wrF s sep SEP.STAT.DSTATE 0
  let io : Io := { s.io with bars := [], msix := ({} : Io).msix, msixEn := false, msixMask := false, pend := [], cto := 50000 }
  let io : Io := if bars then { io with bar2 := rdF s sep SEP.BAR_CFG.BAR2_EXP, bar4 := rdF s sep SEP.BAR_CFG.BAR4_EXP } else io
  { s with io := io }

/-- BME_CLEAR (R341, R342): the host clears Bus Master Enable. -/
def execBmeClear (s : State) : Res :=
  if rdF s sep SEP.STAT.BME = 0 then .next s
  else .next (capture (abortHost (sepGen (wrF s sep SEP.STAT.BME 0))) sep 1)

/-- FLR (R343): the host writes Initiate Function Level Reset; FLR_DONE ends it. -/
def execFlr (s : State) : Res :=
  if rdF s sep SEP.STAT.LINK_UP = 0 then .next s
  else
    let s := sepReset s false
    .next { s with io := { s.io with flr := true } }

/-- FLR_DONE (R343): the function level reset is complete within 1 ms and FLR is captured. -/
def execFlrDone (s : State) : Res :=
  if s.io.flr then .next (capture { s with io := { s.io with flr := false } } sep 0) else .next s

/-- PERST_ASSERT (R343, R344, R352): the reset steps, the capture of FLR among them, with BAR_CFG (assumption log 78); a Function Level Reset in progress is abandoned. -/
def execPerstAssert (s : State) : Res :=
  if !fitsBlock s.variant sep || rdF s sep SEP.STAT.PERST = 1 then .next s
  else
    let s := sepReset s true
    let s := wrF (wrF s sep SEP.STAT.LINK_UP 0) sep SEP.STAT.PERST 1
    let s := wrF (wrF s sep SEP.STAT.SPEED 0) sep SEP.STAT.WIDTH 0
    .next (capture (capture { s with io := { s.io with flr := false } } sep 0) sep 4)

/-- PERST_DEASSERT (R344): WAKE# is released and the link may train. -/
def execPerstDeassert (s : State) : Res :=
  if rdF s sep SEP.STAT.PERST = 0 then .next s
  else
    let s := wrF s sep SEP.STAT.PERST 0
    if !s.io.wake then .next s
    else if s.wd.wakeAt.isSome then .next { s with io := { s.io with wake := false } }
    else .next (send { s with io := { s.io with wake := false } } .pin 1 [1])

/-- HOT_RESET (R343): the same steps, the capture of FLR among them, with BAR_CFG (assumption log 78). -/
def execHotReset (s : State) : Res :=
  if rdF s sep SEP.STAT.LINK_UP = 0 then .next s
  else
    let s := sepReset s true
    .next (capture { s with io := { s.io with flr := false } } sep 0)

/-- SEP_LINK_UP (R330): the endpoint link trains while the hub's main domain is powered and PERST# is deasserted. -/
def execSepLinkUp (speed width : Nat) (s : State) : Res :=
  if !fitsBlock s.variant sep || rdF s sep SEP.STAT.PERST = 1 || modeOf s < 3 then .next s
  else .next (wrF (wrF (wrF s sep SEP.STAT.LINK_UP 1) sep SEP.STAT.SPEED speed) sep SEP.STAT.WIDTH width)

/-- SEP_LINK_DOWN (R341): the link goes to DL_Down; the reads it carried can no longer complete. -/
def execSepLinkDown (s : State) : Res :=
  if rdF s sep SEP.STAT.LINK_UP = 0 then .next s
  else
    let s := wrF (wrF (wrF s sep SEP.STAT.LINK_UP 0) sep SEP.STAT.SPEED 0) sep SEP.STAT.WIDTH 0
    .next (sepGen s)

/-- DSTATE_CHANGE (R344): the host moves the function to D0 or D3hot. -/
def execDstateChange (d3 : Bool) (s : State) : Res :=
  let d := if d3 then 3 else 0
  if rdF s sep SEP.STAT.LINK_UP = 0 || rdF s sep SEP.STAT.DSTATE = d then .next s
  else .next (capture (wrF s sep SEP.STAT.DSTATE d) sep 2)

/-- MSIX_PENDING_SEND (R340): the lowest pending vector that can now be sent is sent. -/
def execMsixPendingSend (s : State) : Res :=
  match s.io.pend.find? (fun n => sepCan s && !vecMasked s n) with
  | some n => .next (msixSend s n)
  | none => .next s

/-- DOORBELL_WRITE (R331): a host write to doorbell `n` of BAR0. -/
def doorbell (s : State) (n : Nat) : State :=
  capture (wrF s sep SEP.DB_PEND.PEND (rdF s sep SEP.DB_PEND.PEND ||| 2 ^ n)) sep 3

/-- The host reaches the function: link up, D0, Memory Space Enable, out of a Function Level Reset. -/
def hostReach (s : State) : Bool :=
  rdF s sep SEP.STAT.LINK_UP = 1 && rdF s sep SEP.STAT.DSTATE = 0 && rdF s sep SEP.STAT.MSE = 1 && !s.io.flr

def execDoorbellWrite (n : Nat) (s : State) : Res := if hostReach s && n < 32 then .next (doorbell s n) else .next s

/-- One link of a port goes to DL_Down (R348): its generation advances, its reads end in errors, writes not yet sent are
dropped and counted. -/
def rcxDown (s : State) (p l : Nat) : State :=
  if !linkUp s p l then s
  else
    let up := rdF s (rcx p) RCX.LINK_CFG.UP
    let s := wrF s (rcx p) RCX.LINK_CFG.UP (up - 2 ^ l)
    let s := { s with io := { s.io with lgen := mput s.io.lgen (p * 4 + l) (mget 0 s.io.lgen (p * 4 + l) + 1) } }
    let s := (waitingAt s (fun t => t.port = p && t.link = l)).foldl (fun (s : State) t => bumpTag (ioFail s t) t) s
    let d := mget {} s.doms (domKey 0 p)
    let gone := d.heldTx.filter (fun m => m.kind = 0 && m.args.head? = some l)
    let ofLink := fun (m : Tx) => (m.kind = 0 && m.args.head? = some l) || (m.kind = 1 && m.args[3]? = some l)
    let s := { s with doms := mput s.doms (domKey 0 p) { d with heldTx := d.heldTx.filter (fun m => !ofLink m) } }
    capture (addF s (rcx p) RCX.UR_CNT.COUNT gone.length) (rcx p) 1

/-- RCX_LINK_DOWN (R348). -/
def execRcxLinkDown (p l : Nat) (s : State) : Res := if p < 4 && l < 4 then .next (rcxDown s p l) else .next s

/-- RCX_LINK_UP (R346, R348): a link of the port's mode comes up unless held. -/
def execRcxLinkUp (p l : Nat) (s : State) : Res :=
  if 4 ≤ p || !(portLinks s p).contains l || linkUp s p l || rdF s (rcx p) RCX.LINK_CFG.HOLD = 1 || modeOf s < 3 then .next s
  else .next (capture (wrF s (rcx p) RCX.LINK_CFG.UP (rdF s (rcx p) RCX.LINK_CFG.UP + 2 ^ l)) (rcx p) 1)

/-- LINK_CFG.HOLD is 1 (R346): every link of the port is down. -/
def rcxHold (s : State) (p : Nat) : State :=
  if rdF s (rcx p) RCX.LINK_CFG.HOLD = 1 then (List.range 4).foldl (fun (s : State) l => rcxDown s p l) s else s

/-- A write of RCX.CTX_INV (R349); while BUSY it is ignored. -/
def rcxCtxInv (s : State) (p : Nat) (all : Bool) (vmid : Nat) : State :=
  if (mfind s.io.inv p).isSome then s
  else wrF { s with io := { s.io with inv := mput s.io.inv p (if all then none else some vmid) } } (rcx p) RCX.CTX_INV.BUSY 1

/-- RCX_CTX_INV_DONE (R349): contexts and translations of the VMID, or all, are gone. -/
def execRcxCtxInvDone (p : Nat) (s : State) : Res :=
  match mfind s.io.inv p with
  | none => .next s
  | some v =>
    let ctx := (mget [] s.io.ctx p).filter (fun c => match v with
      | none => false
      | some m => bits c.w1 57 44 != m)
    let tlb := (mget [] s.io.tlb p).filter (fun c => match v with
      | none => false
      | some m => c.vmid != m)
    .next (wrF { s with io := { s.io with inv := mdel s.io.inv p, ctx := mput s.io.ctx p ctx, tlb := mput s.io.tlb p tlb } }
      (rcx p) RCX.CTX_INV.BUSY 0)

/-- A device's failed request is recorded (R351): REASON 4 invalid context, 5 interrupt message refused. -/
def devFault (s : State) (p link rid a reason : Nat) (wr : Bool) : State :=
  let b := rcx p
  let s := if rdF s b RCX.FAULT_INFO.VALID = 1 then wrF s b RCX.FAULT_INFO.OVER 1
    else
      let s := wrF (wrF s b RCX.FAULT_ADDR_LO.ADDR a) b RCX.FAULT_ADDR_HI.ADDR (a / 2 ^ 32)
      let s := wrF (wrF s b RCX.FAULT_INFO.VALID 1) b RCX.FAULT_INFO.REASON reason
      wrF (wrF (wrF s b RCX.FAULT_INFO.WRITE (b2n wr)) b RCX.FAULT_INFO.LINK link) b RCX.FAULT_INFO.RID rid
  capture s b 2

/-- The context entry of a requester, from the cache while it happens to be held, else read (R349). -/
def devCtx (s : State) (p rid : Nat) : DevCtx × State :=
  let (c, s) := draw s
  match if c % 2 = 1 then (mget [] s.io.ctx p).find? (fun e => e.rid = rid) else none with
  | some e => (e, s)
  | none =>
    let a := rdF s (rcx p) RCX.DCT_LO.BASE * 2 ^ 20 + rdF s (rcx p) RCX.DCT_HI.BASE * 2 ^ 32 + 16 * rid
    let w : Who := { num := 78 + p }
    if !isMem (zoneOf s a) then (⟨rid, 0, 0⟩, s)
    else
      let ((w0, bad0), s) := ioReadMem s w a 8
      let ((w1, bad1), s) := ioReadMem s w (a + 8) 8
      if bad0 || bad1 then (⟨rid, 0, 0⟩, s)
      else
        let e : DevCtx := ⟨rid, w0, w1⟩
        (e, { s with io := { s.io with ctx := mput s.io.ctx p (e :: mget [] s.io.ctx p) } })

/-- A context is valid (R349). -/
def ctxOk (s : State) (p : Nat) (e : DevCtx) : Bool :=
  let mode := e.w1 / 2 ^ 60
  rdF s (rcx p) RCX.DCT_LO.EN = 1 && bit e.w0 0 && bits e.w0 3 3 = 0 && e.w0 / 256 = 0 && bits e.w0 7 4 ≤ 7
    && (mode = 0 || mode = 8 || mode = 9) && !(bit e.w0 1 && rdF s (rcx p) RCX.DCT_LO.SEC_OK = 0)

/-- A translation through the port's own cache of leaves (R349). -/
def devTrans (s : State) (p : Nat) (w : Who) (hgatp a need : Nat) : Except GErr Nat × State :=
  let keep := s.spl.tlb
  let (r, s') := gTrans { s with spl := { s.spl with tlb := mget [] s.io.tlb p } } w hgatp a need
  (r, { s' with io := { s'.io with tlb := mput s'.io.tlb p s'.spl.tlb }, spl := { s'.spl with tlb := keep } })

/-- Words of a range are poisoned in the copy that is current at the home (R219, R339). -/
def poisonRange (s : State) (a n : Nat) : State :=
  (List.range ((n + 7) / 8)).foldl (fun (s : State) j =>
    let w := a / 8 + j
    match mfind s.l3 (w / 8) with
    | some e => { s with l3 := mput s.l3 (w / 8) { e with poison := e.poison ||| (1#8 <<< (w % 8)) } }
    | none => { s with poison := sIns s.poison w }) s

/-- Bytes written by an I/O master from `a` on, line by line (R167, R227). -/
def ioWriteBytes (s : State) (w : Who) (a : Nat) (bs : List Nat) : State :=
  (bs.zipIdx).foldl (fun (s : State) e =>
    let s := if e.2 = 0 || (a + e.2) % 64 = 0 then meterPath (meterPool s w.num (a + e.2) true) w.num 4 (homeDie s (a + e.2)) else s
    ioWriteMem s w (a + e.2) 1 e.1) s

/-- `n` bytes read by an I/O master from `a` on, and whether a poisoned word was among them. -/
def ioReadBytes (s : State) (w : Who) (a : Nat) : Nat → (List Nat × Bool) × State
  | 0 => (([], false), s)
  | n + 1 =>
    let s := if a % 64 = 0 || n = 0 then meterPath (meterPool s w.num a false) w.num (homeDie s a) 4 else s
    let ((v, bad), s) := ioReadMem s w a 1
    let ((r, b), s) := ioReadBytes s w (a + 1) n
    ((v :: r, bad || b), s)

/-- A device's interrupt message (R350). -/
def devMsi (s : State) (p link rid a data : Nat) : State :=
  let (e, s) := devCtx s p rid
  if !ctxOk s p e then devFault s p link rid a 4 true
  else if !bit e.w0 2 || data % 2 ^ 11 = 0 then devFault s p link rid a 5 true
  else sendMsg s ⟨0x200000 + p, bits data 23 16, if bit e.w0 1 then 0 else 1 + bits e.w0 7 4, data % 2 ^ 11⟩

/-- The port's interrupt address (R350). -/
def msiAddr (s : State) (p : Nat) : Nat := rdF s (rcx p) RCX.MSI_ADDR_LO.ADDR / 4096 * 4096 + rdF s (rcx p) RCX.MSI_ADDR_HI.ADDR * 2 ^ 32

/-- DEVICE_MSI (R350): a 32-bit posted write to MSI_ADDR. -/
def execDeviceMsi (p link rid data : Nat) (s : State) : Res :=
  if 4 ≤ p || !linkUp s p link then .next s else .next (devMsi s p link rid (msiAddr s p) data)

/-- DEVICE_REQUEST (R349, R351): a device of root port `p` reads `len` bytes at `a`, or writes `data`; `ep` marks a
poisoned write. A failed read completes with Unsupported Request (status 1), a failed write is dropped. -/
def execDeviceRequest (p link rid a len : Nat) (data : Option (List Byte)) (ep : Bool) (s : State) : Res :=
  if 4 ≤ p || !linkUp s p link then .next s
  else
    let wr := data.isSome
    let fail := fun (s : State) (r : Nat) =>
      let s := devFault s p link rid a r wr
      if wr then s else rcxSend s p 2 [rid, 1]
    if wr && a / 4096 * 4096 = msiAddr s p && a = msiAddr s p then
      match data with
      | some bs => if bs.length = 4 then .next (devMsi s p link rid a (bs.foldr (fun b v => b.toNat + 256 * v) 0)) else .next (fail s 5)
      | none => .next s
    else
      let (e, s) := devCtx s p rid
      if !ctxOk s p e then .next (fail s 4)
      else
        let w : Who := { num := 78 + p, sec := bit e.w0 1 }
        match devTrans s p w e.w1 a (if wr then needWrite else 0x53) with
        | (.error (r, _), s) => .next (fail s r)
        | (.ok pa, s) =>
          match data with
          | some bs =>
            let s := ioWriteBytes s w pa (bs.map (·.toNat))
            .next (if ep then poisonRange s pa bs.length else s)
          | none =>
            let ((vs, bad), s) := ioReadBytes s w pa len
            .next (rcxSend s p 2 ([rid, 0, b2n bad] ++ vs))

/-- The pending state of an APLIC source and what its mode makes of its level stand in the hub; INTX_MESSAGE drives source
3 + 4p + x (R347). -/
def intxSource (p x : Nat) : Nat := 3 + 4 * p + x

/-- DEVICE_ERROR_MESSAGE (R347): a device's error message is captured as AER. -/
def execDeviceErrorMessage (p link : Nat) (s : State) : Res :=
  if p < 4 && linkUp s p link then .next (capture s (rcx p) 0) else .next s

end Sys2Proof.Machine
end

