-- ==== Sys2Proof/Machine/Ylk.lean ====
section
/-! DEFINITION. Yilust links, the cluster and the redundant pair (chapter "Yilust Links and Clusters"). A message that
arrives is a command with its header and its fields; a message that leaves goes out by `ySend`, its kind the TYPE of R355.
The inbound write stands in Machine/IoCmds.lean. -/
namespace Sys2Proof.Machine
open Sys2Proof

def y0 : Blk := ylk 0
def myPos (s : State) : Nat := rdF s y0 YLK.CL_CFG.POS
def mgrSel (s : State) : Bool := rdF s y0 YLK.CL_CFG.MGR_SEL = 1
def joinOf (s : State) : Nat := rdF s y0 YLK.CL_STAT.JOIN
def ylkUp (s : State) (p : Nat) : Bool := decide (p < 4) && rdF s (ylk p) YLK.PORT_STAT.STATE = 2
def upPorts (s : State) : List Nat := (List.range 4).filter (ylkUp s)
/-- The ports train and carry messages in the modes that power the hub's main domain (R383). -/
def ylkPowered (s : State) : Bool := 3 ≤ modeOf s && modeOf s ≤ 6

/-- Links to the manager: 0 for the manager, 0xFF while no manager is known (R358). -/
def hop (s : State) : Nat :=
  if clRole s = 1 then 0
  else match s.cl.parent with
    | some p => (match mfind s.cl.nbr p with
      | some n => min 0xFF (n.dist + 1)
      | none => 0xFF)
    | none => 0xFF

/-- The number HELLO gives a variant, in the order of R1 (assumption log 14). -/
def varCode (v : Variant) : Nat :=
  match v with
  | .f240 => 0
  | .n240 => 1
  | .f160 => 2
  | .l160 => 3

/-- HELLO on one port (R355, R358); a refused package sends none. -/
def sendHello (s : State) (p : Nat) : State :=
  if !ylkUp s p || joinOf s = 3 then s
  else ySend s p 0x01 0 true [s.gtime, rdF s y0 YLK.CL_CFG.MGR_SEL, clRole s, rdF s y0 YLK.CL_STAT.MGR_POS, hop s, varCode s.variant, Config.hubSerial]

/-- A port's generation advances (R366): a copy in progress ends with ERR, and writes not sent are dropped. -/
def portGen (s : State) (p : Nat) : State :=
  let s := wrF s (ylk p) YLK.PORT_STAT.GEN (rdF s (ylk p) YLK.PORT_STAT.GEN + 1)
  match mfind s.cl.copies p with
  | none => s
  | some _ =>
    let s := { s with cl := { s.cl with copies := mdel s.cl.copies p } }
    capture (wrF (wrF s (ylk p) YLK.COPY_CTRL.BUSY 0) (ylk p) YLK.COPY_CTRL.ERR 1) (ylk p) 4

/-- A port goes down (R353, R366); what came by it is forgotten, and with the last port down a refusal ends (R358). -/
def ylkDown (s : State) (p : Nat) : State :=
  if !ylkUp s p then s
  else
    let b := ylk p
    let s := portGen (wrF s b YLK.PORT_STAT.STATE (b2n (rdF s b YLK.PORT_CFG.EN = 1 && ylkPowered s))) p
    let s := wrF (wrF (wrF s b YLK.PORT_STAT.PEER_POS 0) b YLK.PORT_STAT.PEER_ROLE 0) b YLK.PORT_STAT.RTT 0
    let s := { s with cl := { s.cl with nbr := mdel s.cl.nbr p, near := s.cl.near.filter (fun e => e.2.1 != p),
                                        parent := if s.cl.parent = some p then none else s.cl.parent } }
    let s := capture s b 0
    if (upPorts s).isEmpty then
      let s := { s with cl := { s.cl with firstUp := none } }
      if joinOf s = 3 then wrF (wrF s y0 YLK.CL_STAT.JOIN 0) y0 YLK.CL_STAT.REFUSE 0 else s
    else s

/-- PORT_CFG has been written (R353): a port with EN trains, one without is down. -/
def ylkCfg (s : State) (p : Nat) : State :=
  let b := ylk p
  if rdF s b YLK.PORT_CFG.EN = 1 then
    (if rdF s b YLK.PORT_STAT.STATE = 0 && ylkPowered s then wrF s b YLK.PORT_STAT.STATE 1 else s)
  else wrF (ylkDown s p) b YLK.PORT_STAT.STATE 0

/-- YLK_LINK_UP (R353, R358): training ends, at full width and rate or not, with the round trip measured in units of 8 ns;
above 1 µs, or short of the full link, the port is held down. -/
def execYlkLinkUp (p rtt : Nat) (full : Bool) (s : State) : Res :=
  let b := ylk p
  if 4 ≤ p || rdF s b YLK.PORT_CFG.EN = 0 || rdF s b YLK.PORT_STAT.STATE ≠ 1 || !ylkPowered s then .next s
  else
    let s := wrF s b YLK.PORT_STAT.RTT (min 255 rtt)
    if !full || 125 < rtt then .next (wrF s b YLK.PORT_STAT.STATE 3)
    else
      let s := capture (wrF s b YLK.PORT_STAT.STATE 2) b 0
      let s := { s with cl := { s.cl with firstUp := some (s.cl.firstUp.getD s.gtime) } }
      .next (sendHello s p)

/-- YLK_TRAIN_RETRY (R353): a held-down port trains again. -/
def execYlkTrainRetry (p : Nat) (s : State) : Res :=
  if p < 4 && rdF s (ylk p) YLK.PORT_STAT.STATE = 3 then .next (wrF s (ylk p) YLK.PORT_STAT.STATE 1) else .next s

/-- YLK_LINK_DOWN (R366). -/
def execYlkLinkDown (p : Nat) (s : State) : Res := .next (ylkDown s p)

/-- YLK_REPLAY_LIMIT (R353): more than 16 replays within 1 ms take the port down. -/
def execYlkReplayLimit (p : Nat) (s : State) : Res := .next (ylkDown s p)

/-- YLK_CRC_FAIL (R353): a flit fails its CRC and is replayed. -/
def execYlkCrcFail (p : Nat) (s : State) : Res :=
  if ylkUp s p then .next (addF (addF s (ylk p) YLK.CRC_CNT.COUNT) (ylk p) YLK.REPLAY_CNT.COUNT) else .next s

/-- YLK_HELLO_TIMER (R358). -/
def execYlkHelloTimer (s : State) : Res := .next ((upPorts s).foldl sendHello s)

/-- The pair partner's position: as PAIR_STAT shows it, or before that a neighbour with MGR_SEL (R368). -/
def fromPartner (s : State) (m : YHdr) : Bool :=
  if pairState s ≠ 0 then rdF s y0 YLK.PAIR_STAT.PARTNER = m.src
  else match mfind s.cl.nbr m.port with
    | some n => n.sel && n.pos = m.src && mgrSel s
    | none => false

/-- A message is relayed (R356): to its DST by the port on which that position's HELLO last arrived with the smallest DIST;
a broadcast on every other port, taken from the port of its sender's nearest HELLO, hence once (assumption log 15). -/
def relay (s : State) (m : YHdr) (typ : Nat) (args : List Nat) : State :=
  let out := fun (s : State) q => send s (.ylk q) typ ([m.src, m.dst, b2n m.bcast] ++ args)
  if m.src = myPos s then s
  else if m.bcast then
    let first : Bool := match mfind s.cl.near m.src with
      | some (q, _) => q = m.port
      | none => true
    if first then ((upPorts s).filter (· ≠ m.port)).foldl out s else s
  else if m.dst ≠ myPos s then
    match mfind s.cl.near m.dst with
    | some (q, _) => if ylkUp s q then out s q else s
    | none => s
  else s

/-- What every message meets (R355, R356): a port that is down takes none; a bad header, or a pair type where it may not
come from, is discarded and counted; a message for others is relayed; one for this package goes on. -/
def yRx (s : State) (m : YHdr) (typ : Nat) (pair : Bool) (args : List Nat) (k : State → State) : State :=
  if !ylkUp s m.port then s
  else if m.bad then addF s (ylk m.port) YLK.BAD_MSG.COUNT
  else if pair then
    if rdF s (ylk m.port) YLK.PORT_CFG.PAIR = 0 || !fromPartner s m then addF s (ylk m.port) YLK.BAD_MSG.COUNT
    else k { s with cl := { s.cl with lastPair := s.gtime } }
  else
    let s := relay s m typ args
    if m.bcast || m.dst = myPos s then k s else s

/-- LEAVE of the manager to a package it refuses (R358). -/
def refuse (s : State) (port pos reason : Nat) : State := ySend s port 0x02 pos false [reason]

/-- CL_MEMBERS shows the members (R358). -/
def showMembers (s : State) : State :=
  wrF s y0 YLK.CL_MEMBERS.POS (s.cl.members.foldl (fun a e => a ||| 2 ^ e.1) 0)

/-- The manager hears a HELLO (R358-R362): it refuses the sender, records it once it has joined, or notes that it is alive. -/
def managerHears (s : State) (m : YHdr) (gt : Nat) (sel : Bool) (role dist serial : Nat) : State :=
  let known := mfind s.cl.serials m.src
  if (m.src = myPos s && serial ≠ Config.hubSerial) || (match known with
      | some x => x ≠ serial && (mfind s.cl.members m.src).isSome
      | none => false) then refuse s m.port m.src 1
  else if m.src = myPos s then s
  else if sel && s.cl.sels.any (fun q => q ≠ m.src && q ≠ myPos s) then refuse s m.port m.src 2
  else
    let s := { s with cl := { s.cl with serials := mput s.cl.serials m.src serial, sels := if sel then sIns s.cl.sels m.src else s.cl.sels } }
    let member := (mfind s.cl.members m.src).isSome
    let lead := gt - s.gtime
    if s.gtime < gt && !member && !(clsOn s).isEmpty && !(role ≠ 0 && lead ≤ 2 ^ 24) then refuse s m.port m.src 3
    else if dist ≠ 0xFF && 3 < dist then refuse s m.port m.src 4
    else
      let s := if s.gtime < gt && !member && (clsOn s).isEmpty then
          wrF { s with cl := { s.cl with catchTo := some (max gt (s.cl.catchTo.getD 0)) } } y0 YLK.CL_STAT.CATCHUP 1
        else s
      if role ≠ 0 && dist ≠ 0xFF then
        let s := showMembers { s with cl := { s.cl with members := mput s.cl.members m.src s.gtime } }
        if member then s else capture s y0 1
      else s

/-- The parent port (R358): the one whose HELLO reports the smallest DIST, the lowest on a tie. -/
def pickParent (s : State) : State :=
  let best := s.cl.nbr.foldl (fun (a : Option (Nat × Nat)) e =>
    if e.2.dist = 0xFF || !ylkUp s e.1 then a
    else match a with
      | none => some (e.1, e.2.dist)
      | some b => if e.2.dist < b.2 then some (e.1, e.2.dist) else some b) none
  match best with
  | none => s
  | some (p, d) =>
    let s := { s with cl := { s.cl with parent := some p } }
    let s := wrF s y0 YLK.CL_STAT.DIST (min 3 (d + 1))
    let s := match mfind s.cl.nbr p with
      | some n => wrF s y0 YLK.CL_STAT.MGR_POS n.mgr
      | none => s
    if joinOf s = 0 then wrF s y0 YLK.CL_STAT.JOIN 1 else s

/-- YLK_HELLO (R358). The peer of a port is the sender of the first HELLO after its link came up; another sender's HELLO
was relayed (assumption log 15). -/
def execYlkHello (m : YHdr) (gt : Nat) (sel : Bool) (role mgr dist var serial : Nat) (s : State) : Res :=
  .next (yRx s m 0x01 false [gt, b2n sel, role, mgr, dist, var, serial] (fun (s : State) =>
    let near := match mfind s.cl.near m.src with
      | some (q, d) => if dist < d || q = m.port then (m.port, dist) else (q, d)
      | none => (m.port, dist)
    let direct : Bool := match mfind s.cl.nbr m.port with
      | some n => n.pos = m.src
      | none => true
    let s := { s with cl := { s.cl with near := mput s.cl.near m.src near, named := s.cl.named || decide (dist ≠ 0xFF),
                                        sels := if sel && m.src ≠ myPos s && clRole s ≠ 1 then sIns s.cl.sels m.src else s.cl.sels } }
    let s := if direct then
        let s := { s with cl := { s.cl with nbr := mput s.cl.nbr m.port ⟨m.src, role, mgr, dist, sel, var⟩,
                                            lastMgr := if s.cl.parent = some m.port && dist ≠ 0xFF then s.gtime else s.cl.lastMgr } }
        wrF (wrF s (ylk m.port) YLK.PORT_STAT.PEER_POS m.src) (ylk m.port) YLK.PORT_STAT.PEER_ROLE role
      else s
    if clRole s = 1 then managerHears s m gt sel role dist serial
    else if joinOf s = 3 then s
    else
      let was := s.cl.parent
      let s := pickParent s
      if was = none && s.cl.parent ≠ none then { s with cl := { s.cl with lastMgr := s.gtime } } else s))

/-- A member leaves the manager's list (R359). -/
def dropMember (s : State) (n : Nat) : State :=
  if clRole s = 1 && (mfind s.cl.members n).isSome then
    capture (showMembers { s with cl := { s.cl with members := mdel s.cl.members n, sels := sDel s.cl.sels n } }) y0 1
  else s

/-- YLK_LEAVE (R358, R359, R366, R376): from the port's peer it advances the generation; from the pair partner it counts as
silence; addressed to this package with a reason it is a refusal. -/
def execYlkLeave (m : YHdr) (reason : Nat) (s : State) : Res :=
  .next (yRx s m 0x02 false [reason] (fun (s : State) =>
    let s := match mfind s.cl.nbr m.port with
      | some n => if n.pos = m.src then portGen s m.port else s
      | none => s
    let s := if pairState s ≠ 0 && rdF s y0 YLK.PAIR_STAT.PARTNER = m.src then { s with cl := { s.cl with lastPair := s.gtime - 64001 } } else s
    if !m.bcast && reason ≠ 0 && clRole s ≠ 1 then
      let s := wrF (wrF (wrF s y0 YLK.CL_STAT.JOIN 3) y0 YLK.CL_STAT.REFUSE reason) y0 YLK.CL_STAT.ROLE 0
      { s with cl := { s.cl with parent := none } }
    else dropMember s m.src))

/-- The package becomes manager of its cluster (R358, R360, R372). -/
def becomeManager (s : State) : State :=
  let s := wrF (wrF (wrF s y0 YLK.CL_STAT.ROLE 1) y0 YLK.CL_STAT.JOIN 2) y0 YLK.CL_STAT.DIST 0
  let s := wrF s y0 YLK.CL_STAT.MGR_POS (myPos s)
  showMembers { s with cl := { s.cl with parent := none, members := mput s.cl.members (myPos s) s.gtime, named := true } }

/-- MANAGER_ELECT_TIMEOUT (R358): 100 ms after the first port came up no HELLO has named a manager. -/
def execManagerElectTimeout (s : State) : Res :=
  match s.cl.firstUp with
  | none => .next s
  | some t =>
    if s.cl.named || clRole s ≠ 0 || !mgrSel s || s.cl.sels.any (fun q => q < myPos s) || joinOf s = 3 then .next s
    else .next (becomeManager (runTo s (t + msUnits 100)))

/-- MEMBER_TIMEOUT (R359): 50 ms without a HELLO from member `n`. -/
def execMemberTimeout (n : Nat) (s : State) : Res :=
  match mfind s.cl.members n with
  | none => .next s
  | some t => if clRole s = 1 && n ≠ myPos s then .next (dropMember (runTo s (t + msUnits 50)) n) else .next s

/-- ORPHAN_TIMEOUT (R360): 100 ms without a HELLO naming a manager from the parent. An unpaired standby becomes manager; a
paired one takes over by its grants; another member is orphaned. -/
def execOrphanTimeout (s : State) : Res :=
  if joinOf s ≠ 2 || clRole s = 1 then .next s
  else
    let s := runTo s (s.cl.lastMgr + msUnits 100)
    if pairState s = 2 then .next s
    else if mgrSel s then .next (becomeManager s)
    else
      let s := wrF s y0 YLK.CL_STAT.JOIN 1
      .next { s with cl := { s.cl with parent := none, slew := false, dev := 0,
                                       nbr := s.cl.nbr.map (fun (e : Nat × YNbr) => (e.1, { e.2 with dist := 0xFF })) } }

/-- YLK_TIME_TIMER (R361): at a multiple of 2^16 units a joined package sends TIME on every port but its parent's. -/
def execYlkTimeTimer (s : State) : Res :=
  if joinOf s ≠ 2 then .next s
  else
    let s := runTo s ((s.gtime + 0xFFFF) / 0x10000 * 0x10000)
    .next (((upPorts s).filter (fun p => s.cl.parent ≠ some p)).foldl (fun (s : State) p => ySend s p 0x03 0 false [s.gtime]) s)

/-- A deviation in the eight bits of a DEV field. -/
def dev8 (d : Int) : Nat := (BitVec.ofInt 8 (max (-127) (min 127 d))).toNat

/-- A message from the parent of this package on its parent port. -/
def fromParent (s : State) (m : YHdr) : Bool :=
  s.cl.parent = some m.port && (match mfind s.cl.nbr m.port with
    | some n => n.pos = m.src
    | none => false)

/-- The child's GTIME is compared with the manager's (R360, R361, R362). A member slews; a package that is joining catches
up from behind, an orphan ahead slews back, and either has joined once within 16 units. -/
def timeSeen (s : State) (ref : Nat) : State :=
  let d : Int := (s.gtime : Int) - (ref : Int)
  let s := wrF s y0 YLK.CL_STAT.DEV (dev8 d)
  let s := { s with cl := { s.cl with dev := d, slew := decide (d ≠ 0) } }
  if joinOf s = 2 then
    if 16 < d.natAbs then logRec (capture s y0 3) 0x14 0 0xFF (leBytes ((BitVec.ofInt 16 d).toNat) 2) else s
  else if joinOf s = 1 then
    if d.natAbs ≤ 16 then
      wrF (wrF (wrF s y0 YLK.CL_STAT.JOIN 2) y0 YLK.CL_STAT.CATCHUP 0) y0 YLK.CL_STAT.ROLE (if mgrSel s then 3 else 2)
    else if d < -1024 then wrF { s with cl := { s.cl with catchTo := some ref, slew := false } } y0 YLK.CL_STAT.CATCHUP 1
    else if 0 < d && clRole s = 0 then { s with cl := { s.cl with slew := false } }
    else wrF s y0 YLK.CL_STAT.CATCHUP (b2n (0 < d))
  else s

/-- YLK_TIME (R361). -/
def execYlkTime (m : YHdr) (t : Nat) (s : State) : Res :=
  .next (yRx s m 0x03 false [t] (fun (s : State) => if fromParent s m then timeSeen s (t + s.cl.dly) else s))

/-- YLK_DELAY_TIMER (R361): at a multiple of 2^20 units the child asks for the link delay. -/
def execYlkDelayTimer (s : State) : Res :=
  match s.cl.parent with
  | none => .next s
  | some p =>
    if !ylkUp s p then .next s
    else
      let s := runTo s ((s.gtime + 0xFFFFF) / 0x100000 * 0x100000)
      let dst := match mfind s.cl.nbr p with
        | some n => n.pos
        | none => 0
      .next (ySend { s with cl := { s.cl with asked := some s.gtime } } p 0x04 dst false [s.gtime])

/-- DELAY_REQ (R361): answered with the instants of receipt and of transmission. -/
def execDelayReq (m : YHdr) (t : Nat) (s : State) : Res :=
  .next (yRx s m 0x04 false [t] (fun (s : State) => ySend s m.port 0x05 m.src false [s.gtime, s.gtime]))

/-- DELAY_RSP (R361): half of the round trip is the one-way delay. -/
def execDelayRsp (m : YHdr) (sent got : Nat) (s : State) : Res :=
  .next (yRx s m 0x05 false [sent, got] (fun (s : State) =>
    match s.cl.asked with
    | some t0 => if fromParent s m then { s with cl := { s.cl with asked := none, dly := ((s.gtime - t0) - (sent - got)) / 2 } } else s
    | none => s))

/-- Time passes by one GTIME unit, or by the 32 that the time keeper adds in Standby and Watch (R70); none while Off. A
catch-up advances by 1,024 units (R362), a slew withholds or doubles one increment in 64 (R72, R360, R361). -/
def tick (s : State) : State :=
  let m := modeOf s
  if m = 0 then s
  else if m = 1 || m = 2 then setTime s (s.gtime + 32)
  else match s.cl.catchTo with
    | some t => if s.gtime + 1024 < t then setTime { s with cl := { s.cl with catchTo := some (t + 1) } } (s.gtime + 1024)
        else setTime s (s.gtime + 1)
    | none =>
      if s.cl.slew && 63 ≤ s.cl.phase then
        let d := s.cl.dev
        let cl := { s.cl with phase := 0, dev := if 0 < d then d - 1 else d + 1, slew := decide (d ≠ 1 ∧ d ≠ -1) }
        setTime { s with cl := cl } (if 0 < d then s.gtime else s.gtime + 2)
      else setTime { s with cl := if s.cl.slew then { s.cl with phase := s.cl.phase + 1 } else s.cl } (s.gtime + 1)

/-- A catch-up ends (R362): GTIME has advanced by 1,024 units a unit to within 1,024 units of the time it follows. -/
def catchDone (s : State) : State :=
  match s.cl.catchTo with
  | none => s
  | some t =>
    let n := if s.gtime + 1024 < t then (t - s.gtime - 1024 + 1022) / 1023 else 0
    let g := s.gtime + 1024 * n
    let d : Int := (g : Int) - ((t + n : Nat) : Int)
    wrF { setTime s g with cl := { s.cl with catchTo := none, dev := d, slew := decide (d ≠ 0) && clRole s ≠ 1 } } y0 YLK.CL_STAT.CATCHUP 0

/-- CATCHUP_DONE (R362). -/
def execCatchupDone (s : State) : Res := .next (catchDone s)

/-- SETTINGS_TIMER (R363). -/
def execSettingsTimer (s : State) : Res := .next (sendSettings s)

/-- SETTINGS (R363): compared with the active settings, `cfg` being CLASS_CFG and CLASS_OFS of classes 0-7 in turn. -/
def execSettings (m : YHdr) (epoch : Nat) (cfg : List Nat) (s : State) : Res :=
  .next (yRx s m 0x06 false (epoch :: cfg) (fun (s : State) =>
    if clRole s = 1 then s
    else
      let mine := (List.range 8).flatMap (fun c =>
        [rdF s scn SCN.CLASS_CFG.EN c * 2 ^ 31 + rdF s scn SCN.CLASS_CFG.PERIOD c, rdF s scn SCN.CLASS_OFS.OFFSET c])
      if epoch = epochOf s && cfg = mine then wrF s y0 YLK.CL_STAT.MISMATCH 0
      else capture (wrF s y0 YLK.CL_STAT.MISMATCH 1) y0 2))

/-- YLK_IRQ (R367): one message to a normal-world file, where the port permits it. -/
def execYlkIrq (m : YHdr) (hart file ident : Nat) (s : State) : Res :=
  .next (yRx s m 0x07 false [hart, file, ident] (fun (s : State) =>
    if rdF s (ylk m.port) YLK.PORT_CFG.IRQ_EN = 1 && hart < hartCount s && file < 8 && 0 < ident && ident < 2048 then
      sendMsg s ⟨0x300000 + m.port, hart, 1 + file, ident⟩
    else addF s (ylk m.port) YLK.BAD_MSG.COUNT))

/-- An inbound window's settings (R364). -/
def yTgt (s : State) (p w : Nat) : Nat := rdF s (ylk p) YLK.WIN_LO.TGT w * 4096 + rdF s (ylk p) YLK.WIN_HI.TGT w * 2 ^ 32
def yExp (s : State) (p w : Nat) : Nat := rdF s (ylk p) YLK.WIN_LO.SIZE_EXP w
def yOfs (s : State) (p w : Nat) : Nat := rdF s (ylk p) YLK.WIN_OFS.OFS w * 4096
def yEn (s : State) (p w : Nat) : Bool := rdF s (ylk p) YLK.WIN_CTRL.EN w = 1

/-- A window may not be enabled (R335, R364). -/
def yWinBad (s : State) (p w : Nat) : Bool :=
  let e := yExp s p w
  let t := yTgt s p w
  let last := t + 2 ^ e - 1
  let z := zoneOf s t
  let inside := zoneOf s last = z && (z = .hbm || z = .ddr || z = .aliasWin || (z = .view && t / 0x400_0000 = last / 0x400_0000))
  e < 12 || 40 < e || t % 2 ^ e ≠ 0 || !inside || yOfs s p w % 2 ^ e ≠ 0 || 2 ^ 40 < yOfs s p w + 2 ^ e
    || (List.range 8).any (fun v => v ≠ w && yEn s p v && decide (yOfs s p v < yOfs s p w + 2 ^ e) && decide (yOfs s p w < yOfs s p v + 2 ^ yExp s p v))

/-- WIN_CTRL of window `w` has been written; `was` is whether it was enabled before. -/
def yWinWritten (s : State) (p w : Nat) (was : Bool) : State :=
  if yEn s p w && !was then
    (if yWinBad s p w then wrF (wrF s (ylk p) YLK.WIN_CTRL.EN 0 w) (ylk p) YLK.WIN_CTRL.REFUSED 1 w else wrF s (ylk p) YLK.WIN_CTRL.REFUSED 0 w)
  else s

/-- The copy engine sends its next line as a WR (R365): read from local memory as master 83 + p, poisoned words marked. -/
def copyLine (s : State) (p : Nat) (c : Copy) : State × Copy :=
  let w : Who := { num := 83 + p }
  let (v, s) := if isMem (zoneOf s c.src) then
      let s := meterPath (meterPool s w.num c.src false) w.num (homeDie s c.src) 4
      let (_, s) := ioReadMem s w c.src 64
      let (sec, s) := isSecure s c.src
      (if sec then ((0, 0) : Line × BitVec 8) else curLine s (c.src / 64), s)
    else ((0, 0), unmapped s w c.src false)
  let s := meter (ySend s p 0x10 (rdF s (ylk p) YLK.PORT_STAT.PEER_POS) false
    [c.dst, rdF s (ylk p) YLK.PORT_STAT.GEN, c.nextTag, v.2.toNat, v.1.toNat]) w.num (24 + p) 1
  (s, { c with left := c.left - 1, src := c.src + 64, dst := c.dst + 64, tags := c.tags ++ [c.nextTag], nextTag := (c.nextTag + 1) % 1024 })

/-- Lines go while fewer than 64 messages are outstanding (R365). -/
def copyPump : Nat → State → Nat → Copy → State × Copy
  | 0, s, _, c => (s, c)
  | n + 1, s, p, c =>
    if c.left = 0 || c.stop || 64 ≤ c.tags.length then (s, c) else let (s, c) := copyLine s p c; copyPump n s p c

/-- A copy goes on, or ends when every CPL has arrived (R365). -/
def copyStep (s : State) (p : Nat) (c : Copy) : State :=
  let (s, c) := copyPump 64 s p c
  if c.tags.isEmpty then
    capture (wrF { s with cl := { s.cl with copies := mdel s.cl.copies p } } (ylk p) YLK.COPY_CTRL.BUSY 0) (ylk p) 4
  else { s with cl := { s.cl with copies := mput s.cl.copies p c } }

/-- COPY_CTRL.GO has been written (R365); ignored while BUSY. A port that is down sends nothing: the copy ends with ERR. -/
def copyGo (s : State) (p : Nat) : State :=
  let b := ylk p
  if (mfind s.cl.copies p).isSome then s
  else
    let c : Copy := { left := rdF s b YLK.COPY_LEN.LINES, nextTag := 0, tags := [], stop := false,
                      src := rdF s b YLK.COPY_SRC_LO.ADDR / 64 * 64 + rdF s b YLK.COPY_SRC_HI.ADDR % 2 ^ 16 * 2 ^ 32,
                      dst := rdF s b YLK.COPY_DST_LO.ADDR / 64 * 64 + rdF s b YLK.COPY_DST_HI.ADDR % 256 * 2 ^ 32 }
    let s := wrF (wrF s b YLK.COPY_CTRL.ERR 0) b YLK.COPY_CTRL.BUSY 1
    if ylkUp s p then copyStep s p c
    else capture (wrF (wrF s b YLK.COPY_CTRL.BUSY 0) b YLK.COPY_CTRL.ERR 1) b 4

/-- YLK_CPL (R365, R366): the answer to a WR of the copy engine; of an old generation it is late. -/
def execYlkCpl (m : YHdr) (gen tag status : Nat) (s : State) : Res :=
  .next (yRx s m 0x11 false [gen, tag, status] (fun (s : State) =>
    if gen ≠ rdF s (ylk m.port) YLK.PORT_STAT.GEN then addF (countEv s (ylk m.port) 0x14) (ylk m.port) YLK.LATE_CPL.COUNT
    else match mfind s.cl.copies m.port with
      | none => s
      | some c =>
        if !c.tags.contains tag then s
        else
          let s := if status ≠ 0 then wrF s (ylk m.port) YLK.COPY_CTRL.ERR 1 else s
          copyStep s m.port { c with tags := sDel c.tags tag, stop := c.stop || decide (status ≠ 0) }))

/-- The ports that join this package to position `pos` directly and carry pair messages (R368). -/
def pairPorts (s : State) (pos : Nat) : List Nat :=
  (upPorts s).filter (fun p => rdF s (ylk p) YLK.PORT_CFG.PAIR = 1 && (match mfind s.cl.nbr p with
    | some n => n.pos = pos && n.sel && (n.var = 0 || n.var = 2)
    | none => false))
/-- The pair's conditions on this package and its partner at `pos` (R368). -/
def canPair (s : State) (pos : Nat) : Bool :=
  mgrSel s && (s.variant = .f240 || s.variant = .f160) && 2 ≤ (pairPorts s pos).length

/-- The standby has entered Shadow (R368): it asks to be paired. -/
def pairStart (s : State) : State :=
  let mp := rdF s y0 YLK.CL_STAT.MGR_POS
  if clRole s = 3 && canPair s mp then
    let s := wrF (wrF s y0 YLK.PAIR_STAT.STATE 1) y0 YLK.PAIR_STAT.PARTNER mp
    pairSend { s with cl := { s.cl with lines := [], rcnt := [], rend := [], gave := [], hand := none, took := false, noDrive := false, lastPair := s.gtime } } 0x20 []
  else s

/-- The sync (R368): both images whole, every descriptor as its last value, every session record, then the next scan of each
enabled class. -/
def pairSync (s : State) (pos : Nat) : State :=
  let s := wrF (wrF s y0 YLK.PAIR_STAT.STATE 1) y0 YLK.PAIR_STAT.PARTNER pos
  let s := { s with cl := { s.cl with granted := [], sent := [], sync := clsOn s, noDrive := false } }
  let s := [0, 1].foldl (fun (s : State) f => (List.range 16384).foldl (fun (s : State) l => replImg s f l) s) s
  let s := (List.range 65536).foldl (fun (s : State) b =>
    pairSend s 0x25 ((List.range 8).flatMap (fun j => [8 * b + j, descNext s (8 * b + j)]))) s
  let s := s.fld.sess.foldl (fun (s : State) e => pairSend s 0x26 [e.1, e.2.st, e.2.gen, e.2.node.getD 0]) s
  if s.cl.sync.isEmpty then wrF (pairSend s 0x21 []) y0 YLK.PAIR_STAT.STATE 2 else s

/-- PAIR_REQ (R368). -/
def execPairReq (m : YHdr) (s : State) : Res :=
  .next (yRx s m 0x20 true [] (fun (s : State) =>
    if clRole s = 1 && (modeOf s = 4 || modeOf s = 6) && canPair s m.src then pairSync s m.src else s))

/-- PAIR_ACK (R368): the standby is paired too. -/
def execPairAck (m : YHdr) (s : State) : Res :=
  .next (yRx s m 0x21 true [] (fun (s : State) => if clRole s = 3 && pairState s = 1 then wrF s y0 YLK.PAIR_STAT.STATE 2 else s))

/-- ALIVE_TIMER (R369): after 4 µs with nothing else to send. -/
def execAliveTimer (s : State) : Res := if pairState s = 0 then .next s else .next (pairSend s 0x22 [])

/-- ALIVE (R369): the partner is not silent. -/
def execAlive (m : YHdr) (s : State) : Res := .next (yRx s m 0x22 true [] id)

/-- This package is the standby of a pair. -/
def standby (s : State) : Bool := clRole s = 3 && decide (pairState s ≠ 0)

/-- REPL_LINE (R369, R370): buffered until its boundary has passed. -/
def execReplLine (m : YHdr) (c k line : Nat) (slots : List Nat) (s : State) : Res :=
  .next (yRx s m 0x23 true [] (fun (s : State) =>
    if !standby s || k + 1 < (clsOf s c).next then s
    else
      let n := match mfind s.cl.rcnt c with
        | some (q, n) => if q = k then n + 1 else 1
        | none => 1
      { s with cl := { s.cl with lines := mput s.cl.lines (line % 16384) slots, rcnt := mput s.cl.rcnt c (k, n) } }))

/-- REPL_IMG (R370): a line of the safe or force image is written. -/
def execReplImg (m : YHdr) (force : Bool) (line : Nat) (slots : List Nat) (s : State) : Res :=
  .next (yRx s m 0x24 true [] (fun (s : State) =>
    if !standby s then s
    else
      let off := fun (j : Nat) => (if force then forceOff else safeOff) (32 * (line % 16384) + j)
      let s := (List.range 32).foldl (fun (s : State) j => putSlot s (off j) ((slots[j]?).getD 0)) s
      if force then s else barSend s true 0x103 (line % 16384) (safeLine s (line % 16384))))

/-- REPL_DESC (R370): descriptors are queued; one that changes nothing is not (assumption log 16). -/
def execReplDesc (m : YHdr) (ds : List (Nat × Nat)) (s : State) : Res :=
  .next (yRx s m 0x25 true [] (fun (s : State) =>
    if !standby s then s
    else ds.foldl (fun (s : State) e => if descNext s (e.1 % 524288) = e.2 % 65536 then s else queueDesc s (e.1 % 524288) (e.2 % 65536)) s))

/-- REPL_SESS (R370): session records, with state, GEN and NODE_ID. -/
def execReplSess (m : YHdr) (rs : List (Nat × Nat × Nat × Nat)) (s : State) : Res :=
  .next (yRx s m 0x26 true [] (fun (s : State) =>
    if !standby s then s
    else rs.foldl (fun (s : State) r => setSess s (r.1 % 4096)
      { st := r.2.1, gen := r.2.2.1 % 256, node := if r.2.2.2 = 0 then none else some r.2.2.2 }) s))

/-- REPL_END (R369, R371): the count of the scan's lines. -/
def execReplEnd (m : YHdr) (c k count : Nat) (s : State) : Res :=
  .next (yRx s m 0x27 true [] (fun (s : State) =>
    if standby s then { s with cl := { s.cl with rend := mput s.cl.rend c (k, count) } } else s))

/-- A takeover (R372, R381): manager, in Run, or in Hold where a task's results are not usable. -/
def takeOver (s : State) : State :=
  let s := pairSend s 0x2B []
  let s := capture (addF (wrF s y0 YLK.PAIR_STAT.STATE 0) y0 YLK.PAIR_CNT.TAKEOVER) y0 5
  let s := becomeManager { s with cl := { s.cl with took := true, noDrive := false } }
  let bad := (List.range 4096).any (fun t => taskOn s t && dLim (descWord s t 0) ≠ 0 && decide (dLim (descWord s t 0) ≤ missRun s t))
  let hold := bad && rdF s (pwr 0) PWR.HOLD_CFG.AUTO = 1
  let s := goMode s (if hold then 6 else 4) 5
  let s := { s with bar := { s.bar with full := List.range 8 } }
  if bad && !hold then capture s scn 10 else s

/-- GRANT_CUTOFF (R371, R372, R374): 10 µs before the class's next boundary the standby grants it, or withholds the grant
and, paired, has taken over. -/
def execGrantCutoff (c : Nat) (s : State) : Res :=
  if modeOf s ≠ 5 || !standby s || !(clsOf s c).on || !(clsOf s c).begun then .next s
  else
    let b := (clsOf s c).next
    let s := runTo s (clsNext s c - 32000)
    let heard := decide (s.gtime ≤ s.cl.lastPair + 64000)
    if replWhole s c b && heard && s.cl.hand ≠ some (c, b) then
      .next { pairSend s 0x28 [c, b] with cl := { s.cl with gave := s.cl.gave ++ [(c, b)] } }
    else if pairState s = 2 then .next (takeOver s) else .next s

/-- GRANT (R371, R376): in time only before the GTIME unit of its boundary. -/
def execGrant (m : YHdr) (c b : Nat) (s : State) : Res :=
  .next (yRx s m 0x28 true [] (fun (s : State) =>
    if clRole s = 1 && b = (clsOf s c).next && s.gtime < clsNext s c then { s with cl := { s.cl with granted := s.cl.granted ++ [(c, b)] } } else s))

/-- HANDOVER (R374): the grant of the boundary named will be withheld. -/
def execHandover (m : YHdr) (c b : Nat) (s : State) : Res :=
  .next (yRx s m 0x29 true [] (fun (s : State) => if standby s then { s with cl := { s.cl with hand := some (c, b) } } else s))

/-- YIELD and TAKEOVER (R376): each package acts on its own decision, so they count as pair messages only. -/
def execYield (m : YHdr) (s : State) : Res := .next (yRx s m 0x2A true [] id)
def execTakeover (m : YHdr) (s : State) : Res := .next (yRx s m 0x2B true [] id)

/-- HANDOVER for the fastest class (R374). -/
def sendHandover (s : State) : State :=
  match fastest s with
  | some c => pairSend s 0x29 [c, (clsOf s c).next]
  | none => s

/-- BARRIER_LOSS_HANDOVER (R374): 1 ms after a paired manager's barrier went down. -/
def execBarrierLossHandover (s : State) : Res :=
  match s.bar.downAt with
  | some t => if pairedMgr s && rdF s bar BAR.LINK_STAT.STATE = 0 then .next (sendHandover (runTo s (t + msUnits 1))) else .next s
  | none => .next s

/-- Every port is taken down and the cluster left, as the hub's main domain loses power (R379, R382). -/
def ylkOff (s : State) : State :=
  let s := (List.range 4).foldl (fun (s : State) p => wrF (ylkDown s p) (ylk p) YLK.PORT_STAT.STATE 0) s
  let z := fun (f : Field) (s : State) => wrF s y0 f 0
  let s := z YLK.CL_STAT.JOIN (z YLK.CL_STAT.ROLE (z YLK.CL_STAT.DIST (z YLK.CL_STAT.CATCHUP (z YLK.CL_MEMBERS.POS (z YLK.PAIR_STAT.STATE s)))))
  { s with cl := {} }

end Sys2Proof.Machine
end

