-- ==== Sys2Proof/Machine/Fence.lean ====
section
/-! DEFINITION. Fencing (R27, R28, R176, R177, R181, R187, R213, R214), Lockdown (R378, R382, R409), and Hinge links
(chapter "Hinge Links, Die Assembly and the Open Site"). -/
namespace Sys2Proof.Machine
open Sys2Proof

/-- A unit as a mailbox command names it (R398): a die by its ID (a stack is die 32 + s), a Hinge by die × 8 + instance,
a hart, a firmware target. -/
def unitHinge (d i : Nat) : Nat := 1000 + d * 8 + i
def unitHart (h : Nat) : Nat := 2000 + h
def unitFw (t : Nat) : Nat := 3000 + t

/-- Both ends of a Hinge are up. -/
def hingeUp (s : State) (d i : Nat) : Bool := rdF s (hng d i) HNG.TRAIN_STAT.STATE = 2

/-- The instance of base die `a` that leads to `b`, 4 being the hub. -/
def toInst (a b : Nat) : Nat := if b = 4 then 3 else if b < a then b else b - 1

/-- Base die `a` (0-3) reaches the hub by its configured routes (R177). -/
def reachesHub (s : State) (a : Nat) : Bool :=
  let x := xfb (1 + a)
  [rdF s x XFB.ROUTE.PRI 4, rdF s x XFB.ROUTE.ALT 4].any (fun i =>
    i < 4 && hingeUp s (1 + a) i && (i = 3 || hingeUp s (1 + peerOf a i) 3))

/-- Another route joins the two units of a Hinge (R27): by way of a third unit with both its Hinges up. -/
def otherRoute (s : State) (d i : Nat) : Bool :=
  let a := if d = 0 then 4 else d - 1
  let b := if d = 0 then i else peerOf (d - 1) i
  let up := fun (x y : Nat) => if x = 4 then hingeUp s 0 y else hingeUp s (1 + x) (toInst x y)
  (List.range 5).any (fun c => c ≠ a && c ≠ b && up a c && up c b)

/-- An HBM3E line has one copy, a home is displaced, or a stack is out (HUB.MEM_CFG.DEGRADED). -/
def memDegraded (s : State) : Bool :=
  (List.range 8).any (fun k => !stackUp s k)
    || (rdF s hub HUB.MEM_CFG.MODE = 1 && (List.range 8).any (fun k => rdF s (mch k) MCH.RESYNC.BUSY = 1))
    || (List.range 4).any (fun h => subOf s h ≠ h)

/-- The Degraded flags of the package follow its state (R28). -/
def refreshDegraded (s : State) : State :=
  let s := wrF s hub HUB.MEM_CFG.DEGRADED (b2n (memDegraded s))
  let out := s.dies.any (fun e => e.2.st = 2)
    || (List.range 4).any (fun i => rdF s (hng 0 i) HNG.TRAIN_STAT.STATE = 3)
    || (List.range 4).any (fun a => (List.range 4).any (fun i => dieUp s (1 + a) && rdF s (hng (1 + a) i) HNG.TRAIN_STAT.STATE = 3))
  wrF s (pwr 0) PWR.MODE.DEGRADED (b2n (out || memDegraded s))

/-- BLK_STAT.DEGRADED of a block that lost, or regained, a sub-unit (assumption log 13). -/
def setDeg (s : State) (b : Blk) (v : Bool) : State := setHdr s b { hdrOf s b with degraded := v }

/-- Working cores of a compute die. -/
def hasCore (s : State) (d : Nat) : Bool := (List.range 24).any (fun c => !s.wd.withdrawn.contains ((d - 8) * 24 + c))

/-- The minimum service set of R28 remains. -/
def minService (s : State) : Bool :=
  (List.range 4).any (fun b => dieUp s (1 + b) && hingeUp s 0 b && (List.range 3).any (fun j => dieUp s (8 + 3 * b + j) && hasCore s (8 + 3 * b + j)))
    && ((List.range 8).any (fun k => stackUp s k) || rdF s hub HUB.MEM_CFG.DDR_EN = 1)

/-- Commands in progress that name a unit, other than the one of channel `by`, end (R398). -/
def endCmds (s : State) (u st : Nat) (by_ : Option Nat) : State :=
  (List.range 3).foldl (fun (s : State) c =>
    if some c ≠ by_ && (chanOfW s c).code ≠ 0 && (chanOfW s c).names.contains u then answer s c st else s) s

/-- A die's record in the hub. -/
def setDie (s : State) (d st reason : Nat) : State :=
  { s with dies := mput s.dies d { mget {} s.dies d with st := st, reason := reason } }

/-- A compute die leaves service: its harts stop, its L2 contents are lost, and snoops to it find nothing. -/
def dropCompute (s : State) (d : Nat) : State :=
  let hs := (s.harts.filter (fun e => coreDie e.2.core = d)).map (·.1)
  let s := hs.foldl (fun (s : State) h =>
    let s := voidHart s h
    let x := hartOf s h
    setHart s h { resetHart x with files := x.files }) s
  let mine := fun (c : Nat) => clDie c = d
  let ans := (s.snps.filter (fun p => mine p.cl)).map (fun p => (⟨p.cl, p.line, false, none⟩ : SnpRsp))
  { s with l2 := s.l2.filter (fun e => !mine (e.1 % 128)), snps := s.snps.filter (fun p => !mine p.cl), rsps := s.rsps ++ ans,
           wbs := s.wbs.filter (fun w => !mine w.cl), retries := s.retries.filter (fun r => !mine r.req.cl),
           pendq := s.pendq.filter (fun q => !mine q.2.cl) }

/-- A Hinge goes down at both ends and is fenced; meshes that used it take their alternative route (R177, R187). -/
def closeHinge (s : State) (d i : Nat) : State :=
  let (e, j) := farEnd d i
  let one := fun (s : State) (d i : Nat) =>
    let s := wrF (wrF s (hng d i) HNG.TRAIN_STAT.STATE 3) (hng d i) HNG.TRAIN_STAT.ATTEMPTS 0
    let s := wrF s (hng d i) HNG.RECAL.BUSY 0
    let s := setDeg (capture s (hng d i) 2) (xfb d) true
    if d = 0 then s
    else (List.range 5).foldl (fun (s : State) t =>
      if t + 1 ≠ d && rdF s (xfb d) XFB.ROUTE.PRI t = i && rdF s (xfb d) XFB.ROUTE.USING_ALT t = 0 then
        capture (wrF s (xfb d) XFB.ROUTE.USING_ALT 1 t) (xfb d) 0
      else s) s
  one (one { s with recal := mdel (mdel s.recal (d * 8 + i)) (e * 8 + j) } d i) e j

/-- One die, without what goes with it, is fenced (R181). -/
def closeDie (s : State) (d reason : Nat) (by_ : Option Nat) : State :=
  let s := if 8 ≤ d && d ≤ 19 then dropCompute s d else if d = 24 then barDown s else s
  let hs := (s.harts.filter (fun e => coreDie e.2.core = d)).map (·.1)
  let s := endCmds s d 7 by_
  let s := hs.foldl (fun (s : State) h => endCmds s (unitHart h) 7 by_) s
  let s := { s with scrubs := s.scrubs.filter (fun e => e.1 / 65536 != d) }
  setDeg (clearDie (setDie s d 2 reason) d) hub true

/-- The lines of home value `b` take their mirror home (R176, R214). -/
def moveHome (s : State) (b dest : Nat) : State :=
  let f := match b with
    | 0 => HUB.HOME_MAP.SUB_0
    | 1 => HUB.HOME_MAP.SUB_1
    | 2 => HUB.HOME_MAP.SUB_2
    | _ => HUB.HOME_MAP.SUB_3
  wrF s hub f dest

/-- A die is fenced with what goes with it (R27, R181): a base die after the drain of its directory, with its compute
dies, stacks and Hinges. -/
def fenceDie (s : State) (d reason : Nat) (by_ : Option Nat := none) : State :=

  let note := fun (s : State) => logRec s 0x10 d 0xFF [0, reason]
  if 1 ≤ d && d ≤ 4 then
    let b := d - 1
    let s := drainHome s b
    let s := (List.range 3).foldl (fun (s : State) j => if dieUp s (8 + 3 * b + j) then closeDie s (8 + 3 * b + j) 7 by_ else s) s
    let s := (List.range 2).foldl (fun (s : State) u => if stackUp s (2 * b + u) then closeDie s (32 + 2 * b + u) 7 by_ else s) s
    let s := (List.range 4).foldl (fun (s : State) i => if rdF s (hng d i) HNG.TRAIN_STAT.STATE ≠ 3 then closeHinge s d i else s) s
    let s := closeDie s d reason by_
    let s := if rdF s hub HUB.MEM_CFG.MODE = 1 then moveHome s b (b ^^^ 3) else s
    refreshDegraded (note s)
  else if d = 28 then
    let s := (waitingAt s (fun t => t.port = 5)).foldl (fun (s : State) t => bumpTag (ioFail s t) t) s
    let s := { s with io := { s.io with site := [], siteRd := [], held := [], heldWin := none } }
    refreshDegraded (note (wrF (closeDie s d reason by_) (hng 0 4) HNG.TRAIN_STAT.STATE 3))
  else refreshDegraded (logRec (closeDie s d reason by_) 0x10 d 0xFF [if 32 ≤ d then 2 else 0, reason])

/-- A Hinge is fenced; a base die left with no route to the hub is fenced with it (R177, R187). -/
def fenceHinge (s : State) (d i reason : Nat) : State :=
  let s := logRec (closeHinge s d i) 0x10 d i [1, reason]
  let s := (List.range 4).foldl (fun (s : State) a => if dieUp s (1 + a) && !reachesHub s a then fenceDie s (1 + a) 7 else s) s
  refreshDegraded s

/-- Harts on a die are offline: parked. -/
def diesOffline (s : State) (ds : List Nat) : Bool :=
  (List.range (hartCount s)).all (fun h => !ds.contains (coreDie (hartOf s h).core) || ((hartOf s h).run = .parked && (hartOf s h).rst.isNone))

/-- A stack may be taken out (R213). -/
def stackFree (s : State) (k : Nat) : Bool :=
  rdF s hub HUB.MEM_CFG.MODE = 1 && stackUp s (partner k) && rdF s (mch (partner k)) MCH.RESYNC.BUSY = 0

/-- R27 allows the fence of a die. -/
def dieAllowed (s : State) (d : Nat) : Bool :=
  (if 1 ≤ d && d ≤ 4 then
      rdF s hub HUB.MEM_CFG.MODE = 1 && diesOffline s [8 + 3 * (d - 1), 9 + 3 * (d - 1), 10 + 3 * (d - 1)]
        && (List.range 2).all (fun u => stackFree s (2 * (d - 1) + u))
    else if 8 ≤ d && d ≤ 19 then diesOffline s [d]
    else if 32 ≤ d && d ≤ 39 then stackFree s (d - 32)
    else d = 24 || d = 28)
  && minService (fenceDie s d 5)

/-- R27 allows the fence of a Hinge. -/
def hingeAllowed (s : State) (d i : Nat) : Bool :=
  !(d = 0 && i = 4) && otherRoute s d i && minService (fenceHinge s d i 5)

/-- Bytes 0-251 of a record and its CRC (R406). -/
def recBytes (s : State) (seq : Nat) (r : LbxRec) (flags : Nat) : List Nat :=
  let b := leBytes seq 4 ++ leBytes (mget 0 s.life (7 * 4096)) 4 ++ leBytes r.gtime 8 ++ leBytes r.code 2 ++ [r.mode, flags + b2n r.sec + 4 * b2n r.hw, r.die, r.inst, 0, 0]
    ++ (r.pay ++ List.replicate 228 0).take 228
  b ++ leBytes (crc32 b) 4

/-- The record of a fatal condition is sealed in the lowest free slot (R409). -/
def sealFault (s : State) (cond : Nat) (pay : List Nat) : State :=
  let r : LbxRec := ⟨0xF0, false, 0, 0xFF, s.gtime, modeOf s, [cond, 0, 0, 0] ++ pay, false⟩
  let s := logRec s 0xF0 0 0xFF ([cond, 0, 0, 0] ++ pay)
  match (List.range 64).find? (fun n => (mfind s.wd.seals n).isNone) with
  | some n => { s with wd := { s.wd with seals := mput s.wd.seals n (recBytes s (s.wd.seq + s.lbq.length) r 2) } } |> fun (s : State) => capture s lbx 0
  | none => addF s lbx LBX.SEAL_STAT.LOST

/-- Every domain outside the always-on one loses its contents: caches, directories and the HBM3E stacks; links go down
(R379, R382). -/
def powerDown (s : State) : State :=
  let s := (List.range 4).foldl (fun (s : State) p => (List.range 4).foldl (fun (s : State) l => rcxDown s p l) s) s
  let s := ylkOff s
  { s with
    harts := s.harts.map (fun (e : Nat × Hart) => (e.1, resetHart e.2)),
    l2 := [], l3 := [], snps := [], rsps := [], wbs := [], retries := [], pendq := [], iot := [], probes := [], irqs := [], doms := [],
    dram := s.dram.filter (fun e => 0x0100_0000_0000 ≤ e.1), poison := s.poison.filter (fun w => 0x0020_0000_0000 ≤ w),
    lstore := [], lsBad := [], scan := { s.scan with runs := [], push := [], pull := [], owes := [], late := [] },
    spl := { s.spl with dma := [] }, scrubs := [], fill := none, recal := [] }

/-- Lockdown (R382): the fault is sealed, harts and scans stop, the field outputs are dealt with by the mode at entry, and
everything else is powered down. A mode transition it pre-empts (R377), and every command that
names what is powered down, ends REFUSED. -/
def lockdown (s : State) (cond cause : Nat) (pay : List Nat) : State :=
  let m := modeOf s
  let paired := decide (pairState s = 2)
  let s := sealFault s cond pay
  let s := (List.range 3).foldl (fun (s : State) c =>
    let k := (chanOfW s c).code
    if k ≠ 0 && k ≠ 0x40 && k ≠ 0x41 then answer s c stRefused else s) s
  let s := { s with wd := { s.wd with leaving := [] } }
  let s := lifeAdd s (7 * 4096 + 3)
  let s := { s with wd := { s.wd with lifeCk := s.life } }
  let ms := rdF s (pwr 0) PWR.HOLD_CFG.LD_HOLD_MS
  let up := barUp s
  let s :=
    if !up then s
    else if (m = 4 || m = 6) && !paired then
      if ms = 0 then barDown s
      else
        let s := (clsOn s).foldl (fun (s : State) c => barSend s true 0x104 (c + 256) (s.gtime + (clsOf s c).next % 2 ^ 32 * 2 ^ 64)) s
        { s with bar := { s.bar with ldHold := some (s.gtime + msUnits ms) } }
    else if m = 3 then barDown s
    else barDown { s with fld := { s.fld with stopped := true } }
  goMode (powerDown s) 7 cause

/-- A fatal condition (R378): latched during a management pause (R413), else Lockdown from Boot, Run, Shadow and Hold. -/
def fatal (s : State) (cond : Nat) (pay : List Nat) : State :=
  if s.wd.pause then { s with wd := { s.wd with latched := s.wd.latched ++ [.fatal cond pay] } }
  else if 3 ≤ modeOf s && modeOf s ≤ 6 then lockdown s cond (if cond = 7 then 9 else 4) pay
  else s

/-- A fault may leave less than the minimum service set (R28). -/
def checkService (s : State) : State := if minService s then s else fatal s 3 []

/-- LOCKDOWN_HOLD_EXPIRE (R382): the hub sends no further OUT_FLIP and takes the barrier down. -/
def execLockdownHoldExpire (s : State) : Res :=
  match s.bar.ldHold with
  | none => .next s
  | some t => .next (barDown (let s := runTo s t; { s with bar := { s.bar with ldHold := none } }))

/-- FLIT_HEADER_UE (R178): FATAL is captured in the fabric instance of die `d`. -/
def execFlitHeaderUe (d : Nat) (s : State) : Res :=
  if present s (xfb d) then .next (fatal (capture s (xfb d) 3) 1 []) else .next s

/-- Modules of an attempt that may be used (R183, R193): without LANE_REPAIR a module with any failing lane is out. -/
def goodMask (s : State) (f : TrainFind) : Nat :=
  (List.range 8).foldl (fun a k =>
    let n := (f.lanes[k]?).getD 0
    if bit f.mask k && n ≤ 4 && (n = 0 || capEff s 2) then a + 2 ^ k else a) 0
def popCount (m : Nat) : Nat := ((List.range 8).filter (fun k => bit m k)).length

/-- The field LANES_k of HNG.REPAIR. -/
def lanesF (k : Nat) : Field := { HNG.REPAIR.LANES_0 with hi := 3 * k + 2, lo := 3 * k }

/-- A training attempt succeeds: both ends hold the width, mask and epoch (R184, R185). -/
def hingeTrained (s : State) (d i mask epoch : Nat) (f : TrainFind) : State :=
  let (e, j) := farEnd d i
  let one := fun (s : State) (d i : Nat) =>
    let b := hng d i
    let s := wrF (wrF s b HNG.TRAIN_STAT.STATE 2) b HNG.TRAIN_STAT.ATTEMPTS 0
    let s := wrF (wrF s b HNG.TRAIN_STAT.MASK mask) b HNG.TRAIN_STAT.WIDTH (popCount mask)
    let s := wrF (wrF s b HNG.TRAIN_STAT.EPOCH epoch) b HNG.TRAIN_STAT.PEER_EPOCH epoch
    (List.range 8).foldl (fun (s : State) k => wrF s b (lanesF k) ((f.lanes[k]?).getD 0)) s
  one (one s d i) e j

/-- A Hinge is up again: meshes that had left it use it from the next packet boundary (R177). -/
def hingeBack (s : State) (d i : Nat) : State :=
  let (e, j) := farEnd d i
  let one := fun (s : State) (d i : Nat) =>
    if d = 0 then s
    else (List.range 5).foldl (fun (s : State) t =>
      if rdF s (xfb d) XFB.ROUTE.PRI t = i then wrF s (xfb d) XFB.ROUTE.USING_ALT 0 t else s) s
  refreshDegraded (one (one s d i) e j)

/-- A full attempt of a retrain ends (R184, R186, R444). -/
def retrainEnd (s : State) (d i : Nat) (f : TrainFind) : State :=
  let (e, j) := farEnd d i
  let b := hng d i
  let mask := goodMask s f
  if f.ok && mask ≠ 0 then
    let old := rdF s b HNG.TRAIN_STAT.WIDTH
    let ep := (rdF s b HNG.TRAIN_STAT.EPOCH + 1) % 16
    let s := hingeBack (hingeTrained s d i mask ep f) d i
    let s := lifeAdd (logRec s 0x12 d i [old, popCount mask, ep]) (3 * 4096 + d * 16 + 2 * i)
    capture (capture s b 0) (hng e j) 0
  else
    let one := fun (s : State) (d i : Nat) =>
      wrF (wrF s (hng d i) HNG.TRAIN_STAT.STATE 0) (hng d i) HNG.TRAIN_STAT.ATTEMPTS (min 3 (rdF s (hng d i) HNG.TRAIN_STAT.ATTEMPTS + 1))
    one (one s d i) e j

/-- A Hinge instance exists and both dies are in service; hub instance 4 is the open site's link. -/
def hingeThere (s : State) (d i : Nat) : Bool := present s (hng d i) && i < 4 && dieUp s (farEnd d i).1

/-- HINGE_TRAIN_ATTEMPT (R184, R196): an attempt of a Hinge in training ends; instance 4 of the hub is the UCIe link with
two modules. -/
def execHingeTrainAttempt (d i : Nat) (f : TrainFind) (s : State) : Res :=
  if d = 0 && i = 4 then
    let b := hng 0 4
    if !present s b || !fitted s.variant 28 || rdF s b HNG.TRAIN_STAT.STATE = 2 then .next s
    else
      let mask := f.mask % 4
      if f.ok && mask ≠ 0 then
        .next (wrF (wrF (wrF s b HNG.TRAIN_STAT.STATE 2) b HNG.TRAIN_STAT.MASK mask) b HNG.TRAIN_STAT.WIDTH (popCount mask))
      else .next (wrF s b HNG.TRAIN_STAT.STATE 0)
  else if hingeThere s d i && rdF s (hng d i) HNG.TRAIN_STAT.STATE = 1 then .next (retrainEnd s d i f)
  else .next s

/-- HINGE_ATTEMPT_RETRY (R184, R187): 100 µs after a failed attempt the next one starts; after three the Hinge is fenced. -/
def execHingeAttemptRetry (d i : Nat) (s : State) : Res :=
  let b := hng d i
  if !hingeThere s d i || rdF s b HNG.TRAIN_STAT.STATE ≠ 0 || rdF s b HNG.TRAIN_STAT.ATTEMPTS = 0 then .next s
  else if 3 ≤ rdF s b HNG.TRAIN_STAT.ATTEMPTS then .next (checkService (fenceHinge s d i 6))
  else
    let (e, j) := farEnd d i
    .next (wrF (wrF s b HNG.TRAIN_STAT.STATE 1) (hng e j) HNG.TRAIN_STAT.STATE 1)

/-- A recalibration ends at one end with a result (R189). -/
def recalOver (s : State) (d i result : Nat) : State :=
  let s := wrF (wrF s (hng d i) HNG.RECAL.BUSY 0) (hng d i) HNG.RECAL.RESULT result
  capture { s with recal := mdel s.recal (d * 8 + i) } (hng d i) 3

/-- RETRAIN_REQUEST (R186, R188): both ends of a Hinge in training after a die reset run a full attempt; a recalibration is
abandoned. -/
def execRetrainRequest (d i : Nat) (f : TrainFind) (s : State) : Res :=
  if !hingeThere s d i || rdF s (hng d i) HNG.TRAIN_STAT.STATE ≠ 1 then .next s
  else
    let s := if rdF s (hng d i) HNG.RECAL.BUSY = 1 then recalOver s d i 2 else s
    let (e, j) := farEnd d i
    let s := if rdF s (hng e j) HNG.RECAL.BUSY = 1 then recalOver s e j 2 else s
    .next (retrainEnd s d i f)

/-- The regulated resources of a Hinge (R226). -/
def hingeRes (d i : Nat) : List Nat :=
  if d = 0 then [2 + 2 * i, 3 + 2 * i]
  else
    let a := d - 1
    let b := peerOf a i
    if b = 4 then [2 + 2 * a, 3 + 2 * a]
    else match (List.range 6).find? (fun q => peerPair q = (min a b, max a b)) with
      | some q => [10 + 2 * q, 11 + 2 * q]
      | none => []

/-- A recalibration of one module is asked for (R189, R444): refused while the width is 1, the guarantees would not fit, the
module is out of service, or LIVE_RECAL is off. -/
def recalStart (s : State) (d i md : Nat) : State :=
  let b := hng d i
  if !hingeThere s d i || rdF s b HNG.RECAL.BUSY = 1 then s
  else
    let w := rdF s b HNG.TRAIN_STAT.WIDTH
    let ovr := (hingeRes d i).any (fun r => rdF s bwr BWR.CAPACITY.CAP r * (w - 1) / 8 < guarSum s r false)
    if rdF s b HNG.TRAIN_STAT.STATE ≠ 2 || w ≤ 1 || ovr || !bit (rdF s b HNG.TRAIN_STAT.MASK) md || !capEff s 3 then wrF s b HNG.RECAL.RESULT 2
    else wrF { s with recal := mput s.recal (d * 8 + i) md } b HNG.RECAL.BUSY 1

/-- RECAL_AUTO (R189): every AUTO_MS milliseconds the Warden recalibrates one module. -/
def execRecalAuto (d i md : Nat) (s : State) : Res :=
  if present s (hng d i) && rdF s (hng d i) HNG.RECAL.AUTO_MS ≠ 0 then .next (recalStart s d i md) else .next s

/-- A module is dropped (R189, R190, R444); the last one fences the Hinge. A module out for recalibration that would leave
none in service is returned at once (R188). -/
def dropModule (s : State) (d i md : Nat) : State :=
  let b := hng d i
  let (e, j) := farEnd d i
  if !bit (rdF s b HNG.TRAIN_STAT.MASK) md then s
  else
    let mask := rdF s b HNG.TRAIN_STAT.MASK - 2 ^ md
    let ep := (rdF s b HNG.TRAIN_STAT.EPOCH + 1) % 16
    let one := fun (s : State) (d i : Nat) =>
      let b := hng d i
      let s := wrF (wrF s b HNG.TRAIN_STAT.MASK mask) b HNG.TRAIN_STAT.WIDTH (popCount mask)
      let s := wrF (wrF s b HNG.TRAIN_STAT.EPOCH ep) b HNG.TRAIN_STAT.PEER_EPOCH ep
      capture s b 1
    let s := one (one s d i) e j
    let s := lifeAdd (logRec s 0x13 d i [md]) (3 * 4096 + d * 16 + 2 * i + 1)
    if mask = 0 then checkService (fenceHinge s d i 6)
    else
      let back := fun (s : State) (d i : Nat) =>
        if popCount mask = 1 && rdF s (hng d i) HNG.RECAL.BUSY = 1 then recalOver s d i 2 else s
      back (back s d i) e j

/-- RECAL_DONE (R189): the module returns, or fails and is dropped. -/
def execRecalDone (d i : Nat) (ok : Bool) (s : State) : Res :=
  match mfind s.recal (d * 8 + i) with
  | none => .next s
  | some md => if ok then .next (recalOver s d i 1) else .next (dropModule (recalOver s d i 3) d i md)

/-- HINGE_CRC_FAIL (R190): a flit fails its CRC and is replayed. -/
def execHingeCrcFail (d i : Nat) (s : State) : Res :=
  if present s (hng d i) then .next (addF (addF (countEv (countEv s (hng d i) 0x12) (hng d i) 0x13) (hng d i) HNG.CRC_CNT.COUNT) (hng d i) HNG.REPLAY_CNT.COUNT) else .next s

/-- HINGE_REPLAY_RATE (R190): more than 64 replays of a module within 1 ms start its recalibration. -/
def execHingeReplayRate (d i md : Nat) (s : State) : Res := .next (recalStart s d i md)

/-- HINGE_REPLAY_EXHAUSTED (R190): a flit fails 8 replays in a row and its module is dropped. -/
def execHingeReplayExhausted (d i md : Nat) (s : State) : Res :=
  if hingeThere s d i && hingeUp s d i then .next (dropModule s d i md) else .next s

/-- VERTICAL_PORT_FAIL (R192): the compute die of the port is fenced. -/
def execVerticalPortFail (d : Nat) (s : State) : Res :=
  if 8 ≤ d && d ≤ 19 && dieUp s d then .next (checkService (fenceDie s d 6)) else .next s

/-- Bytes of the open site's profile. -/
def profByte (p n : Nat) : Nat := p / 2 ^ (8 * n) % 256

/-- A profile is refused (R197). -/
def profileBad (p : Nat) : Bool :=
  crc32 ((List.range 60).map (profByte p)) ≠ p / 2 ^ 480 % 2 ^ 32 || (List.range 48).any (fun n => profByte p (12 + n) ≠ 0)
    || bits (profByte p 6) 7 5 ≠ 0 || profByte p 5 / 16 ≠ 1 || 50 < profByte p 10 || 38 < profByte p 11

/-- OPEN_SITE_PROFILE_READ (R197): after link-up the profile admits the site or fences it with REASON 9. -/
def execOpenSiteProfileRead (p : BitVec 512) (s : State) : Res :=
  if rdF s (hng 0 4) HNG.TRAIN_STAT.STATE ≠ 2 || dieUp s 28 || !fitted s.variant 28 then .next s
  else if profileBad p.toNat then .next (fenceDie s 28 9)
  else
    let s := { s with profile := p.toNat }
    .next (refreshDegraded { s with dies := mput s.dies 28 { mget ({} : Die) s.dies 28 with st := 1, reason := 0, rev := profByte p.toNat 4 } })

/-- OPEN_SITE_TIME (R200): at a multiple of 2^20 GTIME units a site that needs time is sent it. -/
def execOpenSiteTime (s : State) : Res :=
  if dieUp s 28 && bit (profByte s.profile 6) 4 then
    let s := runTo s ((s.gtime + 0xFFFFF) / 0x100000 * 0x100000)
    .next (send s .site 2 [s.gtime])
  else .next s

/-- DDR_CHANNEL_LOSS (R206): a channel in use loses its link, which is fatal. -/
def execDdrChannelLoss (c : Nat) (s : State) : Res :=
  if c < ddrChans s then
    .next (fatal s 2 (leBytes (rdF s (mcd c) MCH.UE_ADDR_LO.ADDR) 4 ++ leBytes (rdF s (mcd c) MCH.UE_ADDR_HI.ADDR) 4
      ++ leBytes (rdF s (mcd c) MCH.UE_INFO.VALID * 2 ^ 31 + rdF s (mcd c) MCH.UE_INFO.OVER * 2 ^ 30 + rdF s (mcd c) MCH.UE_INFO.REPAIRED * 2 ^ 29
        + rdF s (mcd c) MCH.UE_INFO.SOURCE * 2 ^ 26 + rdF s (mcd c) MCH.UE_INFO.WORDS) 4))
  else .next s

/-- RESYNC_DONE (R215): the stack holds its copies again; after both stacks of a base die the lines of its value go home. -/
def execResyncDone (st : Nat) (s : State) : Res :=
  if 8 ≤ st || rdF s (mch st) MCH.RESYNC.BUSY = 0 then .next s
  else
    let s := wrF s (mch st) MCH.RESYNC.BUSY 0
    let s := wrF s (mch st) MCH.RESYNC.PTR 0x18000000
    let s := capture s (mch st) 3
    let b := st / 2
    let both := (List.range 2).all (fun u => stackUp s (2 * b + u) && rdF s (mch (2 * b + u)) MCH.RESYNC.BUSY = 0)
    let s := if both && dieUp s (1 + b) && subOf s b ≠ b then
        let s := (s.l3.filter (fun e => homeVal (e.1 * 64) = b)).foldl (fun (s : State) (e : Nat × L3Line) =>
          let (d, p) := curLine s e.1
          let s := dropAll (putMem s e.1 d p) e.1
          { s with l3 := mdel s.l3 e.1 }) s
        moveHome s b b
      else s
    .next (refreshDegraded s)

end Sys2Proof.Machine
end

