-- ==== Sys2Proof/Machine/Mailbox.lean ====
section
/-! DEFINITION. The Warden mailbox (R397-R399): a command is written, taken up, and ends with a status. What each command
does stands in Machine/Servicing.lean and Machine/Modes.lean; the answers themselves in Machine/HartCtl.lean. -/
namespace Sys2Proof.Machine
open Sys2Proof

/-- A write of CH_CMD (R398): ignored while BUSY; an unlisted code is answered INVALID when it is taken up. -/
def cmdWrite (s : State) (c v : Nat) (w : Who) : State :=
  if 3 ≤ c || rdF s wdn (chBusyF c) = 1 then s
  else setChan s c { chanOfW s c with asked := some (v % 65536, v / 2 ^ 24 % 256), who := { w with sec := decide (c = 0) } }

/-- The listed command codes (R400). -/
def listedCodes : List Nat := [0x01, 0x10, 0x11, 0x20, 0x21, 0x22, 0x23, 0x30, 0x31, 0x32, 0x40, 0x41, 0x50, 0x51, 0x52, 0x60, 0x61, 0x62, 0x70, 0x80]

/-- Who a command on channel `c` acts for: the world of the channel (R313, R397). -/
def cmdWho (s : State) (c : Nat) : Who := { (chanOfW s c).who with sec := decide (c = 0) }

/-- The units that a die, a Hinge and a hart name (R398). -/
def dieNames (d : Nat) : List Nat :=
  if 8 ≤ d && d ≤ 19 then [d, 1 + (d - 8) / 3] else if 32 ≤ d && d ≤ 39 then [d, 1 + (d - 32) / 2] else [d]
def hingeNames (d i : Nat) : List Nat :=
  let (e, j) := farEnd d i
  [unitHinge d i, unitHinge e j] ++ (if d = 0 then [] else [d]) ++ (if e = 0 then [] else [e])
def hartNames (s : State) (h : Nat) : List Nat := unitHart h :: dieNames (coreDie (hartOf s h).core)

/-- A command of code `code` on channel `c` is taken up (R398): it is answered DENIED where only channel 0 may carry it,
BUSY where it names a unit that a command in progress on another channel names; else `k` carries it out. During a
management pause, and while the Warden does not run, nothing is taken up (R413). -/
def takeUp (s : State) (c code : Nat) (only0 : Bool) (names : List Nat) (k : State → State) : State :=
  match (chanOfW s c).asked with
  | none => s
  | some (cd, tag) =>
    if 3 ≤ c || cd ≠ code || s.wd.pause || modeOf s = 0 then s
    else
      let s := wrF (wrF s wdn (chTagF c) tag) wdn (chBusyF c) 1
      let s := putRsp (setChan s c { chanOfW s c with asked := none, code := code, names := names, arg := 0 }) c 0 (List.replicate 64 0)
      if only0 && c ≠ 0 then answer s c stDenied
      else if (List.range 3).any (fun e => e ≠ c && (chanOfW s e).code ≠ 0 && (chanOfW s e).names.any names.contains) then answer s c stBusy
      else k s

/-- Commands with an unlisted code are answered INVALID (R400). -/
def takeUnlisted (s : State) : State :=
  (List.range 3).foldl (fun (s : State) c =>
    match (chanOfW s c).asked with
    | some (cd, _) => if listedCodes.contains cd then s else takeUp s c cd false [] (fun s => answer s c stInvalid)
    | none => s) s

/-- The package is powered whole: modes Boot to Hold. -/
def powered (s : State) : Bool := 3 ≤ modeOf s && modeOf s ≤ 6

/-- A block of die `d` is secure-held. -/
def heldOn (s : State) (d : Nat) : Option Blk :=
  (s.hdrs.find? (fun e => e.1 / 65536 = d && e.2.secHold)).map (fun e => ⟨d, e.1 % 65536⟩)

/-- The first secure-held block of some dies. -/
def heldAmong (s : State) (ds : List Nat) : Option Blk := ds.findSome? (heldOn s)

/-- A command of the normal world that would stop a secure-held block is refused (R323). -/
def denyHeld (s : State) (c kind : Nat) (ds : List Nat) (k : State → State) : State :=
  match heldAmong s ds with
  | some b => if c = 0 then k s else answer (secEvent s kind (basePage b) (cmdWho s c) true) c stDenied
  | none => k s

end Sys2Proof.Machine
end

