-- ==== Sys2Proof/Machine/Clock.lean ====
section
/-! DEFINITION. Clocks, sync pulses, operating points, power domains, throttling and power limiting (chapters "Time Base,
Clocks and Reset" and "Power Domains and Operating Modes"). -/
namespace Sys2Proof.Machine
open Sys2Proof

/-- A die with a root of its own (R61). -/
def hasRoot (d : Nat) : Bool := d = 0 || (1 ≤ d && d ≤ 4) || (8 ≤ d && d ≤ 19)

/-- ROOT_LOCK (R61): the root VCO of die `d` locks after `us` microseconds, at most 50. -/
def execRootLock (d us : Nat) (s : State) : Res :=
  if !hasRoot d || !fitted s.variant d || !powered s || 50 < us then .next s
  else
    let s := { s with dies := mput s.dies d { mget ({} : Die) s.dies d with locked := true } }
    .next (wrF (wrF s (clk d) CLK.PLL_STAT.LOCK_US us) (clk d) CLK.PLL_STAT.LOCK 1)

/-- REF_LOSS (R63): loss of the reference or of root lock on die `d` is fatal in Boot, Run, Shadow and Hold. -/
def execRefLoss (d : Nat) (s : State) : Res :=
  if !powered s || !hasRoot d || !dieUp s d then .next s else .next (fatal s 0 [])

/-- The deviation of one die at a check (R72). -/
def syncDie (s : State) (d : Nat) (v : Int) : State :=
  if d = 0 || !hasRoot d || !dieUp s d then s
  else
    let big := decide (2 ≤ v.natAbs)
    let x := mget ({} : Die) s.dies d
    let s := { s with dies := mput s.dies d { x with dev := v, slew := x.slew || big } }
    let s := wrF s (clk d) CLK.SYNC_STAT.DEV (dev8 v)
    if big then
      logRec (capture (addF s (clk d) CLK.SYNC_STAT.SLEW_CNT) (clk d) 0) 0x14 d 0xFF (leBytes ((BitVec.ofInt 16 v).toNat) 2)
    else s

/-- SYNC_PULSE (R72): at a multiple of 2^20 units each die's deviation is measured; the operand gives those that a fault has
made differ from 0. -/
def execSyncPulse (devs : List (Nat × Int)) (s : State) : Res :=
  if !powered s then .next s
  else
    let s := runTo s ((s.gtime + 0xFFFFF) / 0x100000 * 0x100000)
    .next ((List.range 20).foldl (fun (s : State) d =>
      syncDie s d (((devs.find? (fun e => e.1 = d)).map (·.2)).getD (mget ({} : Die) s.dies d).dev)) s)

/-- The harts on a cluster. -/
def clusterHarts (s : State) (d n : Nat) : List Nat :=
  (s.harts.filter (fun e => coreDie e.2.core = d && coreInst e.2.core = n)).map (·.1)
def detHart (s : State) (h : Nat) : Bool := wbit (csr (hartOf s h) 0x7C0) 0
def detCluster (s : State) (d n : Nat) : Bool := (clusterHarts s d n).any (detHart s)

/-- The voltage level that a cluster settles at (R66, R68): that of its operating point, not below P1 for deterministic harts
or DET_FLOOR. -/
def volTarget (s : State) (d n : Nat) : Nat :=
  max (2 - rdF s (clk d) CLK.CLU_CFG.DIV n) (if rdF s (clk d) CLK.CLU_CFG.DET_FLOOR n = 1 || detCluster s d n then 1 else 0)

/-- What forces a cluster's CoreClk to /4 (R390, R392): its die, its base die or the hub at THROT, or power limiting with no
hart in deterministic mode. -/
def forced (s : State) (d n : Nat) : Bool :=
  let hot := fun (e : Nat) => rdF s (pwr e) PWR.THERM_STAT.CAUSING = 1
  hot d || hot (1 + (d - 8) / 3) || hot 0 || (s.wd.limiting && !detCluster s d n)

/-- Throttling takes effect or ends on every cluster whose operating point is not changing (R69, R390, R393). -/
def applyThrottle (s : State) : State :=
  (List.range 72).foldl (fun (s : State) c =>
    let d := clDie c
    let n := clInst c
    let v := forced s d n
    if !dieUp s d || rdF s (clk d) CLK.CLU_STAT.TRANS n = 1 || rdF s (clk d) CLK.CLU_STAT.THROTTLED n = b2n v then s
    else
      let s := wrF s (clk d) CLK.CLU_STAT.THROTTLED (b2n v) n
      capture (wrF s (clk d) CLK.CLU_STAT.DIV (if v then 2 else rdF s (clk d) CLK.CLU_CFG.DIV n) n) (clk d) 2) s

/-- A committed change of DIV starts (R67): a raise first where the new point needs one, else the switch. -/
def dvfsStart (s : State) (d n : Nat) : State :=
  let s := wrF s (clk d) CLK.CLU_STAT.TRANS 1 n
  { s with dvfs := mput s.dvfs (domKey d n) (if rdF s (clk d) CLK.CLU_STAT.VLEVEL n < volTarget s d n then 1 else 2) }

/-- A change of operating point is complete (R67). -/
def dvfsEnd (s : State) (d n : Nat) : State :=
  let s := wrF { s with dvfs := mdel s.dvfs (domKey d n) } (clk d) CLK.CLU_STAT.TRANS 0 n
  applyThrottle (capture s (clk d) 1)

/-- A cluster that answers. -/
def clusterThere (s : State) (d n : Nat) : Bool := 8 ≤ d && d ≤ 19 && n < 6 && dieUp s d

/-- DVFS_RAISE_DONE (R67, R68): the regulator has raised the cluster voltage, for a new operating point or for a hart that
enters deterministic mode. -/
def execDvfsRaiseDone (d n : Nat) (s : State) : Res :=
  let t := volTarget s d n
  if !clusterThere s d n || t ≤ rdF s (clk d) CLK.CLU_STAT.VLEVEL n then .next s
  else
    let s := wrF s (clk d) CLK.CLU_STAT.VLEVEL t n
    .next (if mfind s.dvfs (domKey d n) = some 1 then { s with dvfs := mput s.dvfs (domKey d n) 2 } else s)

/-- DVFS_SWITCH (R67): CoreClk switches at the first multiple of 32, or of 96 for /3, once the voltage has settled. -/
def execDvfsSwitch (d n : Nat) (s : State) : Res :=
  if mfind s.dvfs (domKey d n) ≠ some 2 || !clusterThere s d n then .next s
  else
    let v := rdF s (clk d) CLK.CLU_CFG.DIV n
    let m := if v = 1 then 96 else 32
    let s := runTo s ((s.gtime + m - 1) / m * m)
    let s := if rdF s (clk d) CLK.CLU_STAT.THROTTLED n = 1 then s else wrF s (clk d) CLK.CLU_STAT.DIV v n
    if volTarget s d n < rdF s (clk d) CLK.CLU_STAT.VLEVEL n then .next { s with dvfs := mput s.dvfs (domKey d n) 3 }
    else .next (dvfsEnd s d n)

/-- DVFS_LOWER_DONE (R67, R68): the regulator has lowered the voltage after the switch. -/
def execDvfsLowerDone (d n : Nat) (s : State) : Res :=
  if mfind s.dvfs (domKey d n) ≠ some 3 || !clusterThere s d n then .next s
  else .next (dvfsEnd (wrF s (clk d) CLK.CLU_STAT.VLEVEL (volTarget s d n) n) d n)

/-- The domains that can sleep (R383, R384): clusters, L3 slices and root ports. -/
def isDomain (d n : Nat) : Bool := (8 ≤ d && d ≤ 19 && n < 6) || (1 ≤ d && d ≤ 4 && n = 0) || (d = 0 && n < 4)

/-- The blocks of a domain. -/
def domBlocks (d n : Nat) : List Blk :=
  if d = 0 then [rcx n] else if d ≤ 4 then [l3c d, dirB d] else [hcl d n]

/-- The condition of R384 for a domain to sleep. -/
def domMaySleep (s : State) (d n : Nat) : Bool :=
  capEff s 10 && (mget ({} : Dom) s.doms (domKey d n)).held.isEmpty && (mget ({} : Dom) s.doms (domKey d n)).heldTx.isEmpty
  && (if d = 0 then rdF s (rcx n) RCX.LINK_CFG.UP = 0
      else if d ≤ 4 then (clsOn s).isEmpty
      else (clusterHarts s d n).all (fun h => ((hartOf s h).run = .parked || (hartOf s h).run = .wfi) && !detHart s h)
        && rdF s (clk d) CLK.CLU_CFG.DET_FLOOR n = 0)

/-- DOM_CTRL.REQ has been written (R384, R323, R324). -/
def domRequest (s : State) (w : Who) (d n req : Nat) : State :=
  let st := fun (s : State) v => wrF s (pwr d) PWR.DOM_CTRL.STATUS v n
  if !isDomain d n || !dieUp s d then s
  else match if w.sec then none else (domBlocks d n).find? (secHeld s) with
  | some b => st (secEvent s 2 (basePage b) w true) 3
  | none =>
    if !(4 ≤ modeOf s && modeOf s ≤ 6) then st s 4
    else if req = 0 then domGo s d n 0
    else if !domMaySleep s d n then st s 4
    else match if w.sec || d < 8 then none else (clusterHarts s d n).find? (fun h => (hartOf s h).run ≠ .parked && secureHart (hartOf s h)) with
      | some h =>
        let x := hartOf s h
        st (setHart s h { x with deferred := x.deferred ++ [.gate n req w] }) 2
      | none => domGo s d n req

/-- What waited for a domain is delivered, oldest first (R160). -/
def deliverHeld (s : State) (d n : Nat) : State :=
  let dm := mget ({} : Dom) s.doms (domKey d n)
  let s := { s with doms := mput s.doms (domKey d n) { dm with waking := false, held := [], heldTx := [] }, tx := s.tx ++ dm.heldTx }
  dm.held.foldl (fun (s : State) i =>
    let r : Res := match i with
      | .homeRequest r e => execHomeRequest r e s
      | .ioRequest m l op pc => execIoRequest m l op pc s
      | _ => .next s
    match r with
    | .next t => t
    | .fault _ => s
    | .refused _ => s) s

/-- DOMAIN_STATE_REACHED (R384, R161): a cluster's L2 is cleaned before retention. -/
def execDomainStateReached (d n : Nat) (s : State) : Res :=
  match (mget ({} : Dom) s.doms (domKey d n)).goal with
  | none => .next s
  | some g =>
    let s := { s with doms := mput s.doms (domKey d n) { mget ({} : Dom) s.doms (domKey d n) with goal := none } }
    let s := if g = 2 && 8 ≤ d then cleanCluster s ((d - 8) * 6 + n) else s
    let s := capture (wrF (wrF s (pwr d) PWR.DOM_CTRL.STATE g n) (pwr d) PWR.DOM_CTRL.STATUS 1 n) (pwr d) 2
    .next (if g = 0 then deliverHeld s d n else s)

/-- DOMAIN_WAKE_DONE (R160): a domain woken by a packet is awake. -/
def execDomainWakeDone (d n : Nat) (s : State) : Res :=
  if (mget ({} : Dom) s.doms (domKey d n)).waking then .next (deliverHeld (wrF s (pwr d) PWR.DOM_CTRL.STATE 0 n) d n) else .next s

/-- The temperature bin of a reading (R412). -/
def tempBin (t : Int) : Nat := min 32 ((t + 40) / 5).toNat

/-- A reading of one die (R390, R391, R412). During a management pause a die's own logic forces only its own clusters (R413). -/
def thermDie (s : State) (d : Nat) (t : Int) : State :=
  let b := pwr d
  let t8 := (BitVec.ofInt 8 t).toNat
  let s := lifeAdd s (4096 + d * 64 + tempBin t)
  let peak := (BitVec.ofNat 8 (rdF s b PWR.TEMP.PEAK)).toInt
  let s := wrF s b PWR.TEMP.NOW t8
  let s := if peak < t then wrF s b PWR.TEMP.PEAK t8 else s
  let n := if 108 ≤ t then mget 0 s.wd.crit d + 1 else 0
  let s := { s with wd := { s.wd with crit := mput s.wd.crit d n } }
  if s.wd.pause && d < 8 then s
  else
    let th : Int := (rdF s b PWR.THERM_CFG.THROT : Int)
    let hy : Int := (rdF s b PWR.THERM_CFG.HYST : Int)
    let was := rdF s b PWR.THERM_STAT.CAUSING = 1
    if !was && th ≤ t then
      capture (addF (wrF s b PWR.THERM_STAT.CAUSING 1) b PWR.THERM_STAT.COUNT) b 1
    else if was && t < th - hy then capture (wrF s b PWR.THERM_STAT.CAUSING 0) b 1
    else s

/-- THERMAL_SAMPLE (R390, R391): the sensors of the dies in service are read. Ten readings in a row at the critical
temperature are fatal. -/
def execThermalSample (temps : List (Nat × Int)) (s : State) : Res :=
  if !powered s then .next s
  else
    let ds := temps.filter (fun e => hasRoot e.1 && dieUp s e.1)
    let s := ds.foldl (fun (s : State) e => thermDie s e.1 e.2) s
    let s := applyThrottle s
    .next (if ds.any (fun e => 10 ≤ mget 0 s.wd.crit e.1) then fatal s 7 [] else s)

/-- POWER_SAMPLE (R392): the power of the main rails in W. Limiting starts above 850 W, or above 700 W averaged over 10 ms,
and ends below 680 W averaged. -/
def execPowerSample (w : Nat) (s : State) : Res :=
  if !powered s || s.wd.pause then .next s
  else
    let l := (w :: s.wd.samples).take 100
    let sum := l.foldl (· + ·) 0
    let s := wrF { s with wd := { s.wd with samples := l } } (pwr 0) PWR.PKG_PWR.AVG_W (sum / 100)
    let s := if rdF s (pwr 0) PWR.PKG_PWR.PEAK_W < w then wrF s (pwr 0) PWR.PKG_PWR.PEAK_W w else s
    if !s.wd.limiting && (850 < w || 70000 < sum) then
      .next (applyThrottle (capture (addF { s with wd := { s.wd with limiting := true } } (pwr 0) PWR.LIMIT_CNT.COUNT) (pwr 0) 3))
    else if s.wd.limiting && sum < 68000 then .next (applyThrottle { s with wd := { s.wd with limiting := false } })
    else .next s

/-- SUPPLY_DROOP (R429): a droop of rail `r`, 0-8, is counted. -/
def execSupplyDroop (r : Nat) (s : State) : Res := if r < 9 && 0 < modeOf s then .next (lifeAdd s (2 * 4096 + r)) else .next s

end Sys2Proof.Machine
end

