-- ==== Sys2Proof/Machine/Boot.lean ====
section
/-! DEFINITION. From power to the first hart (R74-R79): power-on reset, Boot, warm reset, the return of a die and the spare
swap. -/
namespace Sys2Proof.Machine
open Sys2Proof

/-- A byte, and a little-endian number, of a configuration copy (R402). -/
def cfgByte (k : CfgCopy) (n : Nat) : Nat := (byteAt k.bytes n).toNat
def cfgNum (k : CfgCopy) (n len : Nat) : Nat := readBytes k.bytes n len

/-- A copy's recorded physical core of a logical hart. -/
def cfgCore (k : CfgCopy) (h : Nat) : Nat := cfgNum k (0x110 + 2 * h) 2

/-- A recorded map names no core twice. -/
def mapOnce (k : CfgCopy) : Bool :=
  let cs := ((List.range 240).map (cfgCore k)).filter (· ≠ 0xFFFF)
  cs.eraseDups.length = cs.length

/-- A configuration copy is valid (R403); `ok` says that its CRC matches. -/
def cfgValid (k : CfgCopy) : Bool :=
  let len := cfgNum k 12 4
  k.ok && cfgNum k 0 4 = 0x53434647 && cfgNum k 4 2 = 1 && 0x1000 ≤ len && len ≤ 0x400000 && len % 4 = 0
    && cfgByte k 0x80 ≤ 1 && (List.range 4).all (fun p => cfgByte k (0x90 + p) ≤ 4) && cfgByte k 0x100 ≤ 1
    && (cfgByte k 0x100 = 0 || mapOnce k)

def cfgCopy (s : State) (c : Nat) : CfgCopy := mget {} s.wd.copies c
def cfgSeq (s : State) (c : Nat) : Nat := cfgNum (cfgCopy s c) 8 4

/-- Sequence number `a` is newer than `b` (R404). -/
def newer (a b : Nat) : Bool := let d := (a + 2 ^ 32 - b % 2 ^ 32) % 2 ^ 32; 1 ≤ d && d < 2 ^ 31

/-- The choice between two copies or banks (R404): the newer valid one, A on equal numbers. -/
def chooseOf (okA okB : Bool) (a b : Nat) : Option Nat :=
  if okA && okB then some (if newer b a then 1 else 0) else if okA then some 0 else if okB then some 1 else none

/-- The bank that the loader starts (R395). -/
def chooseBank (m : Map Bank) : Option Nat :=
  let a := mget {} m 0
  let b := mget {} m 1
  chooseOf a.ok b.ok a.seq b.seq

/-- Registers that a boot keeps: the always-on domain's, the field die's, the mode with its cause and the wake record, the
straps and the fuses, the level of PERST#, and the count of warm resets. -/
def keptField (k : Nat) : Bool :=
  let die := (k / (32 * 4096 * 65536)) % 64
  let slot := (k / (32 * 4096)) % 65536
  die = 24 || (die = 0 && (slot / 16 = 2 || slot / 16 = 3)) ||
  ([fkey (pwr 0) PWR.MODE.MODE 0 0, fkey (pwr 0) PWR.MODE.PREV 0 0, fkey (pwr 0) PWR.MODE.CAUSE 0 0, fkey (pwr 0) PWR.MODE.TRANS 0 0,
    fkey (pwr 0) PWR.WAKE_STAT.VALID 0 0, fkey (pwr 0) PWR.WAKE_STAT.SOURCE 0 0, fkey hub HUB.DBG_FUSE.SID 0 0,
    fkey hub HUB.DBG_FUSE.SNID 0 0, fkey hub HUB.DBG_FUSE.NID 0 0, fkey hub HUB.DBG_FUSE.NNID 0 0, fkey y0 YLK.CL_CFG.POS 0 0,
    fkey y0 YLK.CL_CFG.MGR_SEL 0 0, fkey (clk 0) CLK.RST_CAUSE.WARM_CNT 0 0,
    fkey sep SEP.STAT.PERST 0 0] : List Nat).contains k

/-- A block whose header a boot keeps. -/
def keptHdr (k : Nat) : Bool := k / 65536 = 24 || (k / 65536 = 0 && ((k % 65536) / 16 = 2 || (k % 65536) / 16 = 3))

/-- Everything outside the always-on domain and the field die is at its reset state (R74), with the barrier down; `warm`
keeps main memory, its interleave and the hart map. -/
def bootClear (s : State) (warm : Bool) : State :=
  let mode := rdF s hub HUB.MEM_CFG.MODE
  let d := s.dram
  let p := s.poison
  let s := powerDown (barDown s)
  let s : State := { s with
    fields := s.fields.filter (fun e => keptField e.1), shadow := s.shadow.filter (fun e => (e.1 / (32 * 4096 * 65536)) % 64 = 24),
    hdrs := s.hdrs.filter (fun e => keptHdr e.1), dies := s.dies.filter (fun e => e.1 = 24),
    harts := if warm then s.harts.map (fun (e : Nat × Hart) => (e.1, { core := e.2.core })) else [],
    dram := if warm then d else [], poison := if warm then p else [], hbmOn := false, ddrExp := 0, sregs := [], sregPrev := [], chkBusy := [],
    bw := {}, scan := {}, spl := {}, bar := {}, cl := {}, io := { wake := s.io.wake }, recal := [], scrubs := [], fill := none, dvfs := [], profile := 0,
    wd := { s.wd with crit := [], samples := [], limiting := false, leaving := [], bootStep := 0, warm := warm } }
  if warm then wrF s hub HUB.MEM_CFG.MODE mode else s

/-- Boot begins (R77): the instant B. -/
def bootBegin (s : State) (warm : Bool) (rst cause : Nat) : State :=
  let s := wrF (bootClear s warm) (clk 0) CLK.RST_CAUSE.CAUSE rst
  let s := { s with wd := { s.wd with bootAt := s.gtime } }
  goMode s 3 cause

/-- A package warm reset is issued (R76, R79): every other command in progress ends FAILED. -/
def warmReset (s : State) (rst : Nat) (by_ : Option Nat) : State :=
  let s := (List.range 3).foldl (fun (s : State) c => if some c ≠ by_ && (chanOfW s c).code ≠ 0 then answer s c stFailed else s) s
  let s := addF (lifeAdd s (7 * 4096 + 1)) (clk 0) CLK.RST_CAUSE.WARM_CNT
  bootBegin s true (if modeOf s = 7 then 4 else rst) 1

/-- A warm reset can be issued: main rails in range and POWER_FAIL# deasserted (R377). -/
def warmOk (s : State) : Bool := 3 ≤ modeOf s && s.wd.railsOk && !s.wd.pwrFail

/-- The highest record number of the ring (R408). -/
def ringTop (s : State) : Nat := s.wd.ring.foldl (fun a e => max a (e.2.headD 0 + 256 * (e.2[1]?).getD 0 + 65536 * (e.2[2]?).getD 0 + 2 ^ 24 * (e.2[3]?).getD 0)) 0

/-- The always-on domain leaves power-on reset (R70, R74, R377, R395, R412, R435): what MRAM, the fuses and the field island
hold is kept; GTIME starts at 0, the straps are sampled, the power-cycle count is made durable, and the package is in
Standby. -/
def powerOn (s : State) (brown : Bool) (st : Straps) : State :=
  let life := mput s.wd.lifeCk (7 * 4096) (mget 0 s.wd.lifeCk (7 * 4096) + 1)
  let life := if brown then mput life (7 * 4096 + 2) (mget 0 life (7 * 4096 + 2) + 1) else life
  let o := State.blank s.variant
  let keep := fun (k : Nat) => (k / (32 * 4096 * 65536)) % 64 = 24
  let f := s.fields.filter (fun e => keep e.1 || [fkey hub HUB.DBG_FUSE.SID 0 0, fkey hub HUB.DBG_FUSE.SNID 0 0, fkey hub HUB.DBG_FUSE.NID 0 0,
    fkey hub HUB.DBG_FUSE.NNID 0 0, fkey lbx LBX.SEAL_STAT.LOST 0 0].contains e.1)
  let wd : Warden := {
    banks := s.wd.banks, run := (chooseBank s.wd.banks).getD 0, fdBanks := s.wd.fdBanks, fdRun := s.wd.fdRun,
    copies := s.wd.copies, copy := s.wd.copy, ring := s.wd.ring, seals := s.wd.seals, seq := ringTop s, lifeCk := life,
    brown := brown, railsOk := false, pwrFail := s.wd.pwrFail, bootSrc := st.bootSrc }
  let z : State := { o with
    pending := s.pending, free := s.free, variant := s.variant, tx := s.tx, wires := s.wires, resp := s.resp,
    fields := f, shadow := s.shadow.filter (fun e => keep e.1), hdrs := s.hdrs.filter (fun e => e.1 / 65536 = 24),
    dies := s.dies.filter (fun e => e.1 = 24), fld := s.fld, life := life, wd := wd }
  let z := wrF (wrF z y0 YLK.CL_CFG.POS st.clPos) y0 YLK.CL_CFG.MGR_SEL (b2n st.mgrSel)
  goMode (wrF z (pwr 0) PWR.MODE.MODE 0) 1 0

/-- The package goes Off (R377): every domain loses its contents; MRAM and the field island keep theirs. -/
def goOff (s : State) (brown : Bool) : State :=
  let s := barDown s
  let s := { s with wd := { s.wd with brown := s.wd.brown || brown, railsOk := false } }
  wrF { powerDown s with lbq := [], dram := [], poison := [] } (pwr 0) PWR.MODE.MODE 0

/-- POWER_ON_RESET (R74, R431): VSTBY has come into range with the reference present. -/
def execPowerOnReset (brown : Bool) (st : Straps) (s : State) : Res :=
  if modeOf s ≠ 0 then .next s else .next (powerOn s (brown || s.wd.brown) st)

/-- BROWNOUT (R386): in low-power mode the always-on domain goes through a power-on reset. -/
def execBrownout (st : Straps) (s : State) : Res :=
  if modeOf s = 1 || modeOf s = 2 then .next (powerOn (goOff s true) true st) else .next s

/-- VSTBY_OUT_OF_RANGE (R377, R443): with the main rails up it is a brown-out. -/
def execVstbyOutOfRange (s : State) : Res :=
  if modeOf s = 0 then .next s else .next (goOff s s.wd.railsOk)

/-- REFCLK_ABSENT (R434, R63): REF_OK clears; fatal in Boot to Hold, a brown-out in Standby and Watch. -/
def execRefclkAbsent (st : Straps) (s : State) : Res :=
  if powered s then .next (fatal (((List.range 20).filter (fun d => hasRoot d && dieUp s d)).foldl (fun (s : State) d => wrF s (clk d) CLK.PLL_STAT.REF_OK 0) s) 0 [])
  else if modeOf s = 1 || modeOf s = 2 then .next (powerOn (goOff s true) true st)
  else .next s

/-- The die kinds that carry a capability bit (R193): hub, base, compute. -/
def carries (n : Nat) : Bool × Bool × Bool :=
  if n = 0 || (5 ≤ n && n ≤ 8) then (true, true, true)
  else if n ≤ 10 then (true, true, false)
  else if 16 ≤ n && n ≤ 26 then (false, false, true)
  else if 32 ≤ n && n ≤ 39 then (false, true, false)
  else if 48 ≤ n && n ≤ 55 then (true, false, false)
  else (false, false, false)

def isBase (d : Nat) : Bool := 1 ≤ d && d ≤ 4
def isComp (d : Nat) : Bool := 8 ≤ d && d ≤ 19

/-- The required bits of a die's kind (R193). -/
def requiredBits (d : Nat) : List Nat :=
  if d = 0 then [0, 1, 4, 5, 6, 7, 51] else if isBase d then [0, 1, 4, 5, 6, 7, 32, 33, 38, 39] else [0, 5, 6, 7, 16, 17, 19, 20, 21, 22]

/-- A die lacks a required bit. -/
def lacksBit (d cap : Nat) : Bool := (requiredBits d).any (fun n => !bit cap n)

/-- The hub's bits follow the variant's fuses (R193). -/
def hubCap (v : Variant) (cap : Nat) : Nat :=
  let off := match v with
    | .l160 => 2 ^ 53 + 2 ^ 55
    | .n240 => 2 ^ 54
    | .f240 | .f160 => 0
  cap - (cap &&& off)

/-- The supported-revision matrix (R194): revisions are major × 16 + minor. -/
def baseRevOk (hubRev rev : Nat) : Bool :=
  ((rev = 0x10 || rev = 0x11) && (hubRev = 0x10 || hubRev = 0x11)) || (rev = 0x20 && hubRev = 0x11)
def compRevOk (baseRev rev : Nat) : Bool :=
  (rev = 0x10 && (baseRev = 0x10 || baseRev = 0x11))
    || ((rev = 0x11 || rev = 0x12) && (baseRev = 0x10 || baseRev = 0x11 || baseRev = 0x20))
    || (rev = 0x20 && (baseRev = 0x11 || baseRev = 0x20))

/-- The base die a compute die or a stack belongs to. -/
def baseOf (d : Nat) : Nat := if isComp d then 1 + (d - 8) / 3 else 1 + (d - 32) / 2

/-- A die is found unfit at bring-up and fenced, with its Lockbox record. -/
def bootFence (s : State) (d reason : Nat) : State :=
  logRec (setDeg (setDie s d 2 reason) hub true) 0x10 d 0xFF [if 32 ≤ d then 2 else 0, reason]

/-- A die is in service, its root locked and GTIME loaded (R72). -/
def bootDie (s : State) (d rev cap : Nat) : State :=
  let s := { s with dies := mput s.dies d { st := 1, rev := rev, cap := cap, locked := true } }
  if d = 0 || !hasRoot d then s else wrF s (clk d) CLK.SYNC_STAT.SYNCED 1

def lookup (l : List (Nat × Nat)) (d : Nat) : Nat := ((l.find? (fun e => e.1 = d)).map (·.2)).getD 0

/-- The effective capability vector over the dies in service (R193). -/
def capEffOf (s : State) : Nat :=
  (List.range 64).foldl (fun a n =>
    let (h, b, c) := carries n
    let has := fun (d : Nat) => !dieUp s d || bit (mget ({} : Die) s.dies d).cap n
    let ok := (h || b || c) && (!h || has 0) && (!b || (List.range 4).all (fun k => has (1 + k))) && (!c || (List.range 12).all (fun k => has (8 + k)))
    if ok then a + 2 ^ n else a) 0

def setCapEff (s : State) : State :=
  let v := capEffOf s
  wrF (wrF s hub HUB.CAP_EFF_LO.CAP v) hub HUB.CAP_EFF_HI.CAP (v / 2 ^ 32)

/-- Base dies that came up are checked: required bits, revisions, and one major revision (R193-R195). -/
def bootBases (s : State) (f : BootFind) : State :=
  let hr := (mget ({} : Die) s.dies 0).rev
  let s := (List.range 4).foldl (fun (s : State) b =>
    let d := 1 + b
    let rev := lookup f.revs d
    let cap := lookup f.caps d
    if !f.up.contains d then bootFence s d 6
    else
      let s := bootDie s d rev cap
      if lacksBit d cap then bootFence s d 3 else if !baseRevOk hr rev then bootFence s d 2 else s) s
  let up := (List.range 4).filter (fun b => dieUp s (1 + b))
  let major := fun (b : Nat) => (mget ({} : Die) s.dies (1 + b)).rev / 16
  let cnt := fun (m : Nat) => (up.filter (fun b => major b = m)).length
  let best := up.foldl (fun (a : Option Nat) b => match a with
    | none => some (major b)
    | some m => if cnt m < cnt (major b) || (cnt m = cnt (major b) && major b < m) then some (major b) else some m) none
  up.foldl (fun (s : State) b => if best = some (major b) then s else bootFence s (1 + b) 2) s

/-- Compute dies that came up are checked against their base dies. -/
def bootComputes (s : State) (f : BootFind) : State :=
  (List.range 12).foldl (fun (s : State) c =>
    let d := 8 + c
    let rev := lookup f.revs d
    let cap := lookup f.caps d
    if !fitted s.variant d then setDie s d 0 1
    else if !dieUp s (baseOf d) then bootFence s d 7
    else if !f.up.contains d || !f.vports.contains d then bootFence s d 6
    else
      let s := bootDie s d rev cap
      if lacksBit d cap then bootFence s d 3
      else if !compRevOk (mget ({} : Die) s.dies (baseOf d)).rev rev then bootFence s d 2 else s) s

/-- The Hinges as (die, instance), each once: the hub's, then those between base dies. -/
def allHinges : List (Nat × Nat) :=
  (List.range 4).map (fun i => (0, i)) ++ [(1, 0), (1, 1), (1, 2), (2, 1), (2, 2), (3, 2)]

def findTrain (l : List (Nat × TrainFind)) (d i : Nat) : TrainFind := ((l.find? (fun e => e.1 = d * 8 + i)).map (·.2)).getD ⟨0, [], false⟩

/-- Hinge training at bring-up (R184, R185, R187): both ends at epoch 0; after three failed attempts the Hinge is fenced. -/
def bootHinges (s : State) (f : BootFind) : State :=
  let s := allHinges.foldl (fun (s : State) e =>
    let t := findTrain f.hinges e.1 e.2
    let mask := goodMask s t
    if !dieUp s e.1 || !dieUp s (farEnd e.1 e.2).1 then s
    else if t.ok && mask ≠ 0 then hingeTrained s e.1 e.2 mask 0 t
    else logRec (closeHinge s e.1 e.2) 0x10 e.1 e.2 [1, 6]) s
  (List.range 4).foldl (fun (s : State) a => if dieUp s (1 + a) && !reachesHub s a then fenceDie s (1 + a) 7 else s) s

/-- The part of the minimum service set (R28) that is known before memory: a base die with a Hinge and a working core. -/
def minDies (s : State) : Bool :=
  (List.range 4).any (fun b => dieUp s (1 + b) && hingeUp s 0 b && (List.range 3).any (fun j => dieUp s (8 + 3 * b + j) && hasCore s (8 + 3 * b + j)))

/-- The cores that a copy withdraws from service. -/
def cfgWithdrawn (k : CfgCopy) : List Nat := (List.range 288).filter (fun p => bit (cfgByte k (0x2F0 + p / 8)) (p % 8))

/-- BOOT_START (R77 steps 1-6): the hub locks, a configuration copy is chosen, base dies, Hinges and compute dies come up and
are checked. -/
def execBootStart (f : BootFind) (s : State) : Res :=
  if modeOf s ≠ 3 || s.wd.bootStep ≠ 0 || s.wd.pfAt.isSome then .next s
  else
    let s := bootDie s 0 (lookup f.revs 0) (hubCap s.variant (lookup f.caps 0))
    let s := wrF s (clk 0) CLK.RST_CAUSE.BROWNOUT (b2n s.wd.brown)
    let okA := f.copyA && cfgValid (cfgCopy s 0)
    let okB := f.copyB && cfgValid (cfgCopy s 1)
    match chooseOf okA okB (cfgSeq s 0) (cfgSeq s 1) with
    | none => .next (fatal s 5 [])
    | some c =>
      let cause := rdF s (clk 0) CLK.RST_CAUSE.CAUSE + 16 * rdF s (clk 0) CLK.RST_CAUSE.BROWNOUT
      let s := logRec s 0x01 0 0xFF ([cause, c, 0, 0] ++ leBytes (cfgSeq s c) 4 ++ [s.wd.run])
      let s := if s.wd.brown then logRec s 0x04 0 0xFF [] else s
      let k := cfgCopy s c
      let s := { s with wd := { s.wd with copy := c, brown := false, bootStep := 1, spares := f.spares, staged := false,
                                          withdrawn := if s.wd.warm then s.wd.withdrawn else cfgWithdrawn k } }
      let s := { s with io := { s.io with ident := cfgNum k 0x40 11 } }
      let s := (List.range 4).foldl (fun (s : State) p => wrF s (rcx p) RCX.LINK_CFG.MODE (cfgByte k (0x90 + p))) s
      let s := (List.range 40).foldl (fun (s : State) d => if (isBase d || isComp d || 24 ≤ d) && !fitted s.variant d && d ≠ 25 && d ≠ 26 && d ≠ 27 && !(29 ≤ d && d ≤ 31) then setDie s d 0 1 else s) s
      let s := if fitted s.variant 28 then setDie s 28 0 1 else s
      let s := if fitted s.variant 24 then { s with dies := mput s.dies 24 { mget ({} : Die) s.dies 24 with st := 1, reason := 0, rev := lookup f.revs 24 } } else s
      if lacksBit 0 (mget ({} : Die) s.dies 0).cap then .next (fatal s 4 [])
      else
        let s := setCapEff (bootComputes (bootBases s f) f)
        let s := setCapEff (bootHinges s f)
        .next (refreshDegraded (if minDies s then s else fatal s 3 []))

/-- The homes of a value whose die does not serve (R209): the serving die that homes the fewest, ties by h ⊕ 3, h ⊕ 1, h ⊕ 2. -/
def giveHome (s : State) (serving : List Nat) (h : Nat) : State :=
  let cnt := fun (d : Nat) => ((List.range 4).filter (fun g => (serving.contains g || g < h) && subOf s g = d)).length
  let best := [h ^^^ 3, h ^^^ 1, h ^^^ 2].foldl (fun (a : Option Nat) d =>
    if !serving.contains d then a
    else match a with
      | none => some d
      | some b => if cnt d < cnt b then some d else some b) none
  match best with
  | some d => moveHome s h d
  | none => s

/-- HOME_MAP and FOLD at boot (R208, R209, R214). -/
def buildHomes (s : State) : State :=
  let up := (List.range 4).filter (fun b => dieUp s (1 + b))
  let anyStack := (List.range 8).any (stackUp s)
  let mirror := rdF s hub HUB.MEM_CFG.MODE = 1
  let serving := if mirror || !anyStack then up else up.filter (fun b => stackUp s (2 * b) || stackUp s (2 * b + 1))
  let s := (List.range 4).foldl (fun (s : State) h =>
    if serving.contains h then moveHome s h h
    else if mirror then moveHome s h (h ^^^ 3)
    else giveHome s serving h) s
  let ratio := fun (b : Nat) => (homedOn s b).length * 2 / max 1 (b2n (stackUp s (2 * b)) + b2n (stackUp s (2 * b + 1)))
  wrF s hub HUB.MEM_CFG.FOLD (if mirror || !anyStack then 0 else Nat.log2 (serving.foldl (fun a b => max a (ratio b)) 1))

/-- The DDR5 channels used at boot (R206). -/
def ddrUsed (l : List DimmFind) : Nat :=
  let okc := fun (c : Nat) => match l[c]?, l[0]? with
    | some x, some y => x.ok && decide (x.exp ≠ 0) && x.exp = y.exp && x.kind = y.kind
    | _, _ => false
  ([8, 4, 2, 1].find? (fun n => (List.range n).all okc)).getD 0

/-- BOOT_MEMORY_READY (R77 step 7, R206-R211, R214): the stacks that trained and the DDR5 channels come into use, the
interleave is chosen at a power-on boot and kept at a warm one, and the arrays are initialised. -/
def execBootMemoryReady (f : MemFind) (s : State) : Res :=
  if modeOf s ≠ 3 || s.wd.bootStep ≠ 1 || s.wd.pfAt.isSome then .next s
  else
    let s := (List.range 8).foldl (fun (s : State) k =>
      if !dieUp s (1 + k / 2) then bootFence s (32 + k) 7
      else if f.stks.contains k then bootDie s (32 + k) 0 0 else bootFence s (32 + k) 6) s
    let want := if s.wd.warm then rdF s hub HUB.MEM_CFG.MODE = 1 else cfgByte (cfgCopy s s.wd.copy) 0x80 = 1 && capEff s 34
    let lost := [0, 1].any (fun b => !dieUp s (1 + b) && !dieUp s (1 + (b ^^^ 3))) || (List.range 8).any (fun k => !stackUp s k && !stackUp s (partner k))
    let s := wrF s hub HUB.MEM_CFG.MODE (b2n (want && !lost))
    let s := if want && lost then logRec s 0x32 0 0xFF [] else s
    let s := buildHomes { s with hbmOn := (List.range 8).any (stackUp s) }
    let n := ddrUsed f.dimms
    let s := (List.range 8).foldl (fun (s : State) c => match f.dimms[c]? with
      | some x => if n ≤ c && x.exp ≠ 0 then logRec s 0x31 0 c [c] else s
      | none => s) s
    let s : State := if n = 0 then wrF { s with ddrExp := 0 } hub HUB.MEM_CFG.DDR_EN 0
      else wrF (wrF { s with ddrExp := ((f.dimms[0]?).map (·.exp)).getD 0 + Nat.log2 n } hub HUB.MEM_CFG.DDR_EN 1) hub HUB.MEM_CFG.DDR_CH (Nat.log2 n)
    let s := { s with wd := { s.wd with bootStep := 2 } }
    .next (checkService (refreshDegraded s))

/-- The fitted compute dies of a variant, ascending. -/
def fittedComps (v : Variant) : List Nat := (List.range 12).filter (fun c => fitted v (8 + c))

/-- The physical core of logical hart `h` in the default map (R20): of the fitted dies in order, the cores that the fuses
enable. -/
def defaultCore (s : State) (h : Nat) : Nat :=
  match (fittedComps s.variant)[h / 20]? with
  | none => 0xFFFF
  | some c => ((((List.range 24).map (fun j => 24 * c + j)).filter (fun p => !s.wd.spares.contains p))[h % 20]?).getD 0xFFFF

/-- The hart map (R20): the recorded one, or the default. -/
def mapCore (s : State) (h : Nat) : Nat :=
  let k := cfgCopy s s.wd.copy
  if cfgByte k 0x100 = 1 then cfgCore k h else defaultCore s h

/-- The firmware values of the capacities (R226). -/
def firmwareCaps (s : State) : State :=
  (List.range 28).foldl (fun (s : State) r =>
    let v := if r = 0 then 147456 else if r = 1 then 768 * ddrChans s else if r < 22 then 30720 else if r < 24 then 108 else 1920
    bwEval (wrF s bwr BWR.CAPACITY.CAP v r) r) s

/-- The bytes of main memory that the hart image occupies. -/
def imageBytes (s : State) (a : Nat) : Nat → List Nat
  | 0 => []
  | n + 1 => (byteAt s.dram a).toNat :: imageBytes s (a + 1) n

/-- Bytes written into memory at `a`. -/
def putBytes (m : Map Byte) (a : Nat) : List Byte → Map Byte
  | [] => m
  | b :: r => putBytes (putByte m a b) (a + 1) r

/-- BOOT_IMAGE_LOADED (R77 steps 8-10, R78, R79): the image, of at most 1 MiB, is written where hart 0 starts, unless a warm
reset finds it intact; the hart map is built or kept, and logical hart 0 runs. With the strap for it, step 8 waits for an
image written through JTAG (R435). -/
def execBootImageLoaded (img : List Byte) (s : State) : Res :=
  if modeOf s ≠ 3 || s.wd.bootStep ≠ 2 || s.wd.pfAt.isSome || 0x100000 < img.length || (s.wd.bootSrc = 1 && !s.wd.jtag) then .next s
  else
    let at_ := if s.hbmOn then 0 else 0x0100_0000_0000
    let intact : Bool := s.wd.warm && (match s.wd.image with
      | some (a, n, c) => a = at_ && crc32 (imageBytes s a n) = c
      | none => false)
    let s : State := if intact then s
      else { s with dram := putBytes s.dram at_ img, wd := { s.wd with image := some (at_, img.length, crc32 (img.map (·.toNat))) } }
    let s : State := if s.wd.warm then s
      else { s with harts := (List.range (hartCount s)).map (fun h => (h, ({ core := mapCore s h } : Hart))) }
    let s := wrF s (clk 0) CLK.BOOT_US.TIME ((s.gtime - s.wd.bootAt + 3199) / 3200)
    let s := firmwareCaps s
    let s := setHart s 0 (startHart (hartOf s 0) (BitVec.ofNat 64 at_))
    let s := { s with wd := { s.wd with bootStep := 0, warm := false } }
    .next (endCode (goMode s 4 (rdF s (pwr 0) PWR.MODE.CAUSE)) 0x32 stAccepted)

/-- JTAG_IMAGE_WRITTEN (R395, R435): a Warden firmware image for the loader that found no valid bank, or the hart image. -/
def execJtagImageWritten (fw : Bool) (ver crc : Nat) (s : State) : Res :=
  if modeOf s = 0 then .next s
  else if !fw then .next { s with wd := { s.wd with jtag := true } }
  else if (chooseBank s.wd.banks).isSome then .next s
  else .next { s with wd := { s.wd with banks := mput s.wd.banks 0 { seq := 1, ver := ver, crc := crc, ok := true }, run := 0 } }

/-- JTAG_WARM_RESET (R377): a warm reset through JTAG; from Lockdown its cause is 4. -/
def execJtagWarmReset (s : State) : Res := if warmOk s then .next (warmReset s 3 none) else .next s

/-- HART_RESET_DONE (R75, R76): the hart is parked in its reset state, its L1 written back; every request met by this reset
ends. -/
def execHartResetDone (h : Nat) (s : State) : Res :=
  let x := hartOf s h
  match x.rst with
  | none => .next s
  | some chs => if !sbEmpty x then .next s
      else .next (chs.foldl (fun (s : State) c => if (chanOfW s c).code = 0x22 then answer s c stAccepted else s) (setHart s h (resetHart x)))

/-- A die's return is refused: it stays fenced and its command ends REFUSED (R182). -/
def readmitFail (s : State) (d reason : Nat) : State :=
  let s := logRec (setDie s d 2 reason) 0x10 d 0xFF [if 32 ≤ d then 2 else 0, reason]
  (List.range 3).foldl (fun (s : State) c => if (chanOfW s c).code = 0x31 && (chanOfW s c).arg = d then answer s c stRefused else s) s

/-- A die is back in service (R182): recorded, and its command ends. -/
def readmitted (s : State) (d rev cap : Nat) : State :=
  let s := logRec (bootDie s d rev cap) 0x11 d 0xFF (leBytes cap 8)
  refreshDegraded ((List.range 3).foldl (fun (s : State) c => if (chanOfW s c).code = 0x31 && (chanOfW s c).arg = d then answer s c stAccepted else s) s)

/-- The Hinges of a returning base die (R185, R186): with the recorded modules all good the Hinge comes up as recorded; else
both ends are in training and a retrain follows. -/
def readmitHinges (s : State) (d : Nat) (f : ReadmitFind) : State :=
  (List.range 4).foldl (fun (s : State) i =>
    let (e, j) := farEnd d i
    if !dieUp s e then s
    else
      let p := hng e j
      let t := findTrain f.hinges d i
      let mask := rdF s p HNG.TRAIN_STAT.MASK
      if t.ok && mask ≠ 0 && goodMask s t &&& mask = mask then hingeBack (hingeTrained s d i mask (rdF s p HNG.TRAIN_STAT.EPOCH) t) d i
      else wrF (wrF s p HNG.TRAIN_STAT.STATE 1) (hng d i) HNG.TRAIN_STAT.STATE 1) s

/-- A stack starts to resynchronise (R215). -/
def startResync (s : State) (k : Nat) : State :=
  wrF (wrF (bootDie s (32 + k) 0 0) (mch k) MCH.RESYNC.BUSY 1) (mch k) MCH.RESYNC.PTR 0

/-- A die covers the capability bits in effect that its kind carries (R182). -/
def coversEff (s : State) (d cap : Nat) : Bool :=
  (List.range 64).all (fun n => let (_, b, c) := carries n
    !((isBase d && b) || (isComp d && c)) || !capEff s n || bit cap n)

/-- DIE_READMIT (R75, R182, R186, R203, R215): the reset of a die ends, with what was found. -/
def execDieReadmit (d : Nat) (f : ReadmitFind) (s : State) : Res :=
  if !(mget ({} : Die) s.dies d).resetting || !powered s || s.wd.pfAt.isSome then .next s
  else
    let s := { s with dies := mput s.dies d { mget ({} : Die) s.dies d with resetting := false } }
    if !f.ok then .next (readmitFail s d 6)
    else if d = 24 then .next (readmitted { s with fld := { s.fld with held := false } } d f.rev 0)
    else if d = 28 then
      if profileBad f.profile.toNat then .next (readmitFail s d 9)
      else
        let s := wrF { s with profile := f.profile.toNat } (hng 0 4) HNG.TRAIN_STAT.STATE 2
        .next (readmitted s d (profByte f.profile.toNat 4) 0)
    else if 32 ≤ d then .next (startResync (readmitted s d 0 0) (d - 32))
    else
      let revOk := if isBase d then baseRevOk (mget ({} : Die) s.dies 0).rev f.rev
          && (List.range 4).all (fun b => 1 + b = d || !dieUp s (1 + b) || (mget ({} : Die) s.dies (1 + b)).rev / 16 = f.rev / 16)
        else compRevOk (mget ({} : Die) s.dies (baseOf d)).rev f.rev
      if !revOk then .next (readmitFail s d 2)
      else if !coversEff s d f.cap then .next (readmitFail s d 4)
      else if isBase d then
        let s := readmitHinges (bootDie s d f.rev f.cap) d f
        .next (readmitted (startResync (startResync s (2 * (d - 1))) (2 * (d - 1) + 1)) d f.rev f.cap)
      else
        let s := { s with lstore := mdrop s.lstore (fun k => 8 + k / 2 ^ 17 / 24 = d), lsBad := s.lsBad.filter (fun k => 8 + k / 2 ^ 17 / 24 != d) }
        .next (readmitted s d f.rev f.cap)

/-- The instant of a hart's next release (R111): in the scans in progress, and in the next scan of each class. -/
def nextRelease (s : State) (h : Nat) : Option Nat :=
  let a := ((s.scan.runs.filter (fun e => dHart e.2.w0 = h && !e.2.relDone)).map (fun e => relAt e.2))
  let b := (clsOn s).flatMap (fun c => ((tasksOf s c).filter (fun t => dHart (descWord s t 0) = h)).map (fun t => clsNext s c + 8 * dRelease (descWord s t 1)))
  (a ++ b).foldl (fun (m : Option Nat) t => some (match m with
    | none => t
    | some u => min t u)) none

/-- The channel of the swap in progress of a hart. -/
def swapOf (s : State) (h : Nat) : Option Nat :=
  (List.range 3).find? (fun c => (chanOfW s c).code = 0x23 && (chanOfW s c).names.contains (unitHart h))
def swapCore (s : State) (c : Nat) : Nat := (chanOfW s c).arg % 65536
def swapAt (s : State) (c : Nat) : Nat := (chanOfW s c).arg / 65536

/-- SWAP_PARK (R109, R111): the hart is parked for its swap: at an instruction boundary, a deterministic one only waiting in
SCAN.DONE with at least 80 µs before its next release. -/
def execSwapPark (h : Nat) (s : State) : Res :=
  let x := hartOf s h
  let room : Bool := match nextRelease s h with
    | some t => s.gtime + 256000 ≤ t
    | none => true
  let calm := x.cur.isNone && x.trapWait.isNone && !x.syncing && x.walk.isNone && x.miss.isNone && x.ioTag.isNone && sbEmpty x && x.rst.isNone
  if (swapOf s h).isNone || x.run = .swapping || !calm || (detHart s h && !(x.swait && x.done && room)) then .next s
  else .next (setHart s h { x with before := x.run, run := .swapping })

/-- SWAP_PARK_TIMEOUT (R111): no park window within 1 s. -/
def execSwapParkTimeout (h : Nat) (s : State) : Res :=
  match swapOf s h with
  | none => .next s
  | some c =>
    if !detHart s h || (hartOf s h).run = .swapping then .next s
    else
      let s := runTo s (swapAt s c + msUnits 1000)
      let d := coreDie (hartOf s h).core
      .next (answer (lifeAdd (logRec s 0x21 d h [1]) (8 * 4096 + 16 + (d - 8))) c stRefused)

/-- The bytes of a configuration copy with a hart map and a sequence number in place (R402, R405), and its CRC. -/
def cfgWithMap (s : State) (b : Map Byte) (seq : Nat) : Map Byte :=
  let b := putByte b 0x100 1
  let b := (List.range 240).foldl (fun (b : Map Byte) h => writeBytes b (0x110 + 2 * h) 2 (match mfind s.harts h with
    | some x => x.core
    | none => 0xFFFF)) b
  let b := (List.range 36).foldl (fun (b : Map Byte) j => putByte b (0x2F0 + j) (BitVec.ofNat 8 ((List.range 8).foldl (fun a i => if s.wd.withdrawn.contains (8 * j + i) then a + 2 ^ i else a) 0))) b
  let b := writeBytes b 8 4 seq
  let len := readBytes b 12 4
  let upto := if 0x1000 ≤ len && len ≤ 0x400000 then len - 4 else 0xFFC
  writeBytes b upto 4 (crc32 ((List.range upto).map (fun n => (byteAt b n).toNat)))

/-- The hart map is recorded in the copy not in use (R110, R405), unless a staged configuration will carry it (R417). -/
def recordMap (s : State) : State :=
  if s.wd.staged then s
  else
    let c := s.wd.copy
    let q := (cfgSeq s c + 1) % 2 ^ 32
    let k : CfgCopy := { bytes := cfgWithMap s (cfgCopy s c).bytes q, ok := true }
    logRec { s with wd := { s.wd with copies := mput s.wd.copies (1 - c) k, copy := 1 - c } } 0x80 0 0xFF ([1 - c, 0, 0, 0] ++ leBytes q 4)

/-- SWAP_COMPLETE (R109, R110): the hart goes on on the spare with its registers, interrupt files and local store; its
reservation, TLBs and L1 are empty. A scan-wake held during the swap is delivered (R251). The core it leaves is withdrawn from
service. -/
def execSwapComplete (h : Nat) (s : State) : Res :=
  let x := hartOf s h
  match swapOf s h with
  | none => .next s
  | some c =>
    if x.run ≠ .swapping then .next s
    else
      let new := swapCore s c
      let old := x.core
      let inOld := fun (k : Nat) => k / 2 ^ 17 = old
      let move := fun (k : Nat) => new * 2 ^ 17 + k % 2 ^ 17
      let moved := s.lstore.filter (fun e => inOld e.1)
      let s : State := { s with
        lstore := moved.foldl (fun (m : Map Byte) e => mput m (move e.1) e.2) (mdrop (mdrop s.lstore inOld) (fun k => k / 2 ^ 17 = new)),
        lsBad := (s.lsBad.filter (fun k => !inOld k && k / 2 ^ 17 != new)) ++ (s.lsBad.filter inOld).map move,
        wd := { s.wd with withdrawn := sIns s.wd.withdrawn old } }
      let x := if x.before = .scanWait && x.wakePend then { scanWake x x.wakeInfo with before := .running } else x
      let s := setHart s h { x with core := new, run := x.before, resv := none, itlb := [], dtlb := [], l2tlb := [], l1d := [], vc := [], l1i := [], strm := {} }
      let d := coreDie new
      let s := lifeAdd (logRec s 0x20 d h (leBytes old 2 ++ leBytes new 2)) (8 * 4096 + (d - 8))
      .next (boundary (answer (putRsp (recordMap s) c 0 [new]) c stAccepted) h)

end Sys2Proof.Machine
end

