-- ==== Sys2Proof/Machine/Modes.lean ====
section
/-! DEFINITION. Mode transitions by request, by the supplies and by wake sources (R377-R381, R383, R385, R429-R432, R443). -/
namespace Sys2Proof.Machine
open Sys2Proof

/-- Boot begins when every main rail is in range and POWER_FAIL# is deasserted (R431), with a bank to run (R395). Its cause is
the power-on after one, a wake where a source is recorded, else the rails; a start without a source is recorded as source 3,
and WAKE# is released unless a PME holds it (R385). -/
def tryBoot (s : State) : State :=
  if (modeOf s = 1 || modeOf s = 2) && s.wd.railsOk && !s.wd.pwrFail && (chooseBank s.wd.banks).isSome then
    let first := rdF s (pwr 0) PWR.MODE.CAUSE = 0
    let woken := s.wd.wakeAt.isSome
    let s := bootBegin { s with wd := { s.wd with wakeAt := none } } false 0 (if woken then 7 else if first then 0 else 2)
    if woken then (if s.io.wake then s else send s .pin 1 [1])
    else wrF (wrF s (pwr 0) PWR.WAKE_STAT.VALID 1) (pwr 0) PWR.WAKE_STAT.SOURCE 3
  else s

/-- Entry to Standby or Watch (R379, R383, R412): every hart is parked, every domain outside the always-on one stops and loses
its contents, a checkpoint is written. The field die goes on; the barrier comes back with one channel (R308). -/
def toLow (s : State) (m cause : Nat) : State :=
  let s := (List.range 3).foldl (fun (s : State) c => if (chanOfW s c).code ≠ 0 && (chanOfW s c).code ≠ 0x10 then answer s c stRefused else s) s
  let s := barDown (powerDown s)
  let s := { s with dram := [], poison := [], hbmOn := false, ddrExp := 0, dies := s.dies.filter (fun e => e.1 = 24), dvfs := [],
                    bar := { s.bar with ldHold := none },
                    wd := { s.wd with lifeCk := s.life, pfAt := none, leaving := [], crit := [], samples := [], limiting := false } }
  let s : State := if m = 2 then { s with fld := { s.fld with wakeAt := some (s.gtime + msUnits (rdF s (fld 9) FLD.WATCH_CFG.PERIOD_MS)) } } else s
  goMode s m cause

/-- The secure-held blocks outside the always-on domain and the field die (R383). -/
def heldMain (s : State) : Option Blk :=
  (s.hdrs.find? (fun e => e.2.secHold && e.1 / 65536 ≠ 24 && !(e.1 / 65536 = 0 && ((e.1 % 65536) / 16 = 2 || (e.1 % 65536) / 16 = 3)))).map
    (fun e => ⟨e.1 / 65536, e.1 % 65536⟩)

/-- Run to Standby or Watch by request (R377, R383): with no scan class enabled and no pair; a request of the normal world is
refused while a block that would be powered down is secure-held. -/
def reqLow (s : State) (c m : Nat) : State :=
  if !(clsOn s).isEmpty || pairState s ≠ 0 then answer s c stBusy
  else match heldMain s with
    | some b => if c = 0 then answer (toLow s m 1) c stAccepted
        else answer (secEvent s 2 (basePage b) (cmdWho s c) true) c stDenied
    | none => answer (toLow s m 1) c stAccepted

/-- The transitions that a MODE command asks for (R377). One the table does not list is refused. -/
def modeReq (s : State) (c t : Nat) : State :=
  if 8 ≤ t then answer s c stInvalid
  else if rdF s (pwr 0) PWR.MODE.TRANS = 1 then answer s c stBusy
  else match modeOf s, t with
  | 4, 6 => if pairState s ≠ 0 || (clsOn s).isEmpty then answer s c stBusy else answer (goMode s 6 1) c stAccepted
  | 6, 4 =>
    if (clsOn s).isEmpty then answer (goMode s 4 1) c stAccepted
    else pendCmd (wrF { s with wd := { s.wd with leaving := clsOn s } } (pwr 0) PWR.MODE.TRANS 1) c
  | 4, 5 =>
    if s.variant = .n240 then answer s c stUnsupported
    else if mgrSel s && joinOf s = 2 && clRole s ≠ 1 then answer (pairStart (goMode s 5 1)) c stAccepted
    else answer s c stBusy
  | 5, 4 =>
    if pairState s = 2 || (joinOf s = 2 && clRole s ≠ 1) then answer s c stBusy
    else answer (goMode (wrF s y0 YLK.PAIR_STAT.STATE 0) 4 1) c stAccepted
  | 4, 1 => reqLow s c 1
  | 4, 2 =>
    if s.variant = .n240 then answer s c stUnsupported
    else if fldUp s && rdF s (fld 9) FLD.WATCH_CFG.EN = 1 then reqLow s c 2 else answer s c stBusy
  | _, _ => answer s c stRefused

/-- MODE (R377, R400) on mailbox channel `c`. -/
def execMode (c : Nat) (s : State) : Res := .next (takeUp s c 0x10 false [] (fun s => modeReq s c (argByte s c 0)))

/-- POWER_FAIL_ASSERT (R76, R377, R410, R413, R417, R443): with the main domain powered, resets and transitions stop, commands
in progress fail, the record is written, and the counters are saved; during a pause by the Lockbox hardware, and without the
counters. -/
def execPowerFailAssert (s : State) : Res :=
  if s.wd.pwrFail || modeOf s = 0 then .next s
  else
    let s := aplWire { s with wd := { s.wd with pwrFail := true } } 19 true
    let m := modeOf s
    if m < 3 then .next s
    else
      let s := logRec s 0x02 0 0xFF [m] false s.wd.pause
      let s := (List.range 3).foldl (fun (s : State) c => if (chanOfW s c).code ≠ 0 then answer s c stFailed else s) s
      let s := wrF s (pwr 0) PWR.MODE.TRANS 0
      let s := { s with dies := s.dies.map (fun (e : Nat × Die) => (e.1, { e.2 with resetting := false })),
                        harts := s.harts.map (fun (e : Nat × Hart) => (e.1, { e.2 with rst := none })) }
      .next { s with wd := { s.wd with pfAt := some s.gtime, leaving := [], lifeCk := if s.wd.pause then s.wd.lifeCk else s.life } }

/-- POWER_FAIL_TIMEOUT (R432, R443): 100 ms after the assertion the rails have not fallen: Standby, and Boot again at once
where POWER_FAIL# is already deasserted. -/
def execPowerFailTimeout (s : State) : Res :=
  match s.wd.pfAt with
  | none => .next s
  | some t => if modeOf s < 3 then .next s else .next (tryBoot (toLow (runTo s (t + msUnits 100)) 1 8))

/-- POWER_FAIL_DEASSERT (R431, R443). -/
def execPowerFailDeassert (s : State) : Res :=
  if !s.wd.pwrFail || modeOf s = 0 then .next s
  else .next (tryBoot (aplWire { s with wd := { s.wd with pwrFail := false } } 19 false))

/-- MAIN_RAILS_IN_RANGE (R429, R431). -/
def execMainRailsInRange (s : State) : Res :=
  if modeOf s = 0 || s.wd.railsOk then .next s else .next (tryBoot { s with wd := { s.wd with railsOk := true } })

/-- What is left of the main domain goes with the rails: Lockdown ends in Standby (R377). -/
def railsGone (s : State) : State :=
  if s.wd.railsOk then s
  else if modeOf s = 7 then toLow s 1 (if s.wd.pwrFail then 8 else 2) else s

/-- MAIN_RAIL_OUT_OF_RANGE (R377, R378, R429): Standby after POWER_FAIL#, else fatal first. -/
def execMainRailOutOfRange (s : State) : Res :=
  if modeOf s = 0 || !s.wd.railsOk then .next s
  else
    let s := { s with wd := { s.wd with railsOk := false } }
    if powered s then .next (if s.wd.pwrFail then toLow s 1 8 else railsGone (fatal s 6 [])) else .next (railsGone s)

/-- A wake source occurs in Standby or Watch (R385): recorded, the lowest-numbered of those that coincide, and WAKE# is driven
low until Boot begins. -/
def wake (s : State) (src : Nat) : State :=
  let first : Bool := match s.wd.wakeAt with
    | none => true
    | some t => t = s.gtime && src < rdF s (pwr 0) PWR.WAKE_STAT.SOURCE
  if !first then s
  else
    let s := wrF (wrF s (pwr 0) PWR.WAKE_STAT.VALID 1) (pwr 0) PWR.WAKE_STAT.SOURCE src
    if s.wd.wakeAt.isSome then s else send { s with wd := { s.wd with wakeAt := some s.gtime } } .pin 1 [0]

def lowMode (s : State) : Bool := modeOf s = 1 || modeOf s = 2

/-- WATCH_WAKE acted on (R308, R385). -/
def watchAct (s : State) : State :=
  if lowMode s && rdF s (pwr 0) PWR.WAKE_CFG.WATCH = 1 then wake s 0 else s

/-- WATCH_WAKE (R308, R413): the frame reaches the always-on host side; during a pause it is latched. -/
def execWatchWake (s : State) : Res :=
  match arrive s false [0x501] with
  | (none, s) => .next s
  | (some _, s) => if s.wd.pause then .next { s with wd := { s.wd with latched := s.wd.latched ++ [.watchWake] } } else .next (watchAct s)

/-- I3C_WAKE (R385, R436): 0x57 is written to the target's WAKE register. -/
def execI3cWake (s : State) : Res :=
  if lowMode s && rdF s (pwr 0) PWR.WAKE_CFG.I3C = 1 then .next (wake s 1) else .next s

/-- GPIO0_WAKE_EDGE (R101, R385): GPIO line 0 falls; it is wired source 20 as well. -/
def execGpio0WakeEdge (s : State) : Res :=
  let s := aplWire s 20 false
  if lowMode s && rdF s (pwr 0) PWR.WAKE_CFG.GPIO0 = 1 then .next (wake s 2) else .next s

end Sys2Proof.Machine
end

