-- ==== Sys2Proof/Machine/Worlds.lean ====
section
/-! DEFINITION. The worlds beside the harts' own instructions (chapter "Secure and Normal Worlds"): the secure regions'
copies and the debug module's halt and resume. The debug accesses stand in Machine/Debug.lean. -/
namespace Sys2Proof.Machine
open Sys2Proof

/-- The region that the registers of region `n` spell (R317, R319). -/
def sregOf (s : State) (n : Nat) : Sreg :=
  { base := rdF s hub HUB.SREG_LO.BASE 0 (1 + n) * 4096 + rdF s hub HUB.SREG_HI.BASE 0 (1 + n) * 2 ^ 32,
    exp := rdF s hub HUB.SREG_LO.SIZE_EXP 0 (1 + n),
    en := rdF s hub HUB.SREG_LO.EN 0 (1 + n) = 1 }

/-- SREG_HI has been written: the selected region takes both words in one step, and the change is on its way to the
copies (R319). -/
def sregTake (s : State) : State :=
  let n := rdF s hub HUB.SREG_SEL.REGION
  let old := mget (⟨0, 12, false⟩ : Sreg) s.sregs n
  let prev := match mfind s.sregPrev n with
    | some _ => s.sregPrev
    | none => mput s.sregPrev n old
  wrF { s with sregs := mput s.sregs n (sregOf s n), sregPrev := prev } hub HUB.SREG_SEL.BUSY 1

/-- SREG_PROPAGATE_DONE (R319): every copy holds the new table. -/
def execSregPropagateDone (s : State) : Res := .next (wrF { s with sregPrev := [] } hub HUB.SREG_SEL.BUSY 0)

/-- A halted hart resumes at `dpc` with the privilege of `dcsr` (R312, R324): leaving M-mode clears MPRV and lets deferred
requests take effect. -/
def resumeHart (s : State) (h : Nat) : State :=
  let x := hartOf s h
  if x.run ≠ .halted then s
  else
    let d := csr x 0x7B0
    let p : Priv := match wb d 1 0 with
      | 0 => .u
      | 1 => .s
      | _ => .m
    let was := x.priv
    let x := { x with run := .running, pc := csr x 0x7B1, priv := p, virt := wbit d 5 && p ≠ .m, stepping := wbit d 2 }
    let x := if p = .m then x else setCsr x 0x300 (wset (csr x 0x300) 17 17 0)
    let s := setHart s h x
    if was = .m && p ≠ .m then applyDeferred s h else s

/-- DBG_CTRL has been written (R327): harts halted in a world whose invasive enable is off resume at once. -/
def dbgChanged (s : State) : State :=
  s.harts.foldl (fun (s : State) (e : Nat × Hart) =>
    if (hartOf s e.1).run = .halted && !invasiveOn s (hartOf s e.1) then resumeHart s e.1 else s) s

/-- DEBUG_HALT_REQUEST (R326): the hart halts at the first boundary at which its world's invasive enable is on. -/
def execDebugHaltRequest (h : Nat) (s : State) : Res :=
  if hartCount s ≤ h || (hartOf s h).run = .halted then .next s
  else .next (boundary (setHart s h { hartOf s h with haltReq := true }) h)

/-- DEBUG_RESUME (R312). -/
def execDebugResume (h : Nat) (s : State) : Res := .next (resumeHart s h)

end Sys2Proof.Machine
end

