-- ==== Sys2Proof/Machine/Servicing.lean ====
section
/-! DEFINITION. The Warden's commands, its restart and its firmware, the configuration copies, the Lockbox and the lifetime
counters (chapter "Warden, Lockbox and Live Servicing"). A command whose work the rules bound only in time is done when it is
taken up. -/
namespace Sys2Proof.Machine
open Sys2Proof

def bankOfW (s : State) (n : Nat) : Bank := mget {} s.wd.banks n
def bankOfF (s : State) (n : Nat) : Bank := mget {} s.wd.fdBanks n

/-- INFO (R400). -/
def execInfo (c : Nat) (s : State) : Res :=
  .next (takeUp s c 0x01 false [] (fun s =>
    let fv := if fitted s.variant 24 then (bankOfF s s.wd.fdRun).ver else 0
    answer (putRsp s c 0 [(bankOfW s s.wd.run).ver, s.wd.run + 256 * s.wd.copy, cfgSeq s s.wd.copy, fv, mget 0 s.life (7 * 4096)]) c stAccepted))

/-- CL_LEAVE (R359, R400): LEAVE, for the reason of a request, on every up port. -/
def execClLeave (c : Nat) (s : State) : Res :=
  .next (takeUp s c 0x11 false [] (fun s => answer ((upPorts s).foldl (fun (s : State) p => ySend s p 0x02 0 true [0]) s) c stAccepted))

/-- Commands about harts and units wait for Run, Shadow or Hold. -/
def running (s : State) : Bool := 4 ≤ modeOf s && modeOf s ≤ 6

/-- A command about a hart (R400): of a hart the variant has, while the package runs, on a die in service. -/
def hartCmd (s : State) (c code : Nat) (only0 : Bool) (k : State → Nat → State) : State :=
  let h := argByte s c 0
  takeUp s c code only0 (hartNames s h) (fun s =>
    if hartCount s ≤ h then answer s c stInvalid
    else if !running s then answer s c stBusy
    else if !dieUp s (coreDie (hartOf s h).core) then answer s c stRefused
    else k s h)

/-- HART_START (R312, R400): a parked hart starts in M-mode; a sleeping cluster wakes (R160). -/
def execHartStart (c : Nat) (s : State) : Res :=
  .next (hartCmd s c 0x20 true (fun s h =>
    let x := hartOf s h
    if x.run ≠ .parked || x.rst.isSome then answer s c stBusy
    else
      let s := setHart s h (startHart x (BitVec.ofNat 64 (argNum s c 8 8)))
      let (d, n) := (coreDie x.core, coreInst x.core)
      answer (if domState s d n = 0 then s else wakeFor s d n none) c stAccepted))

/-- HART_PARK (R323, R324, R400). -/
def execHartPark (c : Nat) (s : State) : Res := .next (hartCmd s c 0x21 false (fun s h => askHart s h (.park c (cmdWho s c)) c))

/-- HART_RESET (R75, R76, R323, R324): PENDING until HART_RESET_DONE; two requests for one hart are served by one reset. -/
def execHartReset (c : Nat) (s : State) : Res :=
  .next (hartCmd s c 0x22 false (fun s h => askHart (pendCmd s c) h (.reset c (cmdWho s c)) c))

/-- The free spares of a compute die: cores no hart runs on, not withdrawn. -/
def spareFree (s : State) (p : Nat) : Bool := !s.wd.withdrawn.contains p && !s.harts.any (fun e => e.2.core = p)
def freeSpares (s : State) (d : Nat) : List Nat :=
  ((List.range 24).map (fun j => (d - 8) * 24 + j)).filter (spareFree s)

/-- The spare that the Warden chooses for core `p` (R110): in its cluster, else in one at the same operating point and
DET_FLOOR, else the lowest-numbered of the die. -/
def chooseSpare (s : State) (p : Nat) : Option Nat :=
  let l := freeSpares s (coreDie p)
  let b := clk (coreDie p)
  let like := fun (q : Nat) => rdF s b CLK.CLU_CFG.DIV (coreInst q) = rdF s b CLK.CLU_CFG.DIV (coreInst p)
    && rdF s b CLK.CLU_CFG.DET_FLOOR (coreInst q) = rdF s b CLK.CLU_CFG.DET_FLOOR (coreInst p)
  (l.find? (fun q => coreCluster q = coreCluster p)).or ((l.find? like).or l.head?)

/-- SWAP (R109-R111, R400): the spare is the one named, or chosen; a die without one refuses it, with its record. The swap
then waits for its park. -/
def execSwap (c : Nat) (s : State) : Res :=
  .next (hartCmd s c 0x23 false (fun s h =>
    let x := hartOf s h
    let d := coreDie x.core
    let want := argNum s c 2 2
    let named := want ≠ 0xFFFF
    if argByte s c 1 ≠ 0 || (named && !(freeSpares s d).contains want) then answer s c stInvalid
    else if !capEff s 25 then answer s c stRefused
    else match (if named then some want else chooseSpare s x.core) with
      | none => answer (lifeAdd (logRec s 0x21 d h [0]) (8 * 4096 + 16 + (d - 8))) c stRefused
      | some p => setChan (pendCmd s c) c { chanOfW s c with arg := s.gtime * 65536 + p }))

/-- Dies that are powered down with a die (R27). -/
def withDie (d : Nat) : List Nat :=
  if 1 ≤ d && d ≤ 4 then [d, 8 + 3 * (d - 1), 9 + 3 * (d - 1), 10 + 3 * (d - 1), 32 + 2 * (d - 1), 33 + 2 * (d - 1)] else [d]

/-- The package has the die (R1-R3). -/
def hasDie (s : State) (d : Nat) : Bool := fitted s.variant d && (mget ({} : Die) s.dies d).st ≠ 0

/-- A fence of die `d` by command (R27, R181, R323). -/
def fenceCmd (s : State) (c d : Nat) : State :=
  if !hasDie s d then answer s c stInvalid
  else if !dieUp s d then answer s c stAccepted
  else denyHeld s c 3 (withDie d) (fun s => if dieAllowed s d then answer (fenceDie s d 5 (some c)) c stAccepted else answer s c stRefused)

/-- A fence of a Hinge by command (R27, R187, R323). -/
def fenceHingeCmd (s : State) (c d i : Nat) : State :=
  let (e, j) := farEnd d i
  let held := [hng d i, hng e j].find? (secHeld s)
  if !(i < instCount d 14) || !fitsBlock s.variant (hng d i) || !hasDie s d then answer s c stInvalid
  else if rdF s (hng d i) HNG.TRAIN_STAT.STATE = 3 then answer s c stAccepted
  else match held with
    | some b =>
      if c ≠ 0 then answer (secEvent s 3 (basePage b) (cmdWho s c) true) c stDenied
      else if hingeAllowed s d i then answer (fenceHinge s d i 5) c stAccepted else answer s c stRefused
    | none => if hingeAllowed s d i then answer (fenceHinge s d i 5) c stAccepted else answer s c stRefused

/-- FENCE (R27, R181, R187, R213, R400): of a die, a Hinge or a stack. -/
def execFenceCommand (c : Nat) (s : State) : Res :=
  let k := argByte s c 0
  let d := argByte s c 1
  let i := argByte s c 2
  let names := if k = 0 then dieNames d else if k = 1 then hingeNames d i else dieNames (32 + i)
  .next (takeUp s c 0x30 false names (fun s =>
    if !running s then answer s c stBusy
    else if k = 0 then fenceCmd s c d
    else if k = 1 then fenceHingeCmd s c d i
    else if k = 2 && i < 8 then fenceCmd s c (32 + i)
    else answer s c stInvalid))

/-- The L2s of a compute die are written back before its reset (R74). -/
def flushDie (s : State) (d : Nat) : State :=
  if 8 ≤ d && d ≤ 19 then (List.range 6).foldl (fun (s : State) i => flushCluster s ((d - 8) * 6 + i)) s else s

/-- A fenced die can be re-admitted: its base die is in service, and a stack, with or without its base die, has a mirror to be
restored from (R182, R215). -/
def canReturn (s : State) (d : Nat) : Bool :=
  if 8 ≤ d && d ≤ 19 then dieUp s (baseOf d)
  else if 32 ≤ d then rdF s hub HUB.MEM_CFG.MODE = 1 && dieUp s (baseOf d)
  else if 1 ≤ d && d ≤ 4 then rdF s hub HUB.MEM_CFG.MODE = 1
  else d = 24 || d = 28

/-- The die reset starts: PENDING until DIE_READMIT. -/
def startDieReset (s : State) (c d : Nat) : State :=
  let s := { s with dies := mput s.dies d { mget ({} : Die) s.dies d with resetting := true } }
  setChan (pendCmd s c) c { chanOfW s c with arg := d }

/-- DIE_RESET (R75, R182, R323, R400). -/
def execDieReset (c : Nat) (s : State) : Res :=
  let d := argByte s c 0
  .next (takeUp s c 0x31 false (dieNames d) (fun s =>
    if !hasDie s d then answer s c stInvalid
    else if !running s then answer s c stBusy
    else if !dieUp s d then (if canReturn s d then startDieReset s c d else answer s c stRefused)
    else denyHeld s c 3 (withDie d) (fun s =>
      if dieAllowed s d && canReturn s d then startDieReset (fenceDie (flushDie s d) d 5 (some c)) c d else answer s c stRefused)))

/-- WARM_RESET (R76, R79, R377, R400): ends ACCEPTED when hart 0 is released. -/
def execWarmReset (c : Nat) (s : State) : Res :=
  .next (takeUp s c 0x32 false [] (fun s =>
    if !warmOk s then answer s c stBusy
    else if c ≠ 0 && s.hdrs.any (fun e => e.2.secHold) then answer s c stDenied
    else warmReset (pendCmd s c) 2 (some c)))

/-- A range of main memory. -/
def memRange (s : State) (a n : Nat) : Bool :=
  n = 0 || (isMem (zoneOf s a) && zoneOf s a = zoneOf s (a + n - 1))

def leNum (l : List Nat) : Nat := l.foldr (fun b a => b + 256 * a) 0

/-- A firmware image passes its checks for a bank of `size` bytes (R415): header, length and CRC. -/
def imageOk (bs : List Nat) (size : Nat) : Bool :=
  let len := leNum ((bs.drop 8).take 4)
  64 ≤ bs.length && leNum (bs.take 4) = 0x57464E49 && 64 + len ≤ size && 64 + len ≤ bs.length
    && crc32 ((bs.drop 64).take len) = leNum ((bs.drop 12).take 4)

/-- The image goes to the field die's unused bank as FW_DATA frames of 48 bytes; the command waits for their FW_ACKs. -/
def sendImage (s : State) (c : Nat) (bs : List Nat) (ver crc : Nat) : State :=
  let nb := 1 - s.wd.fdRun
  let n := (bs.length + 47) / 48
  let s := { s with wd := { s.wd with fdBanks := mput s.wd.fdBanks nb { bankOfF s nb with ok := false } }, fld := { s.fld with img := [] } }
  let s := (List.range n).foldl (fun (s : State) i => barSend s true 0x601 i (leNum ((bs.drop (48 * i)).take 48) + 48 * i * 2 ^ 384)) s
  setChan (pendCmd s c) c { chanOfW s c with arg := n + 2 ^ 16 * crc + 2 ^ 48 * ver }

/-- FW_STAGE (R415). -/
def execFwStage (c : Nat) (s : State) : Res :=
  let t := argByte s c 0
  .next (takeUp s c 0x40 true [unitFw t] (fun s =>
    let a := argNum s c 8 8
    let n := argNum s c 16 4
    let size := if t = 0 then 0x100000 else 0x40000
    if 2 ≤ t || size < n || !memRange s a n then answer s c stInvalid
    else if t = 1 && !fitted s.variant 24 then answer s c stUnsupported
    else
      let ((bs, bad), s) := ioReadBytes s (whoOf s .warden) a n
      let len := leNum ((bs.drop 8).take 4)
      let ver := leNum ((bs.drop 4).take 4)
      let crc := leNum ((bs.drop 12).take 4)
      if bad || !imageOk bs size then answer s c stInvalid
      else if t = 1 then (if barUp s then sendImage s c (bs.take (64 + len)) ver crc else answer s c stRefused)
      else
        let b : Bank := { seq := ((bankOfW s s.wd.run).seq + 1) % 2 ^ 32, ver := ver, crc := crc, ok := true }
        answer (putRsp { s with wd := { s.wd with banks := mput s.wd.banks (1 - s.wd.run) b } } c 0 [crc]) c stAccepted))

/-- FW_ACK (R290, R415): every block must be written without an error; the last one completes the bank. -/
def execFwAck (s : State) : Res :=
  match arrive s false [0x602] with
  | (none, s) => .next s
  | (some f, s) =>
    match (List.range 3).find? (fun c => (chanOfW s c).code = 0x40) with
    | none => .next s
    | some c =>
      let x := chanOfW s c
      if bit f.tag 16 then .next (answer s c stRefused)
      else if x.arg % 65536 ≠ 1 then .next (setChan s c { x with arg := x.arg - 1 })
      else
        let b : Bank := { seq := ((bankOfF s s.wd.fdRun).seq + 1) % 2 ^ 32, ver := x.arg / 2 ^ 48, crc := x.arg / 2 ^ 16 % 2 ^ 32, ok := true }
        .next (answer (putRsp { s with wd := { s.wd with fdBanks := mput s.wd.fdBanks (1 - s.wd.fdRun) b } } c 0 [b.crc]) c stAccepted)

/-- The record of a switch or revert (R407). -/
def switchRec (s : State) (code t bank ver : Nat) : State := logRec s code 0 0xFF ([t, bank, 0, 0] ++ leBytes ver 4)

/-- FW_SWITCH (R310, R413, R416): of the Warden, with the pause that follows, or of the field die. -/
def execFwSwitch (c : Nat) (s : State) : Res :=
  let t := argByte s c 0
  .next (takeUp s c 0x41 true [unitFw t] (fun s =>
    if 2 ≤ t then answer s c stInvalid
    else if t = 1 then
      let nb := 1 - s.wd.fdRun
      if !fitted s.variant 24 then answer s c stUnsupported
      else if !barUp s || !fldUp s || !(bankOfF s nb).ok then answer s c stRefused
      else
        let s := switchRec s 0x70 1 nb (bankOfF s nb).ver
        setChan (pendCmd { s with fld := { s.fld with switching := some nb } } c) c { chanOfW s c with arg := 2 * s.gtime + 1 }
    else if (List.range 3).any (fun e => e ≠ c && (chanOfW s e).code ≠ 0) then answer s c stBusy
    else
      let nb := 1 - s.wd.run
      if !(bankOfW s nb).ok then answer s c stRefused
      else
        let s := switchRec { s with wd := { s.wd with lifeCk := s.life } } 0x70 0 nb (bankOfW s nb).ver
        let s := { s with wd := { s.wd with pause := true, run := nb, switching := some nb } }
        setChan (pendCmd s c) c { chanOfW s c with arg := 2 * s.gtime }))

/-- The FW_SWITCH of the Warden or of the field die in progress. -/
def switchCmd (s : State) (t : Nat) : Option Nat := (List.range 3).find? (fun c => (chanOfW s c).code = 0x41 && (chanOfW s c).arg % 2 = t)
def endSwitch (s : State) (t st : Nat) : State :=
  match switchCmd s t with
  | some c => answer s c st
  | none => s

/-- FW_HEALTHY (R416). -/
def execFwHealthy (s : State) : Res :=
  if s.wd.switching.isNone then .next s
  else .next (capture (endSwitch { s with wd := { s.wd with switching := none } } 0 stAccepted) wdn 3)

/-- The loader gives the new bank up (R416): its CRC is invalidated and the old bank restarts in a further pause. -/
def revertBank (s : State) (nb : Nat) : State :=
  let old := 1 - nb
  let s := { s with wd := { s.wd with banks := mput s.wd.banks nb { bankOfW s nb with ok := false }, run := old, switching := none, pause := true } }
  switchRec s 0x71 0 old (bankOfW s old).ver

/-- FW_HEALTH_TIMEOUT (R416): 1 s after the start. -/
def execFwHealthTimeout (s : State) : Res :=
  match s.wd.switching with
  | none => .next s
  | some nb =>
    let s := match switchCmd s 0 with
      | some c => runTo s ((chanOfW s c).arg / 2 + msUnits 1000)
      | none => s
    .next (revertBank s nb)

/-- FIELD_FW_RESTART_DONE (R310, R416): the field die runs its new bank, or its old one again; what waited is handled. -/
def execFieldFwRestartDone (ok : Bool) (s : State) : Res :=
  match s.fld.switching with
  | none => .next s
  | some nb =>
    let ws := s.fld.waiting
    let s := { s with fld := { s.fld with switching := none, waiting := [] } }
    let s : State :=
      if ok then capture { s with wd := { s.wd with fdRun := nb } } (fld 0) 4
      else switchRec { s with wd := { s.wd with fdBanks := mput s.wd.fdBanks nb { bankOfF s nb with ok := false } } } 0x71 1 (1 - nb) (bankOfF s (1 - nb)).ver
    let s := endSwitch s 1 (if ok then stAccepted else stRefused)
    .next (ws.foldl (fun (s : State) w => match w with
      | [p, node, req, inL, outL, boot] => hello s p node req inL outL boot
      | _ => s) s)

/-- CFG_READ (R400). -/
def execCfgRead (c : Nat) (s : State) : Res :=
  .next (takeUp s c 0x50 true [] (fun s =>
    let k := argByte s c 0
    let o := argNum s c 4 4
    let a := argNum s c 8 8
    let n := argNum s c 16 4
    if 2 ≤ k || 0x400000 < o + n || !memRange s a n then answer s c stInvalid
    else answer (ioWriteBytes s (whoOf s .warden) a ((List.range n).map (fun j => cfgByte (cfgCopy s k) (o + j)))) c stAccepted))

/-- CFG_STAGE (R405): the new content stands in the copy not in use, which is not valid until its commit. -/
def execCfgStage (c : Nat) (s : State) : Res :=
  .next (takeUp s c 0x51 true [] (fun s =>
    let a := argNum s c 8 8
    let n := argNum s c 16 4
    if 0x400000 < n || !memRange s a n then answer s c stInvalid
    else
      let ((bs, bad), s) := ioReadBytes s (whoOf s .warden) a n
      if bad then answer s c stRefused
      else
        let k : CfgCopy := { bytes := writeBytes [] 0 n (leNum bs), ok := false }
        answer { s with wd := { s.wd with copies := mput s.wd.copies (1 - s.wd.copy) k, staged := true } } c stAccepted))

/-- CFG_COMMIT (R405, R417): the map in use, the next SEQ and the CRC complete the staged content, or that of the copy in use
where nothing is staged. -/
def execCfgCommit (c : Nat) (s : State) : Res :=
  .next (takeUp s c 0x52 true [] (fun s =>
    let u := s.wd.copy
    let q := (cfgSeq s u + 1) % 2 ^ 32
    let k : CfgCopy := { bytes := cfgWithMap s (cfgCopy s (if s.wd.staged then 1 - u else u)).bytes q, ok := true }
    let good := cfgValid k
    let s := { s with wd := { s.wd with copies := mput s.wd.copies (1 - u) { k with ok := good }, staged := false } }
    if !good then answer s c stInvalid
    else
      let s := logRec { s with wd := { s.wd with copy := 1 - u } } 0x80 0 0xFF ([1 - u, 0, 0, 0] ++ leBytes q 4)
      answer (putRsp s c 0 [q]) c stAccepted))

/-- Words of 4 bytes of a list of bytes. -/
def wordsOf (l : List Nat) : List Nat := (List.range ((l.length + 3) / 4)).map (fun j => leNum ((l.drop (4 * j)).take 4))

/-- The ring record of a SEQ that the ring holds (R408, R411). -/
def ringRec (s : State) (q : Nat) : Option (List Nat) :=
  match mfind s.wd.ring (q % 16384) with
  | some r => if q ≠ 0 && leNum (r.take 4) = q then some r else none
  | none => none

/-- A record as a channel returns it (R400): on channels 1 and 2 a secure one with its payload as zeros. -/
def recordFor (c : Nat) (r : List Nat) : List Nat :=
  if c ≠ 0 && bit ((r[19]?).getD 0) 0 then r.take 24 ++ List.replicate 228 0 ++ r.drop 252 else r

/-- LBX_READ (R400, R411): a record the ring no longer holds returns no data and is REFUSED. -/
def execLbxRead (c : Nat) (s : State) : Res :=
  .next (takeUp s c 0x60 false [] (fun s =>
    let q := argNum s c 0 4
    match ringRec s (if q = 0xFFFFFFFF then s.wd.seq else q) with
    | some r => answer (putRsp s c 0 (wordsOf (recordFor c r))) c stAccepted
    | none => answer s c stRefused))

/-- SEAL_READ (R400, R411). -/
def execSealRead (c : Nat) (s : State) : Res :=
  .next (takeUp s c 0x61 false [] (fun s =>
    let n := argByte s c 0
    if 64 ≤ n then answer s c stInvalid
    else match mfind s.wd.seals n with
      | some r => answer (putRsp s c 0 (wordsOf (recordFor c r))) c stAccepted
      | none => answer s c stRefused))

/-- SEAL_CLEAR (R409). -/
def execSealClear (c : Nat) (s : State) : Res :=
  .next (takeUp s c 0x62 true [] (fun s => answer (wrF { s with wd := { s.wd with seals := [] } } lbx LBX.SEAL_STAT.LOST 0) c stAccepted))

/-- LIFE_READ (R400, R412): counter groups 1-8. -/
def execLifeRead (c : Nat) (s : State) : Res :=
  .next (takeUp s c 0x70 false [] (fun s =>
    let f := argNum s c 0 2
    let n := argByte s c 2
    let ids := (List.range n).map (fun j => f + j)
    if n = 0 || 30 < n || ids.any (fun k => k / 4096 = 0 || 8 < k / 4096) then answer s c stInvalid
    else
      let vs := ids.flatMap (fun k => let v := mget 0 s.life k; [v % 2 ^ 32, v / 2 ^ 32])
      answer (putRsp s c 0 ([f + 65536 * n, 0, s.gtime % 2 ^ 32, s.gtime / 2 ^ 32] ++ vs)) c stAccepted))

/-- FUSE (R325, R400): a blown fuse takes its enable away at once. -/
def execFuse (c : Nat) (s : State) : Res :=
  .next (takeUp s c 0x80 true [] (fun s =>
    let m := argByte s c 0
    if argNum s c 4 4 ≠ 0x46555345 || 16 ≤ m then answer s c stInvalid
    else
      let one := fun (s : State) (n : Nat) (f : Field) => if bit m n then wrF s hub f 1 else s
      answer (dbgChanged (one (one (one (one s 0 HUB.DBG_FUSE.SID) 1 HUB.DBG_FUSE.SNID) 2 HUB.DBG_FUSE.NID) 3 HUB.DBG_FUSE.NNID)) c stAccepted))

/-- The Warden restarts itself (R396, R413): commands in progress fail, a pause begins, and a second restart within 60 s is
fatal to it. A new bank not yet healthy is given up instead (R417). -/
def wardenRestart (s : State) (cause : Nat) : State :=
  if modeOf s = 0 then s
  else match s.wd.switching with
  | some nb => revertBank s nb
  | none =>
    let s := lifeAdd (logRec s 0x72 0 0xFF [cause]) (7 * 4096 + 4)
    let s := (List.range 3).foldl (fun (s : State) c => if (chanOfW s c).code ≠ 0 then answer s c stFailed else s) s
    let again : Bool := match s.wd.restart with
      | some t => s.gtime ≤ t + msUnits 60000
      | none => false
    let s := { s with wd := { s.wd with pause := true, rstEvt := true, restart := some s.gtime } }
    if again then fatal s 8 [] else s

/-- LOCKSTEP_MISMATCH, WARDEN_SRAM_UE, WATCHDOG_EXPIRE (R396). -/
def execLockstepMismatch (s : State) : Res := .next (wardenRestart s 0)
def execWardenSramUe (s : State) : Res := .next (wardenRestart s 1)
def execWatchdogExpire (s : State) : Res := .next (wardenRestart s 2)

/-- A latched event is acted on (R413). -/
def actLatched (s : State) (l : Latched) : State :=
  match l with
  | .holdReq t => holdAct s t
  | .grantMiss => grantAct s
  | .watchWake => watchAct s
  | .fatal cond pay => fatal s cond pay

/-- MANAGEMENT_PAUSE_END (R413): the firmware serves the mailbox again; what was latched is acted on in order, then commands
are taken up. -/
def execManagementPauseEnd (s : State) : Res :=
  if !s.wd.pause then .next s
  else
    let ls := s.wd.latched
    let r := s.wd.rstEvt
    let s := { s with wd := { s.wd with pause := false, latched := [], rstEvt := false } }
    let s := if s.wd.switching.isNone then endSwitch s 0 stRefused else s
    let s := if r then capture s wdn 4 else s
    .next (takeUnlisted (railsGone (ls.foldl actLatched s)))

/-- LOCKBOX_RECORD_WRITE (R406, R408): the oldest queued record takes the next SEQ and its slot; once the queue has drained
after an overflow, a record with the count lost follows. -/
def execLockboxRecordWrite (s : State) : Res :=
  match s.lbq with
  | [] => .next s
  | r :: q =>
    let n := (s.wd.seq + 1) % 2 ^ 32
    let s := { s with lbq := q, wd := { s.wd with seq := n, ring := mput s.wd.ring (n % 16384) (recBytes s n r 0) } }
    if q.isEmpty && s.lbDrop ≠ 0 then .next (logRec { s with lbDrop := 0 } 0xFE 0 0xFF (leBytes s.lbDrop 4)) else .next s

/-- LIFETIME_CHECKPOINT (R412). -/
def execLifetimeCheckpoint (s : State) : Res :=
  if modeOf s = 0 || s.wd.pause then .next s else .next { s with wd := { s.wd with lifeCk := s.life } }

/-- LBX_LOAD_DONE (R411): the record asked for stands in LBX.REC, or is gone. -/
def execLbxLoadDone (s : State) : Res :=
  match s.wd.loadWait with
  | none => .next s
  | some k =>
    let s := wrF { s with wd := { s.wd with loadWait := none } } lbx LBX.RD_STAT.BUSY 0
    match (if k % 2 = 0 then ringRec s (k / 2) else mfind s.wd.seals (k / 2)) with
    | some r => .next (wrF ((wordsOf r).zipIdx.foldl (fun (s : State) e => wrF s lbx LBX.REC.DATA e.1 e.2) s) lbx LBX.RD_STAT.VALID 1)
    | none => .next (wrF s lbx LBX.RD_STAT.GONE 1)

/-- A write of LBX.RD_SEQ (`slot` false) or LBX.RD_SLOT starts a load (R411); a later one replaces it. -/
def lbxLoad (s : State) (slot : Bool) (v : Nat) : State :=
  let s := wrF (wrF (wrF s lbx LBX.RD_STAT.BUSY 1) lbx LBX.RD_STAT.VALID 0) lbx LBX.RD_STAT.GONE 0
  let s := (List.range 64).foldl (fun (s : State) n => wrF s lbx LBX.REC.DATA 0 n) s
  { s with wd := { s.wd with loadWait := some (2 * v + b2n slot) } }

end Sys2Proof.Machine
end

