-- ==== Sys2Proof/Machine/Engines.lean ====
section
/-! DEFINITION. The scrubbers (R222, R223) and the fill engine (R218). -/
namespace Sys2Proof.Machine
open Sys2Proof

/-- A local address from its LO and HI registers. -/
def scbAddr (s : State) (b : Blk) (lo hi : Field) : Nat := rdF s b lo / 64 * 64 + rdF s b hi % 65536 * 2 ^ 32

/-- The size of the array that a scrubber reads (R222); 0 for a DDR5 channel not in use. -/
def scbSize (s : State) (b : Blk) : Nat :=
  if b.die = 0 then
    match instOf b with
    | 8 => 0x700000
    | 9 => 0x100000
    | 10 => 0x80000
    | c => if rdF s hub HUB.MEM_CFG.DDR_EN = 1 && c < ddrChans s then 2 ^ s.ddrExp / ddrChans s else 0
  else if 32 ≤ b.die then 0x6_0000_0000
  else 0x80000

/-- A write of SCB.CTRL.GO (R222, R224): ignored while a scrub runs; the summary clears, and a range that is empty or beyond the
array is refused. -/
def scbGo (s : State) (b : Blk) : State :=
  if (mfind s.scrubs (bkey b)).isSome then s
  else
    let a := scbAddr s b SCB.START_LO.ADDR SCB.START_HI.ADDR
    let e := scbAddr s b SCB.END_LO.ADDR SCB.END_HI.ADDR
    let s := [SCB.CE.COUNT, SCB.UE.COUNT, SCB.FIRST_LO.ADDR, SCB.FIRST_HI.ADDR, SCB.LAST_LO.ADDR, SCB.LAST_HI.ADDR].foldl (fun (s : State) f => wrF s b f 0) s
    if e ≤ a || scbSize s b < e then wrF s b SCB.CTRL.REFUSED 1
    else wrF (wrF { s with scrubs := mput s.scrubs (bkey b) ⟨a, e, false⟩ } b SCB.CTRL.REFUSED 0) b SCB.CTRL.BUSY 1

/-- A write of SCB.CTRL.ABORT (R223). -/
def scbAbort (s : State) (b : Blk) : State :=
  match mfind s.scrubs (bkey b) with
  | some x => { s with scrubs := mput s.scrubs (bkey b) { x with abort := true } }
  | none => s

/-- A line that counts in the summary: the first and the last of them are recorded (R223). -/
def scbNote (s : State) (b : Blk) (a : Nat) (ue : Bool) : State :=
  let first := rdF s b SCB.CE.COUNT = 0 && rdF s b SCB.UE.COUNT = 0
  let s := addF s b (if ue then SCB.UE.COUNT else SCB.CE.COUNT)
  let s := if first then wrF (wrF s b SCB.FIRST_LO.ADDR a) b SCB.FIRST_HI.ADDR (a / 2 ^ 32) else s
  wrF (wrF s b SCB.LAST_LO.ADDR a) b SCB.LAST_HI.ADDR (a / 2 ^ 32)

/-- The stack's lines have a second good copy (R212). -/
def stackPair (s : State) (k : Nat) : Bool :=
  rdF s hub HUB.MEM_CFG.MODE = 1 && stackUp s k && stackUp s (partner k) && rdF s (mch k) MCH.RESYNC.BUSY = 0
    && rdF s (mch (partner k)) MCH.RESYNC.BUSY = 0

/-- What a scrub read of DRAM does (R221, R223): corrected, repaired from the mirror, or left as it is with its record. -/
def scbDram (s : State) (b c : Blk) (a : Nat) (f : ScrubFind) : State :=
  match f with
  | .clean => s
  | .corrected => scbNote (capture (lifeAdd (addF (countEv s c 0x12) c MCH.CE_CNT.COUNT) (lifeCe c)) c 0) b a false
  | .uncorrectable words =>
    if 32 ≤ c.die && stackPair s (c.die - 32) then capture (recordUe (addF s c MCH.FIX_CNT.COUNT) c a words 1 true) c 2
    else
      let s := capture (recordUe (addF s c MCH.UE_CNT.COUNT) c a words 1 false) c 1
      let s := logRec s 0x30 c.die (instOf c) (leBytes a 4 ++ leBytes (a / 2 ^ 32) 4 ++ leBytes (2 ^ 31 + 2 ^ 26 + words % 256) 4)
      scbNote s b a true

/-- The uncorrectable bytes of the byte-coded array of a scrubber, as it addresses them, and the array with more of them. -/
def scbBad (s : State) (b : Blk) : List Nat :=
  if b.die = 0 then
    match instOf b with
    | 8 => s.spl.bad
    | 9 => s.wd.sramBad
    | _ => s.scan.tsBad
  else
    let base := ((b.die - 8) * 24 + 4 * instOf b) * 2 ^ 17
    (s.lsBad.filter (fun k => base ≤ k && k < base + 0x80000)).map (fun k => k - base)
def scbMark (s : State) (b : Blk) (l : List Nat) : State :=
  if b.die = 0 then
    match instOf b with
    | 8 => { s with spl := { s.spl with bad := l.foldl sIns s.spl.bad } }
    | 9 => { s with wd := { s.wd with sramBad := l.foldl sIns s.wd.sramBad } }
    | _ => { s with scan := { s.scan with tsBad := l.foldl sIns s.scan.tsBad } }
  else
    let base := ((b.die - 8) * 24 + 4 * instOf b) * 2 ^ 17
    { s with lsBad := (l.map (fun k => k + base)).foldl sIns s.lsBad }

/-- A corrected error of a byte-coded array is counted (R150, R412). -/
def scbCe (s : State) (b : Blk) : State :=
  if b.die = 0 then lifeAdd s (4 * 4096 + instOf b)
  else
    let h := hcl b.die (instOf b)
    capture (lifeAdd (addF s h HCL.CE_LS.COUNT) (4 * 4096 + b.die * 32 + 12 + instOf b)) h 1

/-- What a scrub read of a byte-coded array does (R223). -/
def scbBytes (s : State) (b : Blk) (a : Nat) (f : ScrubFind) : State :=
  let s := match f with
    | .uncorrectable words => scbMark s b (((List.range 64).filter (fun i => bit words (i / 8))).map (fun i => a + i))
    | .clean | .corrected => s
  let s := match f with
    | .corrected => scbNote (scbCe s b) b a false
    | .clean | .uncorrectable _ => s
  if (scbBad s b).any (fun k => a ≤ k && k < a + 64) then scbNote s b a true else s

/-- SCRUB_LINE (R223). -/
def execScrubLine (b : Blk) (f : ScrubFind) (s : State) : Res :=
  match mfind s.scrubs (bkey b) with
  | none => .next s
  | some x =>
    if x.abort || x.stop ≤ x.at_ then .next s
    else
      let s : State := countEv { s with scrubs := mput s.scrubs (bkey b) { x with at_ := x.at_ + 64 } } b 0x10
      if 32 ≤ b.die then .next (scbDram s b (mch (b.die - 32)) x.at_ f)
      else if b.die = 0 && instOf b < 8 then .next (scbDram s b (mcd (instOf b)) x.at_ f)
      else .next (scbBytes s b x.at_ f)

/-- SCRUB_DONE (R223). -/
def execScrubDone (b : Blk) (s : State) : Res :=
  match mfind s.scrubs (bkey b) with
  | none => .next s
  | some x =>
    if x.abort || x.stop ≤ x.at_ then .next (capture (wrF { s with scrubs := mdel s.scrubs (bkey b) } b SCB.CTRL.BUSY 0) b 0) else .next s

/-- The range of a fill lies in its target (R218). -/
def filOk (s : State) (f : Fill) : Bool :=
  let e := f.dst + 64 * f.lines
  f.lines ≠ 0 && (match f.target with
    | 0 => memRange s f.dst (64 * f.lines)
    | 1 => f.hart < hartCount s && dieUp s (coreDie (hartOf s f.hart).core) && e ≤ 0x20000
    | 2 => e ≤ 0x700000
    | 3 => e ≤ 0x80000
    | 4 => f.who.num = 87 && e ≤ 0x100000
    | _ => false)

/-- A write of FIL.CTRL.GO (R218, R224): ignored while a fill runs; refused with ERR where the range lies outside its target. -/
def filGo (s : State) (w : Who) : State :=
  if s.fill.isSome then s
  else
    let f : Fill := {
      dst := rdF s fil FIL.DST_LO.ADDR / 64 * 64 + rdF s fil FIL.DST_HI.ADDR % 65536 * 2 ^ 32, lines := rdF s fil FIL.LEN.LINES,
      pat := rdF s fil FIL.PAT_LO.PAT + rdF s fil FIL.PAT_HI.PAT * 2 ^ 32, target := rdF s fil FIL.CTRL.TARGET,
      hart := rdF s fil FIL.CTRL.HART, who := w }
    if filOk s f then wrF { s with fill := some f } fil FIL.CTRL.BUSY 1 else wrF s fil FIL.CTRL.ERR 1

/-- A line of pattern. -/
def patLine (pat : Nat) : Nat := (List.range 8).foldl (fun a i => a + pat * 2 ^ (64 * i)) 0
/-- A set of addresses without a line's. -/
def cleanLine (l : List Nat) (a : Nat) : List Nat := l.filter (fun k => !(decide (a ≤ k) && decide (k < a + 64)))

/-- Line `i` of a fill is written (R218): in a secure region only by a secure fill. -/
def filLine (s : State) (f : Fill) (i : Nat) : State :=
  let a := f.dst + 64 * i
  let v := patLine f.pat
  match f.target with
  | 0 =>
    let s := meterPath (meterPool s 87 a true) 87 4 (homeDie s a)
    let (sec, s) := isSecure s a
    if sec && !f.who.sec then wrF (secEvent s 0 a { f.who with num := 87 } true) fil FIL.CTRL.ERR 1
    else cohWriteLine s (a / 64) (BitVec.ofNat 512 v) 0
  | 1 =>
    let k := lsKey (hartOf s f.hart).core a
    { s with lstore := writeBytes s.lstore k 64 v, lsBad := cleanLine s.lsBad k }
  | 2 => { s with spl := { s.spl with arr := writeBytes s.spl.arr a 64 v, bad := cleanLine s.spl.bad a } }
  | 3 => { s with scan := { s.scan with ts := writeBytes s.scan.ts a 64 v, tsBad := cleanLine s.scan.tsBad a } }
  | _ => { s with wd := { s.wd with sram := writeBytes s.wd.sram a 64 v, sramBad := cleanLine s.wd.sramBad a } }

/-- The lines of a fill from `i` on, in ascending order. -/
def filLines (s : State) (f : Fill) (i : Nat) : Nat → State
  | 0 => s
  | n + 1 => filLines (countEv (filLine s f i) fil 0x10) f (i + 1) n

/-- A write of FIL.CTRL.ABORT (R218): the fill stops after the current line; how many lines it has then done is free. -/
def filAbort (s : State) : State :=
  match s.fill with
  | none => s
  | some f =>
    let (v, s) := draw s
    wrF (filLines { s with fill := none } f 0 (v % f.lines + 1)) fil FIL.CTRL.BUSY 0

/-- FILL_DONE (R218). -/
def execFillDone (s : State) : Res :=
  match s.fill with
  | none => .next s
  | some f => .next (capture (wrF (filLines { s with fill := none } f 0 f.lines) fil FIL.CTRL.BUSY 0) fil 0)

end Sys2Proof.Machine
end

