-- ==== Sys2Proof/Machine/Counters.lean ====
section
/-! DEFINITION. The block counters as they are read, the snapshot gatherer and the bandwidth monitors (R418-R423). -/
namespace Sys2Proof.Machine
open Sys2Proof

/-- The block that CTR.SEL names. -/
def ctrSel (s : State) : Blk := ⟨rdF s ctr CTR.SEL.DIE, rdF s ctr CTR.SEL.SLOT⟩

/-- A counter of an event whose number this model does not follow has gone on by a free amount when it is looked at. -/
def ctrDrift (s : State) (b : Blk) (i : Nat) : State :=
  let e := if chained s b i then ctrEvent s b (i - 1) else ctrEvent s b i
  if exactEv (typeOf b) e || (hdrOf s b).cntFreeze || !present s b then s
  else
    let v := ctrVal s b i
    let (n, s) := draw s
    ctrPut s b i (v + n % (2 ^ 48 - v % 2 ^ 48))

/-- COUNTER_OVERFLOW (R419): such a counter of a block passes its end. -/
def execCounterOverflow (b : Blk) (i : Nat) (s : State) : Res :=
  if 8 ≤ i || chained s b i || exactEv (typeOf b) (ctrEvent s b i) || (hdrOf s b).cntFreeze || !present s b then .next s
  else .next (ctrAdd s b i (2 ^ 48 - ctrVal s b i))

/-- The selected event codes of a block type (R421); every other is reserved. -/
def eventListed (t code : Nat) : Bool :=
  code ≤ 2 ||
  (let n := match t with
    | 17 | 12 | 18 => 6
    | 11 => 8
    | 13 => 3
    | 14 | 15 | 16 | 19 | 22 | 23 | 24 => 5
    | 10 | 21 => 4
    | 20 => 3
    | 25 => 2
    | 8 | 9 => 1
    | _ => 0
  (0x10 ≤ code && code < 0x10 + n) || (t = 13 && 0x20 ≤ code && code < 0x30))

/-- A 64-bit read of CNT_LO of an even counter whose partner is chained (R420): the odd counter is copied into HOLD and
cleared. -/
def holdCopy (s : State) (i : Nat) : State :=
  let b := ctrSel s
  if i % 2 = 0 && chained s b (i + 1) then
    let v := ctrVal s b (i + 1)
    let o := rdF s ctr CTR.CNT_HI.OVF (i + 1) (ctrBank b)
    let s := wrF (wrF s ctr CTR.HOLD_LO.COUNT v) ctr CTR.HOLD_HI.COUNT (v / 2 ^ 32 + o * 2 ^ 31)
    wrF (ctrPut s b (i + 1) 0) ctr CTR.CNT_HI.OVF 0 (i + 1) (ctrBank b)
  else s

/-- The blocks that are in service (R39, R51). -/
def allBlocks (s : State) : List Blk :=
  (List.range 40).flatMap (fun d => (List.range 26).flatMap (fun t => ((List.range (instCount d t)).map (fun i => blkOf d t i)).filter (present s)))

/-- The instant of a snapshot that is armed (R422). -/
def snapTime (s : State) : Nat := rdF s ctr CTR.SNAP_TIME_LO.TIME / 32 * 32 + rdF s ctr CTR.SNAP_TIME_HI.TIME * 2 ^ 32

/-- A write of SNAP_CTL with ARM (R422): DONE clears, and LATE tells whether the instant has passed. -/
def snapArm (s : State) : State :=
  if rdF s ctr CTR.SNAP_CTL.ARM = 0 then s
  else
    let s := wrF (wrF s ctr CTR.SNAP_CTL.DONE 0) ctr CTR.SNAP_CTL.LATE (b2n (snapTime s < s.gtime))
    { s with bw := { s.bw with snapped := false } }

/-- SNAPSHOT_COPY (R422): at the instant, or at the next TimeClk edge once it has passed, every block in service copies its
counters. -/
def execSnapshotCopy (s : State) : Res :=
  if rdF s ctr CTR.SNAP_CTL.ARM = 0 || !present s ctr then .next s
  else
    let s := runTo s (if rdF s ctr CTR.SNAP_CTL.LATE = 1 then (s.gtime + 31) / 32 * 32 else snapTime s)
    let s := (allBlocks s).foldl (fun (s : State) b => (List.range 8).foldl (fun (s : State) i =>
      let s := ctrDrift s b i
      let v := ctrVal s b i
      let o := rdF s ctr CTR.CNT_HI.OVF i (ctrBank b)
      wrF (wrF s ctr CTR.SNAP_LO.COUNT v i (ctrBank b)) ctr CTR.SNAP_HI.COUNT (v / 2 ^ 32 + o * 2 ^ 31) i (ctrBank b)) s) s
    .next (wrF { s with bw := { s.bw with snapped := true } } ctr CTR.SNAP_CTL.ARM 0)

/-- SNAP_DONE (R422). -/
def execSnapDone (s : State) : Res :=
  if !s.bw.snapped then .next s
  else .next (capture (wrF { s with bw := { s.bw with snapped := false } } ctr CTR.SNAP_CTL.DONE 1) ctr 1)

/-- A change of a monitor's port or window (R423): its counts read 0 until a whole window has passed. -/
def monWritten (s : State) (m : Nat) : State :=
  wrF (wrF s ctr CTR.BW_TX.UNITS 0 m) ctr CTR.BW_RX.UNITS 0 m

/-- A block that has a data port a monitor can watch (R423). -/
def dataPort (s : State) (b : Blk) : Bool :=
  present s b && match typeOf b with
    | 14 | 15 | 16 | 20 | 22 | 23 | 24 | 25 => true
    | _ => false

/-- BW_WINDOW_START (R423): the counts of the window that ends become readable, if it was a whole one of the settings in
force, and counting restarts. This model follows no flits: the two counts are free, within the largest a window allows. -/
def execBwWindowStart (m : Nat) (s : State) : Res :=
  if 16 ≤ m || !present s ctr then .next s
  else
    let w := 32 * rdF s ctr CTR.BW_CFG.WIN m
    let s := runTo s ((s.gtime + w - 1) / w * w)
    let now : Mon := ⟨rdF s ctr CTR.BW_SRC.DIE m, rdF s ctr CTR.BW_SRC.SLOT m, rdF s ctr CTR.BW_CFG.WIN m⟩
    if rdF s ctr CTR.BW_CFG.EN m = 0 then .next (monWritten { s with bw := { s.bw with mons := mdel s.bw.mons m } } m)
    else
      let s : State := match mfind s.bw.mons m with
        | some o =>
          if o = now && dataPort s ⟨o.die, o.slot⟩ then
            let (t, s) := draw s
            let (r, s) := draw s
            wrF (wrF s ctr CTR.BW_TX.UNITS (t % 20971201) m) ctr CTR.BW_RX.UNITS (r % 20971201) m
          else monWritten s m
        | none => monWritten s m
      .next { s with bw := { s.bw with mons := mput s.bw.mons m now } }

end Sys2Proof.Machine
end

