-- ==== Sys2Proof/Machine/Float.lean ====
section
/-! DEFINITION. Floating-point arithmetic of the F and D extensions that R80 names as ratified (assumption log 2): operands are taken
apart into exact numbers, computed exactly, and rounded once. -/
namespace Sys2Proof.Machine
open Sys2Proof

/-- A datum of a floating-point format: a NaN, an infinity, or the number `± m * 2 ^ e`. -/
inductive FpNum where
  | nan (signaling : Bool)
  | inf (neg : Bool)
  | fin (neg : Bool) (m : Nat) (e : Int)
deriving DecidableEq, Repr

/-- The exception flags, as `fflags` places them. -/
def fNV : Nat := 16
def fDZ : Nat := 8
def fOF : Nat := 4
def fUF : Nat := 2
def fNX : Nat := 1

/-- Bits of precision, and the bits of the fraction. -/
def fpP (dbl : Bool) : Nat := if dbl then 53 else 24
/-- The exponent of the least number of the format. -/
def fpQmin (dbl : Bool) : Int := if dbl then -1074 else -149
/-- The bits of positive infinity; the sign's weight; the canonical NaN. -/
def fpInf (dbl : Bool) : Nat := if dbl then 0x7FF0000000000000 else 0x7F800000
def fpSignBit (dbl : Bool) : Nat := if dbl then 2 ^ 63 else 2 ^ 31
def fpNan (dbl : Bool) : Nat := if dbl then 0x7FF8000000000000 else 0x7FC00000

/-- The number that bits of a format stand for. -/
def fpUnpack (dbl : Bool) (v : Nat) : FpNum :=
  let neg : Bool := fpSignBit dbl ≤ v
  let w := v % fpSignBit dbl
  let one := 2 ^ (fpP dbl - 1)
  if fpInf dbl < w then .nan (w % one < one / 2)
  else if w = fpInf dbl then .inf neg
  else if w < one then .fin neg w (fpQmin dbl)
  else .fin neg (w % one + one) (fpQmin dbl + (w / one : Nat) - 1)

/-- Whether a magnitude cut to `hi`, with the remainder `rem` of a unit `2 * half`, is rounded up: rounding modes RNE, RTZ, RDN, RUP,
RMM. -/
def fpUp (rm : Nat) (neg : Bool) (hi rem half : Nat) : Bool :=
  match rm with
  | 0 => half < rem || (rem = half && hi % 2 = 1)
  | 1 => false
  | 2 => neg && rem ≠ 0
  | 3 => !neg && rem ≠ 0
  | _ => half ≤ rem

/-- The number of bits of `m`. -/
def bitLen (m : Nat) : Nat := if m = 0 then 0 else Nat.log2 m + 1

/-- `m * 2 ^ e` rounded to a multiple of `2 ^ q`: the multiple, and whether it is inexact. -/
def fpCut (rm : Nat) (neg : Bool) (m : Nat) (e q : Int) : Nat × Bool :=
  if q ≤ e then (m * 2 ^ (e - q).toNat, false)
  else
    let n := (q - e).toNat
    let rem := m % 2 ^ n
    (m / 2 ^ n + b2n (fpUp rm neg (m / 2 ^ n) rem (2 ^ (n - 1))), rem ≠ 0)

/-- The bits and flags of `± m * 2 ^ e` rounded to a format. A result that overflows is infinity or the largest number by the rounding
mode; tininess is detected after rounding. -/
def fpRound (dbl : Bool) (rm : Nat) (neg : Bool) (m : Nat) (e : Int) : Nat × Nat :=
  let s := if neg then fpSignBit dbl else 0
  let top := e + (bitLen m : Int)
  let free := top - (fpP dbl : Int)
  let q := max free (fpQmin dbl)
  let (hi, inexact) := fpCut rm neg m e q
  let v := (q - fpQmin dbl).toNat * 2 ^ (fpP dbl - 1) + hi
  if m = 0 then (s, 0)
  else if fpInf dbl ≤ v then
    (s + (if rm = 1 || (rm = 2 && !neg) || (rm = 3 && neg) then fpInf dbl - 1 else fpInf dbl), fOF + fNX)
  else
    let least := fpQmin dbl + (fpP dbl : Int) - 1
    let tiny : Bool := top < least || (top = least && (fpCut rm neg m e free).1 < 2 ^ fpP dbl)
    (s + v, if inexact then (if tiny then fUF + fNX else fNX) else 0)

/-- A NaN result, with NV where an operand signals or the operation is invalid. -/
def fpNaNs (dbl invalid : Bool) (l : List FpNum) : Nat × Nat :=
  (fpNan dbl, if invalid || l.any (fun x => x == .nan true) then fNV else 0)

def isNan (x : FpNum) : Bool := match x with
  | .nan _ => true
  | _ => false

/-- The number `± m * 2 ^ e` as a multiple of `2 ^ q`, for `q` not above `e`. -/
def fpScaled (neg : Bool) (m : Nat) (e q : Int) : Int :=
  let v : Int := ((m * 2 ^ (e - q).toNat : Nat) : Int)
  if neg then -v else v

/-- The sum of two numbers; an exact zero of unlike signs is negative only when rounding down. -/
def fpSum (dbl : Bool) (rm : Nat) (n1 : Bool) (m1 : Nat) (e1 : Int) (n2 : Bool) (m2 : Nat) (e2 : Int) : Nat × Nat :=
  let q := min e1 e2
  let v := fpScaled n1 m1 e1 q + fpScaled n2 m2 e2 q
  if v = 0 then fpRound dbl rm (if n1 = n2 then n1 else rm = 2) 0 q else fpRound dbl rm (v < 0) v.natAbs q

def fpAdd (dbl : Bool) (rm : Nat) (x y : FpNum) : Nat × Nat :=
  match x, y with
  | .fin n1 m1 e1, .fin n2 m2 e2 => fpSum dbl rm n1 m1 e1 n2 m2 e2
  | .inf n1, .inf n2 => if n1 = n2 then (fpInf dbl + (if n1 then fpSignBit dbl else 0), 0) else fpNaNs dbl true []
  | .inf n, .fin _ _ _ | .fin _ _ _, .inf n => (fpInf dbl + (if n then fpSignBit dbl else 0), 0)
  | _, _ => fpNaNs dbl false [x, y]

def fpNeg (x : FpNum) : FpNum :=
  match x with
  | .nan b => .nan b
  | .inf n => .inf !n
  | .fin n m e => .fin (!n) m e

def fpMul (dbl : Bool) (rm : Nat) (x y : FpNum) : Nat × Nat :=
  match x, y with
  | .fin n1 m1 e1, .fin n2 m2 e2 => fpRound dbl rm (n1 != n2) (m1 * m2) (e1 + e2)
  | .inf n1, .inf n2 => (fpInf dbl + (if n1 != n2 then fpSignBit dbl else 0), 0)
  | .inf n1, .fin n2 m _ | .fin n2 m _, .inf n1 =>
    if m = 0 then fpNaNs dbl true [] else (fpInf dbl + (if n1 != n2 then fpSignBit dbl else 0), 0)
  | _, _ => fpNaNs dbl false [x, y]

/-- `x * y + z` rounded once; the product of an infinity and a zero is invalid whatever `z` is. -/
def fpFma (dbl : Bool) (rm : Nat) (x y z : FpNum) : Nat × Nat :=
  match x, y with
  | .fin n1 m1 e1, .fin n2 m2 e2 =>
    match z with
    | .fin n m e => fpSum dbl rm (n1 != n2) (m1 * m2) (e1 + e2) n m e
    | .inf n => (fpInf dbl + (if n then fpSignBit dbl else 0), 0)
    | .nan _ => fpNaNs dbl false [z]
  | .inf n1, .inf n2 => fpAdd dbl rm (.inf (n1 != n2)) z
  | .inf n1, .fin n2 m _ | .fin n2 m _, .inf n1 => if m = 0 then fpNaNs dbl true [] else fpAdd dbl rm (.inf (n1 != n2)) z
  | _, _ => fpNaNs dbl false [x, y, z]

/-- A quotient or root known to `v` units of `2 ^ e`, and whether something is left below: the half unit below stands for it, which
rounds alike since `v` has more bits than the format keeps. -/
def fpSticky (dbl : Bool) (rm : Nat) (neg : Bool) (v : Nat) (e : Int) (more : Bool) : Nat × Nat :=
  fpRound dbl rm neg (2 * v + b2n more) (e - 1)

def fpDiv (dbl : Bool) (rm : Nat) (x y : FpNum) : Nat × Nat :=
  match x, y with
  | .fin n1 m1 e1, .fin n2 m2 e2 =>
    if m2 = 0 then (if m1 = 0 then fpNaNs dbl true [] else (fpInf dbl + (if n1 != n2 then fpSignBit dbl else 0), fDZ))
    else
      let k := 2 * fpP dbl + 3
      fpSticky dbl rm (n1 != n2) (m1 * 2 ^ k / m2) (e1 - e2 - (k : Int)) (m1 * 2 ^ k % m2 ≠ 0)
  | .inf _, .inf _ => fpNaNs dbl true []
  | .inf n1, .fin n2 _ _ => (fpInf dbl + (if n1 != n2 then fpSignBit dbl else 0), 0)
  | .fin n1 _ _, .inf n2 => fpRound dbl rm (n1 != n2) 0 0
  | _, _ => fpNaNs dbl false [x, y]

/-- The integer square root of a number below `2 ^ (2 * k)`. -/
def isqrt (k v : Nat) : Nat := (List.range k).reverse.foldl (fun r i => if (r + 2 ^ i) * (r + 2 ^ i) ≤ v then r + 2 ^ i else r) 0

def fpSqrt (dbl : Bool) (rm : Nat) (x : FpNum) : Nat × Nat :=
  match x with
  | .fin n m e =>
    if m = 0 then fpRound dbl rm n 0 0
    else if n then fpNaNs dbl true []
    else
      let k := fpP dbl + 3
      let m' := if e % 2 = 0 then m else 2 * m
      let v := m' * 2 ^ (2 * k)
      let r := isqrt (2 * fpP dbl) v
      fpSticky dbl rm false r ((e - e % 2) / 2 - (k : Int)) (r * r ≠ v)
  | .inf n => if n then fpNaNs dbl true [] else (fpInf dbl, 0)
  | .nan _ => fpNaNs dbl false [x]

/-- `x` is less than `y`, neither a NaN; the zeros are equal. -/
def fpLt (x y : FpNum) : Bool :=
  match x, y with
  | .fin n1 m1 e1, .fin n2 m2 e2 => fpScaled n1 m1 e1 (min e1 e2) < fpScaled n2 m2 e2 (min e1 e2)
  | .inf n1, .inf n2 => n1 && !n2
  | .inf n, .fin _ _ _ => n
  | .fin _ _ _, .inf n => !n
  | _, _ => false

/-- FEQ is quiet; FLT and FLE signal on any NaN. -/
def fpCmp (quiet : Bool) (x y : FpNum) (r : Bool) : Nat × Nat :=
  if isNan x || isNan y then (0, if !quiet || x == .nan true || y == .nan true then fNV else 0) else (b2n r, 0)

/-- FMIN and FMAX: -0 is below +0, a NaN gives way to a number, a signaling NaN raises NV. -/
def fpMinMax (dbl big : Bool) (x y : FpNum) (a b : Nat) : Nat × Nat :=
  let fl := if x == .nan true || y == .nan true then fNV else 0
  if isNan x && isNan y then (fpNan dbl, fl)
  else if isNan x then (b, fl)
  else if isNan y then (a, fl)
  else
    let less : Bool := fpLt x y || (!fpLt y x && fpSignBit dbl ≤ a)
    (if less != big then a else b, fl)

/-- FCLASS: one bit of ten. -/
def fpClassify (dbl : Bool) (x : FpNum) : Nat :=
  match x with
  | .nan sig => if sig then 2 ^ 8 else 2 ^ 9
  | .inf neg => if neg then 1 else 2 ^ 7
  | .fin neg m _ =>
    if m = 0 then (if neg then 2 ^ 3 else 2 ^ 4)
    else if m < 2 ^ (fpP dbl - 1) then (if neg then 2 ^ 2 else 2 ^ 5)
    else if neg then 2 else 2 ^ 6

/-- FCVT to an integer: 0 W, 1 WU, 2 L, 3 LU; out of range it saturates with NV, and a NaN counts as too large. A 32-bit result is
sign-extended. -/
def fpToI (rm k : Nat) (x : FpNum) : Word × Nat :=
  let lo : Int := match k with
    | 0 => -2 ^ 31
    | 2 => -2 ^ 63
    | _ => 0
  let hi : Int := match k with
    | 0 => 2 ^ 31 - 1
    | 1 => 2 ^ 32 - 1
    | 2 => 2 ^ 63 - 1
    | _ => 2 ^ 64 - 1
  let out := fun (v : Int) => if k < 2 then (BitVec.ofInt 32 v).signExtend 64 else BitVec.ofInt 64 v
  match x with
  | .nan _ => (out hi, fNV)
  | .inf n => (out (if n then lo else hi), fNV)
  | .fin n m e =>
    let (v, inexact) := fpCut rm n m e 0
    let v : Int := if n then -(v : Int) else (v : Int)
    if v < lo then (out lo, fNV) else if hi < v then (out hi, fNV) else (out v, if inexact then fNX else 0)

/-- FCVT from an integer, by the same codes. -/
def fpFromI (dbl : Bool) (rm k : Nat) (a : Word) : Nat × Nat :=
  let v : Int := match k with
    | 0 => (a.setWidth 32).toInt
    | 1 => ((a.setWidth 32).toNat : Int)
    | 2 => a.toInt
    | _ => (a.toNat : Int)
  fpRound dbl rm (v < 0) v.natAbs 0

/-- FCVT between the formats, to `dbl`. -/
def fpToF (dbl : Bool) (rm : Nat) (x : FpNum) : Nat × Nat :=
  match x with
  | .fin n m e => fpRound dbl rm n m e
  | .inf n => (fpInf dbl + (if n then fpSignBit dbl else 0), 0)
  | .nan _ => fpNaNs dbl false [x]

/-- A single held in a 64-bit register: NaN-boxed, else the canonical NaN (F extension). -/
def unbox (v : Word) : BitVec 32 := if v >>> 32 = 0xFFFFFFFF#64 then v.setWidth 32 else 0x7FC00000
def nanbox (v : BitVec 32) : Word := 0xFFFFFFFF00000000#64 ||| v.zeroExtend 64

/-- The bits of an operand in its format, and of a result as a register holds it. -/
def fpIn (dbl : Bool) (a : Word) : Nat := if dbl then a.toNat else (unbox a).toNat
def fpOut (dbl : Bool) (v : Nat) : Word := if dbl then BitVec.ofNat 64 v else nanbox (BitVec.ofNat 32 v)

/-- What a floating-point operation leaves, and the flags it accrues: `dbl` is the format that its encoding names, `rm` the rounding
mode. Moves and sign-injections act on bits. -/
def fpExec (op : FpOp) (dbl : Bool) (rm : Nat) (a b c : Word) : Word × Nat :=
  let x := fpUnpack dbl (fpIn dbl a)
  let y := fpUnpack dbl (fpIn dbl b)
  let z := fpUnpack dbl (fpIn dbl c)
  let f := fun (r : Nat × Nat) => (fpOut dbl r.1, r.2)
  let i := fun (r : Nat × Nat) => (BitVec.ofNat 64 r.1, r.2)
  match op with
  | .add => f (fpAdd dbl rm x y)
  | .sub => f (fpAdd dbl rm x (fpNeg y))
  | .mul => f (fpMul dbl rm x y)
  | .div => f (fpDiv dbl rm x y)
  | .sqrt => f (fpSqrt dbl rm x)
  | .madd => f (fpFma dbl rm x y z)
  | .msub => f (fpFma dbl rm x y (fpNeg z))
  | .nmsub => f (fpFma dbl rm (fpNeg x) y z)
  | .nmadd => f (fpFma dbl rm (fpNeg x) y (fpNeg z))
  | .min => f (fpMinMax dbl false x y (fpIn dbl a) (fpIn dbl b))
  | .max => f (fpMinMax dbl true x y (fpIn dbl a) (fpIn dbl b))
  | .feq => i (fpCmp true x y (!fpLt x y && !fpLt y x))
  | .flt => i (fpCmp false x y (fpLt x y))
  | .fle => i (fpCmp false x y (!fpLt y x))
  | .fclass => i (fpClassify dbl x, 0)
  | .cvtToInt k => fpToI rm k x
  | .cvtFromInt k => f (fpFromI dbl rm k a)
  | .cvtFloat => f (fpToF dbl rm (fpUnpack (!dbl) (fpIn (!dbl) a)))
  | .mvToInt => (if dbl then a else (a.setWidth 32).signExtend 64, 0)
  | .mvFromInt => (if dbl then a else nanbox (a.setWidth 32), 0)
  | .sgnj => f (fpIn dbl a % fpSignBit dbl + fpIn dbl b / fpSignBit dbl * fpSignBit dbl, 0)
  | .sgnjn => f (fpIn dbl a % fpSignBit dbl + (1 - fpIn dbl b / fpSignBit dbl) * fpSignBit dbl, 0)
  | .sgnjx => f (fpIn dbl a % fpSignBit dbl + (fpIn dbl a / fpSignBit dbl + fpIn dbl b / fpSignBit dbl) % 2 * fpSignBit dbl, 0)

end Sys2Proof.Machine
end

