-- ==== Sys2Proof/Machine/Alu.lean ====
section
/-! DEFINITION. What the computational instructions compute (R80) and the cycles they take (R94, R106). The operations
are those of the ratified RISC-V extensions that R80 names (assumption log 5). -/
namespace Sys2Proof.Machine
open Sys2Proof

/-- A 32-bit result sign-extended. -/
def sx32 (v : BitVec 32) : Word := v.signExtend 64
/-- The low 32 bits of a word. -/
def lo32 (v : Word) : BitVec 32 := v.truncate 32

/-- Number of zero bits below the lowest set bit among `n` bits; `n` when none is set. -/
def ctzN (v : Nat) : Nat → Nat
  | 0 => 0
  | n + 1 => if v % 2 = 1 then 0 else 1 + ctzN (v / 2) n

/-- Number of set bits among the low `n`. -/
def cpopN (v : Nat) : Nat → Nat
  | 0 => 0
  | n + 1 => v % 2 + cpopN (v / 2) n

/-- Number of zero bits above the highest set bit among the low `n`. -/
def clzN (v : Nat) : Nat → Nat
  | 0 => 0
  | n + 1 => if (v / 2 ^ n) % 2 = 1 then 0 else 1 + clzN v n

/-- Each byte of a word mapped. -/
def mapBytes (f : Nat → Nat) (v : Nat) : Nat → Nat
  | 0 => 0
  | n + 1 => f (v % 256) + 256 * mapBytes f (v / 256) n

/-- The bytes of a word in reverse. -/
def revBytes (v : Nat) : Nat → Nat
  | 0 => 0
  | n + 1 => (v % 256) * 256 ^ n + revBytes (v / 256) n

/-- RV64I, Zba, Zbb and Zbs on two operands; a one-operand operation ignores the second. -/
def alu (op : AluOp) (a b : Word) : Word :=
  let sh := b.toNat % 64
  let sh32 := b.toNat % 32
  match op with
  | .add => a + b
  | .sub => a - b
  | .sll => a <<< sh
  | .slt => if a.slt b then 1 else 0
  | .sltu => if a.ult b then 1 else 0
  | .xor => a ^^^ b
  | .srl => a >>> sh
  | .sra => a.sshiftRight sh
  | .or => a ||| b
  | .and => a &&& b
  | .addw => sx32 (lo32 a + lo32 b)
  | .subw => sx32 (lo32 a - lo32 b)
  | .sllw => sx32 (lo32 a <<< sh32)
  | .srlw => sx32 (lo32 a >>> sh32)
  | .sraw => sx32 ((lo32 a).sshiftRight sh32)
  | .addUw => (lo32 a).zeroExtend 64 + b
  | .sh1add => (a <<< 1) + b
  | .sh2add => (a <<< 2) + b
  | .sh3add => (a <<< 3) + b
  | .sh1addUw => ((lo32 a).zeroExtend 64 <<< 1) + b
  | .sh2addUw => ((lo32 a).zeroExtend 64 <<< 2) + b
  | .sh3addUw => ((lo32 a).zeroExtend 64 <<< 3) + b
  | .slliUw => (lo32 a).zeroExtend 64 <<< sh
  | .andn => a &&& ~~~b
  | .orn => a ||| ~~~b
  | .xnor => ~~~(a ^^^ b)
  | .clz => BitVec.ofNat 64 (clzN a.toNat 64)
  | .clzw => BitVec.ofNat 64 (clzN (lo32 a).toNat 32)
  | .ctz => BitVec.ofNat 64 (ctzN a.toNat 64)
  | .ctzw => BitVec.ofNat 64 (ctzN (lo32 a).toNat 32)
  | .cpop => BitVec.ofNat 64 (cpopN a.toNat 64)
  | .cpopw => BitVec.ofNat 64 (cpopN (lo32 a).toNat 32)
  | .max => if a.slt b then b else a
  | .maxu => if a.ult b then b else a
  | .min => if a.slt b then a else b
  | .minu => if a.ult b then a else b
  | .sextB => (a.truncate 8).signExtend 64
  | .sextH => (a.truncate 16).signExtend 64
  | .zextH => (a.truncate 16).zeroExtend 64
  | .rol => a.rotateLeft sh
  | .rolw => sx32 ((lo32 a).rotateLeft sh32)
  | .ror => a.rotateRight sh
  | .rorw => sx32 ((lo32 a).rotateRight sh32)
  | .orcB => BitVec.ofNat 64 (mapBytes (fun x => if x = 0 then 0 else 255) a.toNat 8)
  | .rev8 => BitVec.ofNat 64 (revBytes a.toNat 8)
  | .bclr => a &&& ~~~(1#64 <<< sh)
  | .bext => (a >>> sh) &&& 1
  | .binv => a ^^^ (1#64 <<< sh)
  | .bset => a ||| (1#64 <<< sh)

/-- The M extension: division by zero gives all ones and the dividend as remainder, the signed overflow gives the
dividend and 0. -/
def mulDiv (op : MulOp) (a b : Word) : Word :=
  match op with
  | .mul => a * b
  | .mulh => BitVec.ofInt 64 (a.toInt * b.toInt / 2 ^ 64)
  | .mulhsu => BitVec.ofInt 64 (a.toInt * (b.toNat : Int) / 2 ^ 64)
  | .mulhu => BitVec.ofNat 64 (a.toNat * b.toNat / 2 ^ 64)
  | .mulw => sx32 (lo32 a * lo32 b)
  | .div => if b = 0 then -1 else a.sdiv b
  | .divu => if b = 0 then -1 else a.udiv b
  | .rem => if b = 0 then a else a.srem b
  | .remu => if b = 0 then a else a.umod b
  | .divw => sx32 (if lo32 b = 0 then -1 else (lo32 a).sdiv (lo32 b))
  | .divuw => sx32 (if lo32 b = 0 then -1 else (lo32 a).udiv (lo32 b))
  | .remw => sx32 (if lo32 b = 0 then lo32 a else (lo32 a).srem (lo32 b))
  | .remuw => sx32 (if lo32 b = 0 then lo32 a else (lo32 a).umod (lo32 b))

/-- A branch is taken. -/
def taken (op : BrOp) (a b : Word) : Bool :=
  match op with
  | .eq => a == b
  | .ne => a != b
  | .lt => a.slt b
  | .ge => !(a.slt b)
  | .ltu => a.ult b
  | .geu => !(a.ult b)

/-- An AMO's new memory value from the old one and the register (both as the width's words). -/
def amoVal (op : AmoOp) (size : Nat) (old v : Word) : Word :=
  let w := fun (x : Word) => if size = 4 then sx32 (lo32 x) else x
  let u := fun (x : Word) => if size = 4 then (lo32 x).zeroExtend 64 else x
  match op with
  | .swap => v
  | .add => old + v
  | .xor => old ^^^ v
  | .and => old &&& v
  | .or => old ||| v
  | .min => if (w old).slt (w v) then old else v
  | .max => if (w v).slt (w old) then old else v
  | .minu => if (u old).ult (u v) then old else v
  | .maxu => if (u v).ult (u old) then old else v

/-- The class of each floating-point operation for its timing: 0 simple, 1 fused, 2 divide or square root. -/
def fpClass (op : FpOp) : Nat :=
  match op with
  | .madd | .msub | .nmsub | .nmadd => 1
  | .div | .sqrt => 2
  | _ => 0

/-- The result of a floating-point operation goes to an integer register. -/
def fpToInt (op : FpOp) : Bool :=
  match op with
  | .feq | .flt | .fle | .fclass | .cvtToInt _ | .mvToInt => true
  | _ => false

/-- The first operand is an integer register. -/
def fpFromInt (op : FpOp) : Bool :=
  match op with
  | .cvtFromInt _ | .mvFromInt => true
  | _ => false

/-- The bits a floating-point operation leaves, and the flags it accrues (assumption log 2). -/
def fpVal (op : FpOp) (dbl : Bool) (rm : Nat) (a b c : Word) : Word := (fpExec op dbl rm a b c).1
def fpFlags (op : FpOp) (dbl : Bool) (rm : Nat) (a b c : Word) : Nat := (fpExec op dbl rm a b c).2

/-- A cycle count that R94 gives as a range "by operand": within the range, otherwise open (assumption log 3). -/
def openCycles (k lo hi : Nat) (a b : Word) : Nat := lo + Config.cycles k a b % (hi - lo + 1)

/-- Cycles of a computational instruction: DetClk cycles by R106 in deterministic mode, CoreClk cycles by R94 in normal
mode. `tk` says whether a branch is taken. -/
def insnCycles (active tk : Bool) (a b : Word) (i : Insn) : Nat :=
  match i with
  | .lui _ _ | .auipc _ _ | .opImm _ _ _ _ | .op _ _ _ _ | .hint => 1
  | .jal _ _ => if active then 3 else 1
  | .jalr _ _ _ => if active then 4 else 1
  | .branch _ _ _ _ => if active then (if tk then 4 else 1) else 1
  | .mul op _ _ _ =>
    match op with
    | .mul | .mulh | .mulhsu | .mulhu | .mulw => 3
    | .div | .divu | .rem | .remu => if active then 66 else openCycles 64 6 66 a b
    | .divw | .divuw | .remw | .remuw => if active then 34 else openCycles 32 6 34 a b
  | .fp op dbl _ _ _ _ _ =>
    match fpClass op with
    | 0 => 4
    | 1 => 5
    | _ => if active then (if dbl then 30 else 16) else if dbl then openCycles 30 8 30 a b else openCycles 16 8 16 a b
  | .raw _ => 1

end Sys2Proof.Machine
end

