-- ==== Sys2Proof/Machine/Port.lean ====
section
/-! DEFINITION. The register port of a block: the fields at an offset, guards, views, byte enables, reserved encodings,
clear-on-read, the shadow, and the block header (R36-R60). What a write of a particular register does beyond its fields
stands in Machine/RegAccess.lean. -/
namespace Sys2Proof.Machine
open Sys2Proof

/-- A register exists in this instance of its block type (R11). -/
def locOk (b : Blk) (f : Field) : Bool :=
  match f.loc with
  | .any => true
  | .die0 => b.die = 0
  | .base => 1 ≤ b.die && b.die ≤ 4
  | .comp => 8 ≤ b.die && b.die ≤ 19
  | .inst n => instOf b = n
  | .ports => 1 ≤ instOf b && instOf b ≤ 8

/-- The element of a register array that an offset reaches. HUB.APL_SRC starts at element 1; the route entry of a
mesh's own number reads 0 and ignores writes, as do a DOM_CTRL entry that names no domain, CHAIN of an even counter and the
cluster registers of YLK instances other than 0. -/
def elemAt (b : Blk) (f : Field) (off : Nat) : Option Nat :=
  let n := if f.stride = 0 then 0 else (off - f.off) / f.stride
  if off < f.off || n ≥ f.cnt || f.off + f.stride * n ≠ off then none
  else if f.typ = 1 && f.off = 0x180 && n = 0 then none
  else if f.typ = 11 && f.off = 0x080 && n + 1 = b.die then none
  else if f.typ = 5 && f.off = 0x060 && !isDomain b.die n then none
  else if f.typ = 7 && f.off = 0x060 && f.lo = 12 && n % 2 = 0 then none
  else if f.typ = 24 && 0x300 ≤ f.off && instOf b ≠ 0 then none
  else some n

/-- The fields of a block instance. The DDR5 controllers share the layout of the HBM3E controllers but for FIX_CNT,
ODECC_CNT and RESYNC, which read 0 there. -/
def blockFields (b : Blk) : List Field :=
  if typeOf b = 16 then fieldsOfMCH.filter (fun f => f.off ≠ 0x048 && f.off ≠ 0x04c && f.off ≠ 0x060)
  else (fieldsOfType (typeOf b)).filter (locOk b)

/-- The fields at a register offset, with the element of each. -/
def regFields (b : Blk) (off : Nat) : List (Field × Nat) :=
  (blockFields b).filterMap (fun f => (elemAt b f off).map (fun n => (f, n)))

/-- The offset an access reaches (R50): only SPAN_EXP bits are decoded. -/
def decodeOff (b : Blk) (off : Nat) : Nat := off % 2 ^ spanExp (typeOf b)

/-- The block that the selectors of a banked register name is absent: its route entry and its counters read 0 and ignore
writes (R51, R100, R418). -/
def selAbsent (s : State) (f : Field) : Bool :=
  (f.typ = 1 && f.off = 0x104 && !present s ⟨rdF s hub HUB.ROUTE_SEL.DIE, rdF s hub HUB.ROUTE_SEL.SLOT⟩)
    || (f.typ = 7 && ((0x060 ≤ f.off && f.off < 0x0c0) || (0x140 ≤ f.off && f.off < 0x180)) && !present s (ctrSel s))

/-- The announce record that ANN_SEL names. -/
def annSel (s : State) : Option Ann := mfind s.fld.anns (rdF s (fld 0) FLD.ANN_SEL.REC)
def sessSel (s : State) : Sess := sessOf s (rdF s (fld 0) FLD.SESS_SEL.SESSION)

/-- A field of the field die whose value is computed. -/
def liveFld (s : State) (f : Field) : Option Nat :=
  match f.off, f.lo with
  | 0x060, 28 => some (sessSel s).st
  | 0x060, 20 => some (sessSel s).gen
  | 0x060, _ => some (sessSel s).miss
  | 0x06c, _ => some (((annSel s).map (fun a => a.node)).getD 0 % 2 ^ 32)
  | 0x070, _ => some (((annSel s).map (fun a => a.node)).getD 0 / 2 ^ 32)
  | 0x074, 31 => some (b2n (annSel s).isSome)
  | 0x074, 28 => some (((annSel s).map (fun a => a.port)).getD 0)
  | 0x074, 24 => some (((annSel s).map (fun a => a.inL)).getD 0)
  | 0x074, 20 => some (((annSel s).map (fun a => a.outL)).getD 0)
  | 0x074, _ => some (((annSel s).map (fun a => a.req)).getD 0)
  | 0x07c, 31 => some s.wd.fdRun
  | 0x07c, 30 => some (b2n (bankOfF s (1 - s.wd.fdRun)).ok)
  | 0x07c, _ => some (b2n s.fld.switching.isSome)
  | _, _ => none

/-- A field whose value the hardware computes rather than holds. -/
def liveField (s : State) (b : Blk) (f : Field) (n : Nat) : Option Nat :=
  if selAbsent s f then some 0
  else if f.typ = 21 then (if instOf b = 0 then liveFld s f else none)
  else match f.typ, f.off, f.lo with
  | 4, 0x040, _ => some ((dieTime s b.die).toNat % 2 ^ 32)
  | 4, 0x044, _ => some ((dieTime s b.die).toNat / 2 ^ 32)
  | 4, 0x04c, 31 => if b.die = 0 then some 1 else none
  | 1, 0x204, lo =>
    let d := mget {} s.dies (rdF s hub HUB.DIE_SEL.DIE)
    some (if lo = 30 then d.st else if lo = 24 then d.reason else d.rev)
  | 1, 0x208, _ => let d := rdF s hub HUB.DIE_SEL.DIE; some (if d = 28 then 0 else (mget {} s.dies d).cap % 2 ^ 32)
  | 1, 0x20c, _ => let d := rdF s hub HUB.DIE_SEL.DIE; some (if d = 28 then 0 else (mget {} s.dies d).cap / 2 ^ 32)
  | 1, 0x220, 16 => some (if rdF s hub HUB.MEM_CFG.DDR_EN = 1 then s.ddrExp % 32 else 0)
  | 2, 0x040, 31 => some s.wd.run
  | 2, 0x040, 30 => some (b2n (bankOfW s (1 - s.wd.run)).ok)
  | 2, 0x040, 29 => some (b2n s.wd.pause)
  | 2, 0x040, _ => some ((bankOfW s s.wd.run).ver % 2 ^ 16)
  | 2, 0x044, 31 => some s.wd.copy
  | 2, 0x044, _ => some (b2n (cfgValid (cfgCopy s (1 - s.wd.copy))))
  | 3, 0x040, _ => some (s.wd.seq % 2 ^ 32)
  | 3, 0x050, 0 => some s.wd.seals.length
  | 10, 0x048, _ => some (effGuar s (rdF s bwr BWR.G_SEL.MASTER) (rdF s bwr BWR.G_SEL.RES))
  | 12, o, _ => if 0x140 ≤ o && !capEff s 37 then some 0 else none
  | 13, 0x080, _ => some (l3Occ s b.die n)
  | 17, 0x060, _ => if capEff s 24 then none else some 0xFFFF
  | 18, 0x068, _ => some (tsWord s (rdF s scn SCN.TS_ADDR.OFFSET * 8) % 2 ^ 32)
  | 18, 0x06c, _ => some s.scan.tsHi
  | 19, 0x040, 20 => some s.spl.dq.length
  | 19, 0x044, _ => some (descOf s (rdF s spl SPL.DESC_ADDR.INDEX))
  | 19, 0x04c, _ => if rdF s spl SPL.LIM_SEL.PROF = 0 then some 0 else none
  | 19, 0x110, 23 => some (b2n (mfind s.spl.dma (rdF s spl SPL.VIEW_SEL.VIEW)).isSome)
  | 24, 0x30c, 25 => some (b2n (pairState s ≠ 0 && s.cl.lastPair + 64000 ≤ s.gtime))
  | _, _, _ => none

/-- The value a field reads: computed, or its active value, or through a non-base view its shadow (R46). -/
def fieldVal (s : State) (b : Blk) (f : Field) (n : Nat) (v : View) : Nat :=
  match liveField s b f n with
  | some x => x
  | none => if v ≠ .base && f.cm then shF s b f n (bankOf s b f) else rdF s b f n (bankOf s b f)

/-- A field is guarded against this master as SC (R52): its own SC code, or SC by what the register holds: every field
of a route or APLIC entry with SEC = 1, and every field of a view that is secure in its active settings or in the shadow (R276, R320). -/
def scDenied (s : State) (b : Blk) (f : Field) (n : Nat) (w : Who) : Bool :=
  !w.sec && (f.sc
    || (f.typ = 1 && f.off = 0x104 && entSec (rdF s b f 0 (bankOf s b f)))
    || (f.typ = 1 && f.off = 0x180 && entSec (rdF s b f n))
    || (f.typ = 19 && 0x104 ≤ f.off && f.off ≤ 0x140
        && (vw s SPL.VIEW_CFG.SECURE (rdF s spl SPL.VIEW_SEL.VIEW) = 1 || vwSh s SPL.VIEW_CFG.SECURE (rdF s spl SPL.VIEW_SEL.VIEW) = 1)))

/-- A field is guarded against this master as MO (R52); the Warden SRAM scrubber takes writes of the Warden only
(R222). -/
def moDenied (b : Blk) (f : Field) (w : Who) (wr : Bool) : Bool :=
  (f.mo && !w.mach) || (wr && b = scb 0 9 && w.num ≠ 87)

/-- A field reads 0 and drops writes for this master. -/
def denied (s : State) (b : Blk) (f : Field) (n : Nat) (w : Who) (wr : Bool) : Bool :=
  scDenied s b f n w || moDenied b f w wr

/-- A route or APLIC entry: its bit 30, SEC, is SC whatever the entry holds (R320). -/
def hasSec (f : Field) : Bool := f.typ = 1 && (f.off = 0x104 || f.off = 0x180)

/-- What an access to a register runs into (R52): KIND 1 for a field refused as SC, KIND 0 for one refused as MO. `m` is
the mask of the bits it touches. -/
def refusals (s : State) (b : Blk) (off : Nat) (w : Who) (m : Nat) (wr : Bool) : List Nat :=
  if off < 0x40 then
    if off = 0x008 && m &&& 0xF ≠ 0 then (if !w.sec && bit m 3 then [1] else []) ++ (if !w.mach && m &&& 3 ≠ 0 then [0] else []) else []
  else (regFields b off).flatMap (fun f =>
    if bits m f.1.hi f.1.lo = 0 then []
    else (if scDenied s b f.1 f.2 w || (!w.sec && hasSec f.1 && bit m 30) then [1] else []) ++ (if moDenied b f.1 w wr then [0] else []))

/-- An access that touches at least one guarded field is counted once, with KIND 1 whenever an SC field refused it. -/
def countRefused (s : State) (w : Who) (addr : Nat) (wr : Bool) (ks : List Nat) : State :=
  if ks.contains 1 then guardCount s w 1 addr wr else if ks.contains 0 then guardCount s w 0 addr wr else s

/-- The word a register reads (R12, R13, R46): reserved bits and WO fields 0, guarded fields 0. -/
def regWord (s : State) (b : Blk) (off : Nat) (w : Who) (v : View) : Nat :=
  (regFields b off).foldl (fun a f =>
    if f.1.acc = .wo || denied s b f.1 f.2 w false then a else a + fieldVal s b f.1 f.2 v * 2 ^ f.1.lo) 0

/-- The RC fields of a register are cleared by a base-view read (R55). -/
def clearRc (s : State) (b : Blk) (off : Nat) (w : Who) : State :=
  (regFields b off).foldl (fun (s : State) (f : Field × Nat) =>
    if f.1.acc = .rc && !denied s b f.1 f.2 w false then wrF s b f.1 0 f.2 (bankOf s b f.1) else s) s

/-- The word BLK_STAT reads (R42); bit 8 of the Scan Engine's is CHK_BUSY (R261). -/
def blkStat (s : State) (b : Blk) : Nat :=
  let h := hdrOf s b
  b2n (!h.resetting) + 2 * b2n (cmtPend s b) + 4 * b2n h.degraded + 8 * b2n h.badWrite + 16 * b2n h.staleAck
    + (if b = scn then 256 * b2n (!s.chkBusy.isEmpty) else 0)

/-- The word BLK_CTRL reads; SECURE_HOLD reads 0 to the normal world and ENABLE to a lesser master. -/
def blkCtrl (s : State) (b : Blk) (w : Who) : Nat :=
  let h := hdrOf s b
  (if w.mach then b2n h.enable else 0) + 4 * b2n h.cntFreeze + (if w.sec then 8 * b2n h.secHold else 0)

/-- BLK_CAP (R42, R193): FEAT shows features of the effective capability vector only. The spec does not place them within FEAT, so
what it shows of a vector is open (assumption log 8). -/
def blkCap (s : State) (b : Blk) : Nat :=
  let cap := rdF s hub HUB.CAP_EFF_LO.CAP + rdF s hub HUB.CAP_EFF_HI.CAP * 2 ^ 32
  2 ^ 31 + (if cap = 0 then 0 else Config.feat (typeOf b) cap % 2 ^ 23) * 256 + spanExp (typeOf b)

/-- The word COMMIT reads; a block without CM fields reads 0 (R42). -/
def commitWord (s : State) (b : Blk) : Nat :=
  let h := hdrOf s b
  if hasCm (typeOf b) then b2n h.arm + 2 * b2n h.applied + 4 * b2n h.refused + 16 * h.reason + 256 * h.cseq.toNat else 0

/-- The header words (R42). -/
def hdrWord (s : State) (b : Blk) (off : Nat) (w : Who) : Nat :=
  let h := hdrOf s b
  match off with
  | 0x000 => typeOf b * 2 ^ 16 + instOf b * 2 ^ 8 + (mget {} s.dies b.die).rev
  | 0x004 => blkCap s b
  | 0x008 => blkCtrl s b w
  | 0x00c => blkStat s b
  | 0x010 => h.seq.toNat * 2 ^ 24 + h.pend.toNat
  | 0x018 => h.mask.toNat
  | 0x01c => commitWord s b
  | _ => 0

/-- A 32-bit read of one register: its word, with the read's side effects through the base view (R46, R53, R55). A read of
an SPL descriptor, a task-store word, a HIST_SEQ and a counter does what its chapter says besides; `wide` marks the lower
half of a 64-bit read (R420). -/
def portRead (s : State) (b : Blk) (off : Nat) (w : Who) (v : View) (wide : Bool) : Nat × State :=
  if off < 0x40 then
    let r := hdrWord s b off w
    let h := hdrOf s b
    if v = .base && off = 0x010 then (r, setHdr s b { h with seen := true })
    else if v = .base && off = 0x00c then (r, setHdr s b { h with badWrite := false, staleAck := false })
    else (r, s)
  else if typeOf b = 7 && 0x080 ≤ off && off < 0x0c0 then
    let i := (off - 0x080) / 8
    let s := ctrDrift s (ctrSel s) i
    let r := regWord s b off w v
    if v = .base then
      let s := if wide && off % 8 = 0 && chained s (ctrSel s) (i + 1) then holdCopy (ctrDrift s (ctrSel s) (i + 1)) i else s
      (r, clearRc s b off w)
    else (r, s)
  else
    let r := regWord s b off w v
    if v ≠ .base then (r, s)
    else if b = spl && off = 0x044 then (r, (descRead s).2)
    else if b = scn && off = 0x068 && w.mach then tsReadLo s
    else if b = scn && off = 0x06c && w.mach then tsReadHi s
    else if b = scn && off = 0x804 then histSeqRead s
    else (r, clearRc s b off w)

/-- The value of a field after a write of `x` to its bits through a view (R45). -/
def viewVal (old x width : Nat) (v : View) : Nat :=
  match v with
  | .base => x % 2 ^ width
  | .set => (old ||| x) % 2 ^ width
  | .clear => old &&& (2 ^ width - 1 - x % 2 ^ width)
  | .toggle => (old ^^^ x) % 2 ^ width

/-- The bits of a field that a write may change, where the Meaning column reserves some of them. -/
def writable (f : Field) : Nat :=
  match f.typ, f.off with
  | 9, 0x040 | 9, 0x048 | 8, 0x040 | 24, 0x200 | 24, 0x208 => 0xFFFFFFC0
  | 9, 0x044 | 9, 0x04c | 8, 0x044 | 24, 0x204 => 0xFFFF
  | 24, 0x20c => 0xFF
  | 22, 0x048 | 23, 0x04c => 0xFFFFF000
  | 18, 0x040 | 7, 0x100 => 0xFFFFFFE0
  | _, _ => 2 ^ (f.hi + 1 - f.lo) - 1

/-- A field leaves a write without effect and without BAD_WRITE: what its row says is ignored. -/
def ignoredVal (s : State) (b : Blk) (f : Field) (x : Nat) : Bool :=
  selAbsent s f
    || (f.typ = 17 && f.off = 0x060 && (x = 0 || !capEff s 24))
    || (f.typ = 17 && f.off = 0x040 && rdF s b HCL.L2_OP.BUSY = 1)
    || (f.typ = 19 && f.off = 0x04c && rdF s spl SPL.LIM_SEL.PROF = 0)
    || (f.typ = 7 && f.off = 0x404 && f.lo = 0 && x = 0)
    || (f.typ = 23 && f.off = 0x040 && f.lo = 0 && rdF s b RCX.LINK_CFG.HOLD = 0)

/-- Reserved encodings of one field, judged when it is written (R44). -/
def reservedVal (s : State) (b : Blk) (f : Field) (n x : Nat) : Bool :=
  match f.typ, f.off, f.lo with
  | 4, 0x050, 0 => x = 3 || (x = 2 && !capEff s 26)
  | 5, 0x060, 0 => x = 3
  | 7, 0x060, 0 => !eventListed (typeOf (ctrSel s)) x
  | 8, 0x054, 16 => 5 ≤ x
  | 11, 0x044, 0 => 21 ≤ x
  | 17, 0x040, 0 => x ≠ 1 && x ≠ 2
  | 18, 0x80c, 0 => 24 < x
  | 21, 0x040, 0 => 1 ≤ instOf b && instOf b ≤ 8 && x = 3
  | 22, 0x044, _ => x ≠ 0 && (x < 20 || 40 < x)
  | 23, 0x040, 0 => 5 ≤ x
  | 1, 0x244, 6 => x < 12 || 47 < x
  | 1, 0x104, 0 => entReserved s x || (entEn x && (entSm x ≠ 0 || bits x 26 24 ≠ 0 || bit x 11))
  | 1, 0x180, 0 => entReserved s x || (entSm x = 1 || entSm x = 2 || entSm x = 3) || (28 ≤ n && entSm x ≠ 0)
  | 1, 0x250, 0 => entReserved s x || (entEn x && !entSec x)
  | 25, 0x300, 0 => entReserved s x || entSec x
  | _, _, _ => false

/-- The shadow takes a write (R57): an entry that equals the active value is no difference and is dropped. The entry
remembers whether a normal-world write changed it, and whose (R320, R322). -/
def wrShadow (s : State) (b : Blk) (f : Field) (n bank x : Nat) (w : Who) : State :=
  let k := fkey b f n bank
  if x = rdF s b f n bank then { s with shadow := mdel s.shadow k }
  else
    let who := match mfind s.shadow k with
      | some e => if w.sec && e.normal then e.who else w
      | none => w
    { s with shadow := mput s.shadow k ⟨x, !w.sec, who⟩ }

/-- A write reaches a field: it is not refused, and through a view at least one of its bits is written as 1 (R45). -/
def reaches (s : State) (b : Blk) (f : Field) (n : Nat) (w : Who) (v : View) (x : Nat) : Bool :=
  !denied s b f n w true && (v = .base || bits x f.hi f.lo ≠ 0)

/-- The value a write gives a field. -/
def newVal (s : State) (b : Blk) (f : Field) (n : Nat) (v : View) (x : Nat) : Nat :=
  let bank := bankOf s b f
  let old := if f.cm then shF s b f n bank else rdF s b f n bank
  let x := viewVal old (x / 2 ^ f.lo) (f.hi + 1 - f.lo) v
  (x &&& writable f) ||| (old &&& (2 ^ (f.hi + 1 - f.lo) - 1 - writable f))

/-- One field of a register takes a write: RW only, guarded fields keep their value, a reserved encoding leaves the
field and sets BAD_WRITE (R44), a CM field takes it in the shadow (R57). -/
def wrField (s : State) (b : Blk) (f : Field) (n : Nat) (w : Who) (v : View) (x : Nat) : State :=
  if f.acc ≠ .rw || !reaches s b f n w v x then s
  else
    let x := newVal s b f n v x
    let bank := bankOf s b f
    if ignoredVal s b f x then s
    else if reservedVal s b f n x then badWrite s b
    else if f.cm then wrShadow s b f n bank x w
    else wrF s b f x n bank

/-- The bytes that a field covers. -/
def fieldBytes (f : Field) : List Nat := (List.range 4).filter (fun i => f.lo < 8 * i + 8 && 8 * i ≤ f.hi)

/-- All bytes of a field are enabled, or only some of them. -/
def covered (be : Nat) (f : Field) : Bool := (fieldBytes f).all (fun i => bit be i)
def split (be : Nat) (f : Field) : Bool := (fieldBytes f).any (fun i => bit be i) && !covered be f

/-- A write of a register's fields with byte enables (R37): a field all of whose bytes are enabled is written, one
partly covered keeps its value and sets BAD_WRITE. The lowest field goes first: RCX.LINK_CFG.MODE is judged by HOLD as it stood
before the write (R346). -/
def wrFields (s : State) (b : Blk) (off : Nat) (w : Who) (v : View) (x be : Nat) : State :=
  (regFields b off).reverse.foldl (fun (s : State) (f : Field × Nat) =>
    if covered be f.1 then wrField s b f.1 f.2 w v x
    else if split be f.1 && (f.1.acc = .rw || (f.1.acc = .wo && v = .base)) && !denied s b f.1 f.2 w true then badWrite s b
    else s) s

/-- A write of BLK_CTRL's RW bits (R42): ENABLE by a machine-level master and not by the normal world while the block
is secure-held; CNT_FREEZE by anyone; SECURE_HOLD by the secure world, after which the normal requests deferred for the
harts of a cluster are refused (R324). -/
def wrCtrl (s : State) (b : Blk) (w : Who) (v : View) (x : Nat) : State :=
  let h := hdrOf s b
  let nb := fun (old : Bool) (n : Nat) => decide (viewVal (b2n old) (x / 2 ^ n % 2) 1 v = 1)
  let s' := setHdr s b { h with
    enable := if w.mach && !(h.secHold && !w.sec) then nb h.enable 0 else h.enable,
    cntFreeze := nb h.cntFreeze 2,
    secHold := if w.sec then nb h.secHold 3 else h.secHold }
  if typeOf b = 17 && secHeld s' b && !h.secHold then denyDeferred s' b else s'

/-- A register bit that shows what lies outside the block's registers (a link, a mode, a domain, a strap) and so is not
reset with them (R42; assumption log 17): the RO fields of these types. -/
def keepsRo (b : Blk) (k : Nat) : Bool :=
  ([1, 2, 3, 4, 5, 14, 15, 16, 20, 22, 23, 24] : List Nat).contains (typeOf b) &&
    (regFields b (k / 32 % 4096)).any (fun f => f.1.lo = k % 32 && f.1.acc = .ro)

/-- What the block holds beside its registers and that its reset ends: engines in progress, the settings the registers were
the only record of. -/
def innerReset (s : State) (b : Blk) : State :=
  match typeOf b with
  | 1 => dbgChanged { s with sregs := [], sregPrev := [] }
  | 8 => { s with fill := none }
  | 9 => { s with scrubs := mdel s.scrubs (bkey b) }
  | 10 => { s with bw := { s.bw with sum := [] } }
  | 12 => { s with probes := mdel s.probes b.die }
  | 18 => { s with chkBusy := [], scan := { s.scan with cls := [], runs := [], push := [], pull := [], owes := [], late := [], used := [], short := false, hist := [] } }
  | 19 => { s with spl := { s.spl with dq := [], dma := [], used := 0, tlb := [], inv := none } }
  | 23 => wrF { s with io := { s.io with inv := mdel s.io.inv (instOf b) } } b RCX.LINK_CFG.MODE (cfgByte (cfgCopy s s.wd.copy) (0x90 + instOf b))
  | 24 => ylkCfg s (instOf b)
  | _ => s

/-- A block reset (R42): every block-specific register and the shadow return to reset values, and READY reads 0 until
SOFT_RESET_DONE. EVT_STAT, EVT_MASK, COMMIT and BLK_CTRL keep theirs. A lesser master's write and, while the block is
secure-held, a normal one are ignored. -/
def softReset (s : State) (b : Blk) (w : Who) : State :=
  let h := hdrOf s b
  if !w.mach || (h.secHold && !w.sec) then s
  else
    let wins := typeOf b = 22 && (List.range 32).any (winEn s)
    let s := { s with fields := s.fields.filter (fun e => !((keyInBlock b e.1 || ctrOf e.1 = some b) && !keepsRo b e.1)),
                      shadow := mdrop s.shadow (keyInBlock b) }
    let s := innerReset (setHdr s b { h with resetting := true }) b
    if wins then romRebuild s else s

/-- EVT_ACK (R53). -/
def evtAck (s : State) (b : Blk) (sq : BitVec 8) : State :=
  let h := hdrOf s b
  let age := (h.seq - sq).toNat
  if age ≥ 128 then staleAck s b
  else
    let keep := (List.range 24).foldl (fun (a : BitVec 24) n =>
      if h.pend.getLsbD n && decide ((h.seq - mget 0 h.capt n).toNat < age) then a ||| (1#24 <<< n) else a) 0
    let h' := { h with pend := keep }
    outChange (setHdr s b h') b (evtOut h) (evtOut h') true

/-- EVT_MASK (R42, R100): a message after the write whenever the output is then asserted. -/
def evtMask (s : State) (b : Blk) (m : BitVec 24) : State :=
  let h := hdrOf s b
  let h' := { h with mask := m }
  outChange (setHdr s b h') b (evtOut h) (evtOut h') true

/-- COMMIT.DISCARD (R42, R57): the shadow takes the active settings. -/
def discard (s : State) (b : Blk) : State := { s with shadow := mdrop s.shadow (keyInBlock b) }

/-- COMMIT.ARM (R58): the shadow waits for the next commit point. -/
def setArm (s : State) (b : Blk) (v : Bool) : State :=
  if hasCm (typeOf b) then setHdr s b { hdrOf s b with arm := v } else s

/-- A write of a header word; BLK_CTRL, EVT_ACK and COMMIT stand in their lowest byte. -/
def wrHeader (s : State) (b : Blk) (off : Nat) (w : Who) (v : View) (x be : Nat) : State :=
  match off with
  | 0x008 =>
    if !bit be 0 then s
    else
      let s := wrCtrl s b w v x
      if v = .base && bit x 1 then softReset s b w else s
  | 0x014 => if v = .base && bit be 0 then evtAck s b (BitVec.ofNat 8 x) else s
  | 0x018 =>
    if be % 8 = 0 then s
    else if be % 8 ≠ 7 then badWrite s b
    else evtMask s b (BitVec.ofNat 24 (viewVal (hdrOf s b).mask.toNat x 24 v))
  | 0x01c =>
    if !hasCm (typeOf b) || !bit be 0 then s
    else
      let s := if v = .base && bit x 3 then discard s b else s
      setArm s b (decide (viewVal (b2n (hdrOf s b).arm) (x % 2) 1 v = 1))
  | _ => s

end Sys2Proof.Machine
end

