-- ==== Sys2Proof/Machine/RegAccess.lean ====
section
/-! DEFINITION. Accesses to the I/O ranges (R33-R41, R48-R52): what a register write does beyond its fields, the register
space, the alias window, the field die behind the barrier, and where the other windows lead. -/
namespace Sys2Proof.Machine
open Sys2Proof

/-- A software interrupt (R100): one message through HUB.IPI to a normal-world file, or through HUB.IPI_SEC to the secure
file; a target that would be reserved in an enabled entry sets BAD_WRITE. -/
def hubIpi (s : State) (sec : Bool) (m : Nat) : State :=
  let e := m % 2 ^ 24 + 2 ^ 31 + (if sec then 2 ^ 30 else 0)
  if entReserved s e then badWrite s hub
  else sendMsg s ⟨0x500000 + b2n sec, entHart e, if sec then 0 else 1 + entFile e, entIdent e⟩

/-- A whole-L2 operation starts (R147). -/
def l2Start (s : State) (b : Blk) (op : Nat) : State :=
  if op = 1 || op = 2 then wrF (wrF s b HCL.L2_OP.OP op) b HCL.L2_OP.BUSY 1 else badWrite s b

/-- The tasks whose enable in the shadow a write changed: the checks of each are prepared (R261). -/
def chkChanged (s0 s : State) (k : Nat) : State :=
  let ts := ((List.range 32).map (fun j => 32 * k + j)).filter (fun t => taskOnSh s0 t ≠ taskOnSh s t)
  { s with chkBusy := s.chkBusy ++ ts }

/-- A write changed an RW field of the register. -/
def changedAt (s0 s : State) (b : Blk) (off : Nat) : Bool :=
  (regFields b off).any (fun f => f.1.acc = .rw && rdF s0 b f.1 f.2 ≠ rdF s b f.1 f.2)

/-- What a write of a register does beyond its fields, by block and offset; `s0` is the state before the write. -/
def afterWrite (s0 s : State) (b : Blk) (off : Nat) (w : Who) (v : View) (x be : Nat) : State :=
  let hit := fun (f : Field) => covered be f && reaches s0 b f 0 w v x
  let go := fun (f : Field) => v = .base && hit f && bits x f.hi f.lo ≠ 0
  let i := instOf b
  match typeOf b with
  | 1 =>
    if off = 0x108 then (if v = .base && hit HUB.IPI.MSG then hubIpi s false x else s)
    else if off = 0x10c then (if v = .base && hit HUB.IPI_SEC.MSG then hubIpi s true x else s)
    else if 0x184 ≤ off && off < 0x200 then
      (let k := (off - 0x180) / 4
       if covered be HUB.APL_SRC.ENTRY && reaches s0 b HUB.APL_SRC.ENTRY k w v x
          && !reservedVal s0 b HUB.APL_SRC.ENTRY k (newVal s0 b HUB.APL_SRC.ENTRY k v x) then aplWritten s k else s)
    else if off = 0x248 then (if hit HUB.SREG_HI.BASE then sregTake s else s)
    else if off = 0x274 then (if hit HUB.DBG_CTRL.SID then dbgChanged s else s)
    else s
  | 2 =>
    let c := off / 0x400 - 1
    if off % 0x400 = 0 && 0x400 ≤ off && v = .base && hit (match c with
        | 0 => WDN.CH_CMD0.CODE
        | 1 => WDN.CH_CMD1.CODE
        | _ => WDN.CH_CMD2.CODE) then takeUnlisted (cmdWrite s c (if bit be 3 then x else x % 2 ^ 24) w) else s
  | 3 =>
    if off = 0x044 then (if hit LBX.RD_SEQ.SEQ then lbxLoad s false (rdF s lbx LBX.RD_SEQ.SEQ) else s)
    else if off = 0x048 then (if hit LBX.RD_SLOT.SLOT then lbxLoad s true (rdF s lbx LBX.RD_SLOT.SLOT) else s)
    else s
  | 5 =>
    let n := (off - 0x060) / 4
    if 0x060 ≤ off && off < 0x078 && hit PWR.DOM_CTRL.REQ && isDomain b.die n && newVal s0 b PWR.DOM_CTRL.REQ n v x ≠ 3 then
      domRequest s w b.die n (newVal s0 b PWR.DOM_CTRL.REQ n v x) else s
  | 7 =>
    if off = 0x108 then (if hit CTR.SNAP_CTL.ARM then snapArm s else s)
    else if 0x400 ≤ off && off < 0x500 && changedAt s0 s b off then monWritten s ((off - 0x400) / 16)
    else s
  | 8 =>
    if off = 0x054 then
      let s := if go FIL.CTRL.GO then filGo s w else s
      if go FIL.CTRL.ABORT then filAbort s else s
    else s
  | 9 =>
    if off = 0x050 then
      let s := if go SCB.CTRL.GO then scbGo s b else s
      if go SCB.CTRL.ABORT then scbAbort s b else s
    else s
  | 10 =>
    if off = 0x500 && (hit BWR.MON_SEL.MASTER || hit BWR.MON_SEL.RES) then monSel s (rdF s b BWR.MON_SEL.MASTER) (rdF s b BWR.MON_SEL.RES) else s
  | 12 => if off = 0x148 && go DIR.PROBE_CTRL.GO && capEff s 37 then dirProbeGo s w b.die else s
  | 14 => if off = 0x048 && go HNG.RECAL.GO && !(b.die = 0 && i = 4) then recalStart s b.die i (rdF s b HNG.RECAL.MOD) else s
  | 18 =>
    if off = 0x80c then (if hit SCN.HIST_CFG.SHIFT && newVal s0 b SCN.HIST_CFG.SHIFT 0 v x ≤ 24 then histClear s else s)
    else if off = 0x808 then (if v = .base && hit SCN.HIST_ACK.SEQ then histAck s (x % 256) else s)
    else if 0x400 ≤ off && off < 0x600 then chkChanged s0 s ((off - 0x400) / 4)
    else s
  | 19 => if off = 0x054 && v = .base && hit SPL.CTX_INV.VMID then splCtxInv s (bit be 3 && bit x 30) (x % 2 ^ 14) else s
  | 22 =>
    if off = 0x050 then (if v = .base && hit SEP.HOST_IRQ.VECTOR then hostIrq s (if bit be 3 then x else x % 2 ^ 24) else s)
    else if 0x100 ≤ off && off < 0x300 && changedAt s0 s b off then winWritten s ((off - 0x100) / 16) (winEn s0 ((off - 0x100) / 16))
    else s
  | 23 =>
    if off = 0x040 then (if hit RCX.LINK_CFG.HOLD then rcxHold s i else s)
    else if off = 0x054 && v = .base && hit RCX.CTX_INV.VMID then rcxCtxInv s i (bit be 3 && bit x 30) (x % 2 ^ 14)
    else s
  | 24 =>
    if off = 0x040 then (if hit YLK.PORT_CFG.EN then ylkCfg s i else s)
    else if 0x100 ≤ off && off < 0x180 && changedAt s0 s b off then yWinWritten s i ((off - 0x100) / 16) (yEn s0 i ((off - 0x100) / 16))
    else if off = 0x214 then
      let s := if go YLK.COPY_CTRL.GO then copyGo s i else s
      if go YLK.COPY_CTRL.ABORT then portGen s i else s
    else s
  | _ => s

/-- A write of one register: its fields, then what else it does. DESC_DATA, TS_DATA, L2_OP, VIEW_CTRL and LOG_CONS take
their writes whole, not as fields. -/
def portWrite (s : State) (b : Blk) (off : Nat) (w : Who) (v : View) (x be : Nat) : State :=
  if off < 0x40 then wrHeader s b off w v x be
  else
    let whole := fun (f : Field) (k : Nat → State) =>
      if split be f && !denied s b f 0 w true then badWrite s b
      else if covered be f && reaches s b f 0 w v x then
        k (viewVal ((liveField s b f 0).getD (rdF s b f 0 (bankOf s b f))) (x / 2 ^ f.lo) (f.hi + 1 - f.lo) v)
      else s
    if b = spl && off = 0x044 then whole SPL.DESC_DATA.DESC (descWrite s)
    else if b = scn && off = 0x068 then whole SCN.TS_DATA_LO.DATA (fun y => { s with scan := { s.scan with tsLo := y } })
    else if b = scn && off = 0x06c then whole SCN.TS_DATA_HI.DATA (tsStore s)
    else if typeOf b = 17 && off = 0x040 then whole HCL.L2_OP.OP (fun y => if rdF s b HCL.L2_OP.BUSY = 1 then s else l2Start s b y)
    else if b = spl && off = 0x140 then whole SPL.LOG_CONS.COUNT (logCons s (rdF s spl SPL.VIEW_SEL.VIEW))
    else if b = spl && off = 0x110 then
      let vv := rdF s spl SPL.VIEW_SEL.VIEW
      let s0 := s
      let s := whole SPL.VIEW_CTRL.LOG_OVF (fun y => if y = 0 then wrF s spl SPL.VIEW_CTRL.LOG_OVF 0 0 (1 + vv) else s)
      let s := if v = .base && bit be 0 && bit x 1 && !denied s0 b SPL.VIEW_CTRL.RESUME 0 w true then wrF s spl SPL.VIEW_CTRL.DMA_SUSP 0 0 (1 + vv) else s
      if v = .base && bit be 0 && bit x 0 && !denied s0 b SPL.VIEW_CTRL.RESET 0 w true then viewReset s vv else s
    else afterWrite s (wrFields s b off w v x be) b off w v x be

/-- The block answers in the present mode (R383): all of them from Boot to Hold; in Lockdown the Warden's blocks and the
Service Endpoint (R382). The field die answers over the barrier only (R41, R293). -/
def answers (s : State) (b : Blk) : Bool :=
  present s b && b.die ≠ 24 && match modeOf s with
    | 3 | 4 | 5 | 6 => true
    | 7 => b.die = 0 && (typeOf b = 2 || typeOf b = 3 || typeOf b = 22)
    | _ => false

/-- The bits of a register that a read of `size` bytes at an offset, or a write with byte enables, touches. -/
def laneMask (be : Nat) : Nat := (List.range 4).foldl (fun a i => if bit be i then a + 0xFF * 2 ^ (8 * i) else a) 0

/-- A read at the port of a block (R37, R50, R52). -/
def regReadGo (s : State) (w : Who) (b : Blk) (v : View) (off size addr : Nat) : Nat × State :=
  let o := decodeOff b off
  let full := 2 ^ 32 - 1
  if size = 8 then
    let s := countRefused s w addr false (refusals s b o w full false ++ refusals s b (o + 4) w full false)
    let (lo, s) := portRead s b o w v true
    let (hi, s) := portRead s b (o + 4) w v false
    (lo + hi * 2 ^ 32, s)
  else
    let o4 := o / 4 * 4
    let s := countRefused s w addr false (refusals s b o4 w full false)
    let (r, s) := portRead s b o4 w v false
    (r / 2 ^ (8 * (o % 4)) % 2 ^ (8 * size), s)

/-- A read of a register; of an absent slot it reads 0 and is counted (R51). -/
def regReadAt (s : State) (w : Who) (b : Blk) (v : View) (off size addr : Nat) : Nat × State :=
  if answers s b then regReadGo s w b v off size addr else (0, guardCount s w 4 addr false)

/-- A write at the port of a block; `be` has one bit for each of the `size` bytes. -/
def regWriteGo (s : State) (w : Who) (b : Blk) (v : View) (off size x be addr : Nat) : State :=
  let o := decodeOff b off
  if size = 8 then
    let s := countRefused s w addr true (refusals s b o w (laneMask be) true ++ refusals s b (o + 4) w (laneMask (be / 16)) true)
    let s := portWrite s b o w v (x % 2 ^ 32) (be % 16)
    portWrite s b (o + 4) w v (x / 2 ^ 32 % 2 ^ 32) (be / 16)
  else
    let o4 := o / 4 * 4
    let sh := o % 4
    let be := be * 2 ^ sh % 16
    let s := countRefused s w addr true (refusals s b o4 w (laneMask be) true)
    portWrite s b o4 w v (x * 2 ^ (8 * sh) % 2 ^ 32) be

/-- A write of a register; to an absent slot it is dropped and counted (R51). -/
def regWriteAt (s : State) (w : Who) (b : Blk) (v : View) (off size x be addr : Nat) : State :=
  if answers s b then regWriteGo s w b v off size x be addr else guardCount s w 4 addr true

/-- The block, view and offset of a register address (R36). -/
def regBlk (a : Nat) : Blk := ⟨bits a 35 30, bits a 29 14⟩
def regView (a : Nat) : View :=
  match bits a 13 12 with
  | 0 => .base
  | 1 => .set
  | 2 => .clear
  | _ => .toggle
def viewNum (v : View) : Nat :=
  match v with
  | .base => 0
  | .set => 1
  | .clear => 2
  | .toggle => 3

/-- The block, register and bit of an alias word (R48). -/
def aliasBlk (a : Nat) : Blk := ⟨(a - 0x0F10_0000_0000) / 0x2000_0000, (a - 0x0F10_0000_0000) % 0x2000_0000 / 0x2000⟩
def aliasReg (a : Nat) : Nat := a % 0x2000 / 0x80 * 4
def aliasBit (a : Nat) : Nat := a % 0x80 / 4

/-- One alias word (R49): the bit of the register, or of the shadow for a CM field, with the guards of its field and no
side effect. -/
def aliasBitRead (s : State) (w : Who) (b : Blk) (off n : Nat) : Nat := (portRead s b (decodeOff b off) w .set false).1 / 2 ^ n % 2
def aliasBitWrite (s : State) (w : Who) (b : Blk) (off n v : Nat) : State :=
  portWrite s b (decodeOff b off) w (if v % 2 = 1 then .set else .clear) (2 ^ n) 15

def aliasRead (s : State) (w : Who) (a size : Nat) : Nat × State :=
  let b := aliasBlk a
  let off := aliasReg a
  let n := aliasBit a
  if !answers s b then (0, guardCount s w 4 a false)
  else
    let m := if size = 8 then 3 * 2 ^ n else 2 ^ n
    let s := countRefused s w a false (refusals s b (decodeOff b off) w m false)
    let r := aliasBitRead s w b off n + (if size = 8 then aliasBitRead s w b off (n + 1) * 2 ^ 32 else 0)
    (r / 2 ^ (8 * (a % 4)) % 2 ^ (8 * size), s)

/-- A write of alias words; an I/O master's stores bit 0 when its byte enables include the word's lowest byte. -/
def aliasWrite (s : State) (w : Who) (a size x be : Nat) : State :=
  let b := aliasBlk a
  let off := aliasReg a
  let n := aliasBit a
  if !answers s b then guardCount s w 4 a true
  else
    let be := be * 2 ^ (a % 4)
    let x := x * 2 ^ (8 * (a % 4))
    let two := size = 8 && bit be 4
    let m := (if bit be 0 then 2 ^ n else 0) + (if two then 2 ^ (n + 1) else 0)
    let s := countRefused s w a true (refusals s b (decodeOff b off) w m true)
    let s := if bit be 0 then aliasBitWrite s w b off n x else s
    if two then aliasBitWrite s w b off (n + 1) (x / 2 ^ 32) else s

/-- The payload of a register frame (R290): instance, view, offset, width, then data and byte enables. -/
def regPay (b : Blk) (v : View) (off width x be : Nat) : Nat :=
  b.slot % 256 + viewNum v * 2 ^ 8 + off % 2 ^ 12 * 2 ^ 16 + width * 2 ^ 32 + x % 2 ^ 64 * 2 ^ 64 + be % 256 * 2 ^ 128

/-- A die ID 24 access goes over the barrier while it is up and the slot holds one of its blocks (R41, R293). -/
def viaBarrier (s : State) (b : Blk) : Bool := b.die = 24 && present s b && barUp s

/-- A read of the field die (R293): REG_RD under the lowest free tag, with the generation the hub holds for it above the bits
of the frame's TAG; the answer comes with REG_RSP. -/
def fldRead (s : State) (w : Who) (b : Blk) (v : View) (off size : Nat) (pick : Option Nat) (back : List Nat) : IoAns × State :=
  let t := ((List.range 1024).find? (fun t => (mfind s.bar.regs t).isNone)).getD 0
  let width := if size = 8 && pick.isNone then 8 else 4
  let s := { s with bar := { s.bar with regs := mput s.bar.regs t ⟨w.hart, size + 16 * (off % 4), back, pick, s.gtime⟩ } }
  (.wait (fldTag t), barSend s true 0x301 (t + 2048 * mget 0 s.ioGen (fldTag t)) (regPay b v (off / 4 * 4) width 0 0) w)

def fldWrite (s : State) (w : Who) (b : Blk) (v : View) (off size x be : Nat) : State :=
  let o := if size = 8 then off else off / 4 * 4
  let sh := if size = 8 then 0 else off % 4
  barSend s true 0x302 0 (regPay b v o (if size = 8 then 8 else 4) (x * 2 ^ (8 * sh)) (be * 2 ^ sh)) w

/-- A hart may use words and doublewords; another master a part of one aligned word or an aligned doubleword (R37). -/
def regWidthOk (w : Who) (a size : Nat) : Bool :=
  if w.hart ≠ 0xFF then 4 ≤ size && a % size = 0 else (size = 8 && a % 8 = 0) || (a / 4 = (a + size - 1) / 4 && size ≤ 4)

/-- A target request to the open site (R199): kind 5 reads, kind 6 writes. -/
def siteOff (a : Nat) : Nat := a - 0x0F40_0000_0000

/-- A read of an I/O range by any master. `back` is what an answer that comes later is returned with to a master that is
no hart. -/
def busRead (s : State) (w : Who) (a size : Nat) (back : List Nat) : IoAns × State :=
  match zoneOf s a with
  | .regs =>
    if !regWidthOk w a size then (.err, guardCount s w 2 a false)
    else if viaBarrier s (regBlk a) then fldRead s w (regBlk a) (regView a) (bits a 11 0) size none back
    else let (v, s) := regReadAt s w (regBlk a) (regView a) (bits a 11 0) size a; (.val v, s)
  | .aliasWin =>
    if !regWidthOk w a size then (.err, guardCount s w 2 a false)
    else if viaBarrier s (aliasBlk a) then fldRead s w (aliasBlk a) .set (aliasReg a + a % 4) size (some (aliasBit a)) back
    else let (v, s) := aliasRead s w a size; (.val v, s)
  | .view =>
    let a0 := a / 2 * 2
    let (v, bad, s) := viewRead s w a0 ((a + size + 1) / 2 * 2 - a0)
    (if bad then .err else .val (v / 2 ^ (8 * (a % 2)) % 2 ^ (8 * size)), s)
  | .rootWin => if 0x0EC0_0000_0000 ≤ a then hostRead s w a size else rootRead s w a size
  | .site =>
    let (tag, s) := ioStart s w a size 5 0 0 false
    let g := tagGen s tag
    let s := match mfind s.iot tag with
      | some t => { s with iot := mput s.iot tag { t with gen := g } }
      | none => s
    let s := { s with io := { s.io with site := mput s.io.site tag (mget [] s.io.site tag ++ [g]) } }
    (.wait tag, send s .site 5 [tag, siteOff a, size])
  | .hbm | .ddr => let ((v, bad), s) := ioReadMem s w a size; (if bad then .err else .val v, s)
  | .unmapped => (.err, unmapped s w a false)

/-- A write to an I/O range by any master; false is an error response. -/
def busWrite (s : State) (w : Who) (a size x be : Nat) : Bool × State :=
  match zoneOf s a with
  | .regs =>
    if !regWidthOk w a size then (false, guardCount s w 2 a true)
    else if viaBarrier s (regBlk a) then (true, fldWrite s w (regBlk a) (regView a) (bits a 11 0) size x be)
    else (true, regWriteAt s w (regBlk a) (regView a) (bits a 11 0) size x be a)
  | .aliasWin =>
    if !regWidthOk w a size then (false, guardCount s w 2 a true)
    else if viaBarrier s (aliasBlk a) then
      let one := fun (s : State) (n x : Nat) => fldWrite s w (aliasBlk a) (if x % 2 = 1 then .set else .clear) (aliasReg a) 4 (2 ^ n) 15
      let be := be * 2 ^ (a % 4)
      let x := x * 2 ^ (8 * (a % 4))
      let s := if bit be 0 then one s (aliasBit a) x else s
      (true, if size = 8 && bit be 4 then one s (aliasBit a + 1) (x / 2 ^ 32) else s)
    else (true, aliasWrite s w a size x be)
  | .view => (true, viewWrite s w (a / 8 * 8) 8 (x * 2 ^ (8 * (a % 8))) (be * 2 ^ (a % 8)))
  | .rootWin => (true, if 0x0EC0_0000_0000 ≤ a then hostWrite s a size x else rootWrite s a size x)
  | .site => (true, send s .site 6 [siteOff a, size, x, be])
  | .hbm | .ddr => (true, ioWriteMem s w a size x)
  | .unmapped => (false, unmapped s w a true)

/-- A hart's read and write of an I/O range. -/
def ioRead (s : State) (w : Who) (pa size : Nat) : IoAns × State := busRead s w pa size []
def ioWrite (s : State) (w : Who) (pa size v : Nat) : Bool × State := busWrite s w pa size v (2 ^ size - 1)

end Sys2Proof.Machine
end

