-- ==== Sys2Proof/Machine/HartMem.lean ====
section
/-! DEFINITION. From a virtual address to a checked physical one: the effective privilege of an access, physical memory
protection, block mode, the TLBs and the page-table walker (chapter "Address Translation"). An operation that may end
its command early (a trap, a walk to wait for) answers `.error` with the state the command then ends in. -/
namespace Sys2Proof.Machine
open Sys2Proof

/-- A hart event is counted by every counter that selects it (R424): not while `mcountinhibit` or the mode filter of
Sscofpmf inhibits it, not in M-mode with SNID off (R326), and events 0x01-0x0B not in deterministic mode. A counter that
wraps with OF = 0 waits in `ovf` for its overflow (R425). -/
def hpm (s : State) (x : Hart) (ev : Nat) : Hart :=
  if (x.active && decide (ev ≤ 0x0B)) || (x.priv = .m && !dbgOn s 1) then x
  else (List.range 29).foldl (fun (x : Hart) i =>
    let e := csr x (0x323 + i)
    let filt := match x.priv, x.virt with
      | .m, _ => 62
      | .s, false => 61
      | .u, false => 60
      | .s, true => 59
      | .u, true => 58
    if wb e 15 0 = ev && !wbit (csr x 0x320) (i + 3) && !wbit e filt then
      let c := csr x (0xB03 + i) + 1
      let x := setCsr x (0xB03 + i) c
      if c = 0 && !wbit e 63 then { x with ovf := sIns x.ovf (i + 3) } else x
    else x) x

/-- `hpm` on a hart of the state. -/
def hpmH (s : State) (h ev : Nat) : State := setHart s h (hpm s (hartOf s h) ev)

/-- The access-fault, page-fault, guest-page-fault and walk-fault causes of an access (R97, R126). -/
def accCause (k : AK) : Nat :=
  match k with
  | .fetch => 1
  | .load => 5
  | .store => 7
def pageCause (k : AK) : Nat :=
  match k with
  | .fetch => 12
  | .load => 13
  | .store => 15
def guestCause (k : AK) : Nat :=
  match k with
  | .fetch => 20
  | .load => 21
  | .store => 23
def walkCause (k : AK) : Nat :=
  match k with
  | .fetch => 24
  | .load => 25
  | .store => 26

/-- The translation context of an access: privilege (0 U, 1 S, 3 M), V, and whether it is an HLVX. -/
structure Eff where
  priv : Nat
  virt : Bool
  hlvx : Bool
deriving DecidableEq, Repr

/-- The privilege an access is made with: `mstatus.MPRV` substitutes MPP and MPV for loads and stores, the hypervisor
load and store instructions use `hstatus.SPVP` with V = 1 (privileged architecture; R112). -/
def effOf (x : Hart) (k : AK) (hyp hlvx : Bool) : Eff :=
  if hyp then ⟨if wbit (csr x 0x600) 8 then 1 else 0, true, hlvx⟩
  else if k ≠ .fetch && wbit (csr x 0x300) 17 && x.priv = .m then
    let mpp := wb (csr x 0x300) 12 11
    ⟨mpp, mpp ≠ 3 && wbit (csr x 0x300) 39, false⟩
  else ⟨privCode x.priv, x.virt, false⟩

/-- The 8-bit configuration of PMP entry `i`. -/
def pmpCfg (x : Hart) (i : Nat) : Nat := wb (csr x (0x3A0 + 2 * (i / 8))) (8 * (i % 8) + 7) (8 * (i % 8))
/-- The address register of PMP entry `i` as it takes part in matching: granularity 4 KiB (G = 10, R80). -/
def pmpAddr (x : Hart) (i : Nat) : Nat := wb (csr x (0x3B0 + i)) 53 0

/-- PMP entry `i` matches a physical address: TOR or NAPOT; NA4 is not selectable. -/
def pmpMatch (x : Hart) (i pa : Nat) : Bool :=
  match bits (pmpCfg x i) 4 3 with
  | 1 =>
    let lo := if i = 0 then 0 else pmpAddr x (i - 1) / 1024 * 4096
    decide (lo ≤ pa) && decide (pa < pmpAddr x i / 1024 * 4096)
  | 3 =>
    let a := pmpAddr x i
    -- bits [8:0] read as ones; the run of ones above them gives the size
    let t := 9 + ((List.range 45).find? (fun j => !bit a (9 + j))).getD 45
    decide (pa / 2 ^ (t + 3) = a / 2 ^ (t + 1))
  | _ => false

/-- PMP admits the access: the lowest-numbered matching entry decides, M-mode is bound only by a locked one, and without
a match only M-mode passes. -/
def pmpOk (x : Hart) (priv pa : Nat) (k : AK) : Bool :=
  match (List.range 16).find? (fun i => pmpMatch x i pa) with
  | none => priv = 3
  | some i =>
    let c := pmpCfg x i
    if priv = 3 && !bit c 7 then true
    else match k with
      | .fetch => bit c 2
      | .load => bit c 0
      | .store => bit c 1

/-- Low byte of a PTE: V R W X U G A D. The leaf's permissions for an access at privilege `priv` with SUM and MXR; A and
D are checked (R118). -/
def permOk (perm priv : Nat) (sum mxr : Bool) (k : AK) (hlvx : Bool) : Bool :=
  let r := bit perm 1
  let w := bit perm 2
  let x := bit perm 3
  let u := bit perm 4
  (match k with
    | .fetch => x
    | .load => if hlvx then x else r || (mxr && x)
    | .store => w)
  && (if priv = 0 then u else !u || (sum && k ≠ .fetch))
  && bit perm 6 && (k ≠ .store || bit perm 7)

/-- SUM and MXR of the first stage: `mstatus`'s, or for a guest `vsstatus`'s, MXR of `mstatus` reaching both. -/
def sumOf (x : Hart) (virt : Bool) : Bool := wbit (csr x (if virt then 0x200 else 0x300)) 18
def mxrOf (x : Hart) (virt : Bool) : Bool := wbit (csr x 0x300) 19 || (virt && wbit (csr x 0x200) 19)

/-- Bits [63:b] of an address all equal bit b. -/
def canonical (va : Word) (b : Nat) : Bool := wb va 63 b = 0 || wb va 63 b = 2 ^ (64 - b) - 1

/-- The block that translates an address in block mode (R114). -/
def blockOf (x : Hart) (va : Word) : Option Nat :=
  (List.range 16).find? (fun n =>
    let b := gov x (0x5C0 + n)
    let e := wb b 5 0
    wbit (gov x (0x5E0 + n)) 0 && canonical b 47 && decide (va.toNat / 2 ^ e = (b.toNat / 4096 * 4096) / 2 ^ e))

/-- Permissions of a block (R115): checked as for a leaf PTE, with no A or D bit. -/
def blockPerm (x : Hart) (n : Nat) : Nat := (gov x (0x5E0 + n)).toNat % 32 + 0xC0

/-- Block mode (R114, R115): the physical address, or none for a page fault. -/
def blockTranslate (x : Hart) (va : Word) (e : Eff) (k : AK) : Option Nat :=
  if !canonical va 47 then none
  else match blockOf x va with
    | none => none
    | some n =>
      if permOk (blockPerm x n) e.priv (sumOf x false) (mxrOf x false) k false then
        let sz := wb (gov x (0x5C0 + n)) 5 0
        let pb := wb (gov x (0x5D0 + n)) 47 12 * 4096
        some (pb / 2 ^ sz * 2 ^ sz + va.toNat % 2 ^ sz)
      else none

/-- The tags of the entries an access may use (R122). -/
def tlbMatch (x : Hart) (e : Eff) (va : Nat) (t : Tlb) : Bool :=
  let asid := wb (csr x (if e.virt then 0x280 else 0x180)) 59 44
  decide (t.va / 2 ^ t.exp = va / 2 ^ t.exp) && t.virt == e.virt && t.sec == secureHart x
    && (bit t.perm 5 || decide (t.asid = asid)) && (!e.virt || decide (t.vmid = wb (csr x 0x680) 57 44))

/-- An entry is put into a TLB of `n` entries; a full one loses an entry that a free value names (pseudo-LRU and
not-recently-used replacement, R122, assumption log 7). -/
def tlbPut (s : State) (l : List Tlb) (n : Nat) (t : Tlb) : List Tlb × State :=
  if l.length < n then (l ++ [t], s)
  else let (v, s) := draw s; (l.eraseIdx (v % n) ++ [t], s)

/-- A translation goes into the L1 TLB of its kind. -/
def tlbPutL1 (s : State) (h : Nat) (k : AK) (t : Tlb) : State :=
  let x := hartOf s h
  if k = .fetch then let (l, s) := tlbPut s x.itlb 16 t; setHart s h { x with itlb := l }
  else let (l, s) := tlbPut s x.dtlb 32 t; setHart s h { x with dtlb := l }

/-- A walk's translation is filled into the L2 TLB and the L1 TLB of its kind (R122). The L2 TLB is 8-way with hashed
sets; which entry it replaces is left open, so its 2,048 entries are filled as one set. -/
def tlbFill (s : State) (h : Nat) (k : AK) (t : Tlb) : State :=
  let (l, s) := tlbPut s (hartOf s h).l2tlb 2048 t
  tlbPutL1 (setHart s h { hartOf s h with l2tlb := l }) h k t

/-- A walk fault (R126, R127): taken in M-mode, described in `mwalkinfo`. -/
def walkFault (s : State) (h : Nat) (w : Walk) (reason : Nat) : State :=
  let x := hartOf s h
  let o := csr x 0x7C7
  let lvl := if w.inG then w.gLevel else w.level
  let v := 2 ^ 63 + (if wbit o 63 then 2 ^ 62 else b2n (wbit o 62) * 2 ^ 62) + b2n w.inG * 2 ^ 61 + reason * 2 ^ 59 + lvl * 2 ^ 56
    + bits w.addr 47 3 * 8
  let s := setHart s h (setCsr x 0x7C7 (BitVec.ofNat 64 v))
  raise s h (walkCause w.ak) (BitVec.ofNat 64 w.va) (if w.inG then BitVec.ofNat 64 (w.gpa / 4) else 0)

/-- A page fault or guest-page fault found by a walk (R118, R121). -/
def walkPage (s : State) (h : Nat) (w : Walk) : State :=
  if w.inG then raise s h (guestCause w.ak) (BitVec.ofNat 64 w.va) (BitVec.ofNat 64 (w.gpa / 4))
  else raise s h (pageCause w.ak) (BitVec.ofNat 64 w.va)

/-- The walk's next read, checked before it is made (R125, R126): an I/O range and an unmapped address are refused as a
walk fault, PMP's refusal is an access fault; else the read is in flight until WALK_READ_RESPONSE. -/
def walkIssue (s : State) (h : Nat) (w : Walk) : State :=
  let x := hartOf s h
  let z := zoneOf s w.addr
  if isIo z then walkFault s h w 2
  else if !isMem z then walkFault (unmapped s (whoOf s (.hart h)) w.addr false) h w 0
  else if !pmpOk x 1 w.addr .load then raise s h (accCause w.ak) (BitVec.ofNat 64 w.va)
  else setHart s h (hpm s { x with walk := some w } 0x0B)

/-- The G-stage translation of `w.gpa` starts (R121); a guest physical address too wide is a guest-page fault. -/
def gStart (s : State) (h : Nat) (w : Walk) : State :=
  let r := csr (hartOf s h) 0x680
  let top := topOf (wb r 63 60)
  let w := { w with inG := true, gLevel := top, gTable := wb r 43 0 * 4096 }
  if w.gpa ≥ 2 ^ (12 + 9 * (top + 1) + 2) then walkPage s h w
  else walkIssue s h { w with addr := w.gTable + 8 * gvpn w.gpa top top }

/-- The read of a first-stage PTE, through the G-stage for a guest with `hgatp` on. -/
def vsRead (s : State) (h : Nat) (w : Walk) : State :=
  let a := w.table + 8 * vpn w.va w.level
  let w := { w with inG := false, addr := a }
  if w.gOn then gStart s h { w with gpa := a } else walkIssue s h w

/-- A walk starts (R125). A guest whose `vsatp` is Bare needs only the G-stage. -/
def walkStart (s : State) (h : Nat) (k : AK) (va : Word) (e : Eff) : State :=
  let x := hartOf s h
  let r := csr x (if e.virt then 0x280 else 0x180)
  let vsOn := wb r 63 60 ≠ 0
  let gOn := e.virt && wb (csr x 0x680) 63 60 ≠ 0
  let top := topOf (wb r 63 60)
  let w : Walk := { ak := k, va := va.toNat, priv := e.priv, hlvx := e.hlvx, virt := e.virt, vsOn := vsOn, gOn := gOn,
                    level := top, table := wb r 43 0 * 4096, inG := false, gpa := va.toNat, gLevel := 0, gTable := 0,
                    final := !vsOn, leaf := 0xDF, leafExp := 64, addr := 0 }
  let s := setHart s h (hpm s x 0x0A)
  if !vsOn then gStart s h w
  else if !canonical va (11 + 9 * (top + 1)) then walkPage s h w
  else vsRead s h w

/-- Translation of an access (R112-R115, R122, R128): the physical address, or the end of the command by a fault or by a
walk to wait for. -/
def translate (s : State) (h : Nat) (k : AK) (va : Word) (e : Eff) : Except State (Nat × State) :=
  let x := hartOf s h
  if e.priv = 3 then .ok (va.toNat, s)
  else if !e.virt && wb (csr x 0x180) 63 60 = 14 then
    match blockTranslate x va e k with
    | some pa => .ok (pa, s)
    | none => .error (raise s h (pageCause k) va)
  else if wb (csr x (if e.virt then 0x280 else 0x180)) 63 60 = 0 && (!e.virt || wb (csr x 0x680) 63 60 = 0) then .ok (va.toNat, s)
  else
    let use := fun (t : Tlb) (s : State) =>
      if !permOk t.perm e.priv (sumOf x e.virt) (mxrOf x e.virt) k e.hlvx then Except.error (raise s h (pageCause k) va)
      else if e.virt && !permOk t.gperm 0 false (wbit (csr x 0x300) 19) k e.hlvx then
        .error (raise s h (guestCause k) va (BitVec.ofNat 64 ((t.gpa + va.toNat % 2 ^ t.exp) / 4)))
      else .ok (t.pa + va.toNat % 2 ^ t.exp, s)
    match (if k = .fetch then x.itlb else x.dtlb).find? (tlbMatch x e va.toNat) with
    | some t => use t s
    | none =>
      let s := if k = .fetch then s else hpmH s h 0x09
      match x.l2tlb.find? (tlbMatch x e va.toNat) with
      | some t => use t (tlbPutL1 s h k t)
      | none => .error (walkStart s h k va e)

/-- The translation is complete: it is filled into the TLBs with the smaller size of its stages (R123), and the access
that waited goes on (`cur` is run again by the caller). -/
def walkFill (s : State) (h : Nat) (w : Walk) (gpaBase paBase exp gperm : Nat) : State :=
  let x := hartOf s h
  let t : Tlb := { va := w.va / 2 ^ exp * 2 ^ exp, pa := paBase, gpa := gpaBase, exp := exp, perm := w.leaf, gperm := gperm,
                   asid := wb (csr x (if w.virt then 0x280 else 0x180)) 59 44, vmid := wb (csr x 0x680) 57 44,
                   virt := w.virt, sec := secureHart x }
  tlbFill (setHart s h { x with walk := none }) h w.ak t

/-- A first-stage PTE has arrived: go down, fault, or take the leaf, whose permissions are checked (R128), on to the last
G-stage translation or the fill. The flag says that the access may go on. -/
def vsStep (s : State) (h : Nat) (w : Walk) (p : Nat) : State × Bool :=
  let x := hartOf s h
  match pteOf (capEff s 18) p w.level with
  | .bad => (walkPage s h w, false)
  | .table a => (vsRead s h { w with table := a, level := w.level - 1 }, false)
  | .leaf base exp =>
    if !permOk (p % 256) w.priv (sumOf x w.virt) (mxrOf x w.virt) w.ak w.hlvx then (walkPage s h w, false)
    else
      let w := { w with leaf := p % 256, leafExp := exp }
      if w.gOn then (gStart s h { w with gpa := base + w.va % 2 ^ exp, final := true }, false)
      else (walkFill s h w 0 base exp 0xFF, true)

/-- A G-stage PTE has arrived (R121): the accesses it serves are checked as user accesses, an implicit one as a read. -/
def gStep (s : State) (h : Nat) (w : Walk) (p : Nat) : State × Bool :=
  let x := hartOf s h
  match pteOf (capEff s 18) p w.gLevel with
  | .bad => (walkPage s h w, false)
  | .table a =>
    let l := w.gLevel - 1
    (walkIssue s h { w with gTable := a, gLevel := l, addr := a + 8 * gvpn w.gpa l (topOf (wb (csr x 0x680) 63 60)) }, false)
  | .leaf base exp =>
    let k := if w.final then w.ak else .load
    if !permOk (p % 256) 0 false (w.final && wbit (csr x 0x300) 19) k (w.final && w.hlvx) then (walkPage s h w, false)
    else
      let pa := base + w.gpa % 2 ^ exp
      if w.final then
        let e := min exp w.leafExp
        (walkFill s h w (w.gpa / 2 ^ e * 2 ^ e) (pa / 2 ^ e * 2 ^ e) e (p % 256), true)
      else (walkIssue s h { w with inG := false, addr := pa }, false)

/-- The local-store window as data accesses and fetches see it (R88): a new value governs data once the store buffer has
drained, and fetch after the next FENCE.I. -/
def winKeyD : Nat := 0x1007C3
def winKeyF : Nat := 0x2007C3
def winOf (x : Hart) (k : AK) : Word := (mfind x.old (if k = .fetch then winKeyF else winKeyD)).getD (csr x 0x7C3)

/-- The physical address lies in the hart's open window. -/
def inWin (x : Hart) (k : AK) (pa : Nat) : Bool :=
  let m := winOf x k
  wbit m 0 && decide (pa / 2 ^ 17 = wb m 47 17)

end Sys2Proof.Machine
end

