-- ==== Sys2Proof/Machine/HartCsr.lean ====
section
/-! DEFINITION. The CSRs of a hart: which exist and who may access them, what they read and what a write leaves in them
(R80-R91, R98, R112-R117, R127, R321, R424). -/
namespace Sys2Proof.Machine
open Sys2Proof

/-- The instruction bits of a CSR instruction, which an illegal-instruction exception reports (R82). -/
def encCsr (op : CsrOp) (n rd : Nat) (src : CsrSrc) : Word :=
  let f3 := match op with
    | .rw => 1
    | .rs => 2
    | .rc => 3
  let (i, r) := match src with
    | .reg r => (0, r)
    | .imm v => (4, v)
  BitVec.ofNat 64 (n % 4096 * 2 ^ 20 + r % 32 * 2 ^ 15 + (f3 + i) * 2 ^ 12 + rd % 32 * 2 ^ 7 + 0x73)

/-- The CSR number that an access reaches in VS or VU mode: supervisor CSRs become their VS counterparts. -/
def csrVirt (virt : Bool) (n : Nat) : Nat :=
  if virt && (n = 0x100 || n = 0x104 || n = 0x105 || (0x140 ≤ n && n ≤ 0x144) || n = 0x14D || n = 0x150 || n = 0x151
      || n = 0x15C || n = 0x180 || n = 0xDB0) then n + 0x100 else n

/-- The CSR numbers that R80 and this specification define. -/
def csrExists (n : Nat) : Bool :=
  [1, 2, 3, 0x100, 0x104, 0x105, 0x106, 0x10A, 0x140, 0x141, 0x142, 0x143, 0x144, 0x14D, 0x150, 0x151, 0x15C, 0x180,
   0xDA0, 0xDB0, 0x200, 0x204, 0x205, 0x240, 0x241, 0x242, 0x243, 0x244, 0x24D, 0x250, 0x251, 0x25C, 0x280, 0xEB0].contains n
  || [0x600, 0x602, 0x603, 0x604, 0x605, 0x606, 0x607, 0x608, 0x609, 0x60A, 0x643, 0x644, 0x645, 0x646, 0x647, 0x64A,
      0x680, 0xE12].contains n
  || [0xF11, 0xF12, 0xF13, 0xF14, 0xF15, 0x300, 0x301, 0x302, 0x303, 0x304, 0x305, 0x306, 0x308, 0x309, 0x30A, 0x320,
      0x340, 0x341, 0x342, 0x343, 0x344, 0x34A, 0x34B, 0x350, 0x351, 0x35C, 0xFB0, 0x3A0, 0x3A2].contains n
  || (0xC00 ≤ n && n ≤ 0xC1F) || (0x3B0 ≤ n && n ≤ 0x3BF) || (0xB00 ≤ n && n ≤ 0xB1F && n ≠ 0xB01)
  || (0x323 ≤ n && n ≤ 0x33F) || (0x7A0 ≤ n && n ≤ 0x7A4) || (0x7B0 ≤ n && n ≤ 0x7B3)
  || (0x7C0 ≤ n && n ≤ 0x7C8) || (0x7D0 ≤ n && n ≤ 0x7D7) || (0x5C0 ≤ n && n ≤ 0x5F0)

/-- Whether a hart may make an access: `none`, or the cause it raises, 2 or 22. -/
def csrFault (x : Hart) (n : Nat) (wr : Bool) : Option Nat :=
  let lvl := bits n 9 8
  let st := csr x 0x300
  let hst := csr x 0x600
  let m := decide (x.priv = .m)
  if !csrExists n || (wr && bits n 11 10 = 3) then some 2
  else if 0x7B0 ≤ n && n ≤ 0x7B3 then (if x.run = .halted then none else some 2)
  else if m then none
  else if lvl = 3 then some 2
  else if lvl = 2 then
    if x.virt then some 22 else if x.priv = .u then some 2
    else if n = 0x680 && wbit st 20 then some 2
    else if n = 0x24D && !(wbit (csr x 0x30A) 63 && wbit (csr x 0x306) 1) then some 2
    else none
  else if lvl = 1 then
    if x.priv = .u then (if x.virt && n ≠ 0x5F0 then some 22 else some 2)
    else if x.virt && 0x5C0 ≤ n && n ≤ 0x5F0 then some 22
    else if n = 0x180 && !x.virt && wbit st 20 then some 2
    else if n = 0x180 && x.virt && wbit hst 20 then some 22
    else if n = 0x14D && !(wbit (csr x 0x30A) 63 && wbit (csr x 0x306) 1) then some 2
    else if n = 0x14D && x.virt && !(wbit (csr x 0x60A) 63 && wbit (csr x 0x606) 1) then some 22
    else if x.virt && wbit (csr x 0x609) 30 && (n = 0x104 || n = 0x144) then some 22
    else none
  else if 0xC00 ≤ n && n ≤ 0xC1F then
    let b := n - 0xC00
    if !wbit (csr x 0x306) b then some 2
    else if x.virt then
      (if !wbit (csr x 0x606) b then some 22 else if x.priv = .u && !wbit (csr x 0x106) b then some 22 else none)
    else if x.priv = .u && !wbit (csr x 0x106) b then some 2
    else none
  else none

/-- Floating-point state is off: FS of `mstatus`, or for a guest of `vsstatus`, reads 0. -/
def fpOff (x : Hart) : Bool := wb (csr x 0x300) 14 13 = 0 || (x.virt && wb (csr x 0x200) 14 13 = 0)

/-- Floating-point state becomes dirty. -/
def fpDirty (x : Hart) : Hart :=
  let x := setCsr x 0x300 (wset (csr x 0x300) 14 13 3)
  if x.virt then setCsr x 0x200 (wset (csr x 0x200) 14 13 3) else x

/-- A status word with SD = 1 exactly while FS is dirty. -/
def withSd (w : Word) : Word := wset w 63 63 (b2n (wb w 14 13 = 3))

/-- The fields of `mstatus` that `sstatus` shows. -/
def sstatusMask : Word := 0x80000003000DE762

/-- The interrupt file that a `*iselect`/`*topei` CSR of a mode reaches: 0 M, 1 S, 2 the guest file of VGEIN. -/
def fileNo (x : Hart) (lvl : Nat) : Option Nat :=
  if lvl = 3 then some 0 else if lvl = 1 then some 1
  else let g := wb (csr x 0x600) 17 12; if 1 ≤ g && g ≤ 7 then some (g + 1) else none

/-- The 64 pending or enable bits of identities `64 k` to `64 k + 63`. -/
def idBits (l : List Nat) (k : Nat) : Word :=
  BitVec.ofNat 64 (l.foldl (fun a i => if i / 64 = k then a + 2 ^ (i % 64) else a) 0)
/-- Those bits replaced; identity 0 does not exist. -/
def idSet (l : List Nat) (k : Nat) (v : Word) : List Nat :=
  (List.range 64).foldl (fun l i => if k = 0 && i = 0 then l else if v.getLsbD i then sIns l (64 * k + i) else sDel l (64 * k + i)) l

/-- An indirectly accessed register (AIA): read, or none where the selected register does not exist. -/
def iregRead (x : Hart) (lvl sel : Nat) : Option Word :=
  if 0x30 ≤ sel && sel ≤ 0x3F then (if lvl ≠ 2 && sel % 2 = 0 then some 0 else none)
  else match fileNo x lvl with
    | none => none
    | some f =>
      let q := fileOf x f
      if sel = 0x70 then some (BitVec.ofNat 64 (b2n q.deliv))
      else if sel = 0x72 then some (BitVec.ofNat 64 q.thr)
      else if 0x80 ≤ sel && sel ≤ 0xBF && sel % 2 = 0 then some (idBits q.eip ((sel - 0x80) / 2))
      else if 0xC0 ≤ sel && sel ≤ 0xFF && sel % 2 = 0 then some (idBits q.eie ((sel - 0xC0) / 2))
      else if sel = 0x71 || (0x73 ≤ sel && sel ≤ 0x7F) then some 0
      else none

/-- An indirectly accessed register written. -/
def iregWrite (x : Hart) (lvl sel : Nat) (v : Word) : Hart :=
  match fileNo x lvl with
  | none => x
  | some f =>
    let q := fileOf x f
    if sel = 0x70 then setFile x f { q with deliv := wbit v 0 }
    else if sel = 0x72 then setFile x f { q with thr := wb v 10 0 }
    else if 0x80 ≤ sel && sel ≤ 0xBF && sel % 2 = 0 then setFile x f { q with eip := idSet q.eip ((sel - 0x80) / 2) v }
    else if 0xC0 ≤ sel && sel ≤ 0xFF && sel % 2 = 0 then setFile x f { q with eie := idSet q.eie ((sel - 0xC0) / 2) v }
    else x

/-- `*topei`: the identity in bits [26:16] and [10:0]. -/
def topei (x : Hart) (lvl : Nat) : Word :=
  match fileNo x lvl with
  | none => 0
  | some f => let i := fileTop (fileOf x f); BitVec.ofNat 64 (i * 65536 + i)

/-- A write of `*topei` claims the identity it shows. -/
def claimTop (x : Hart) (lvl : Nat) : Hart :=
  match fileNo x lvl with
  | none => x
  | some f => let q := fileOf x f; setFile x f { q with eip := sDel q.eip (fileTop q) }

/-- The level of a `*iselect`, `*ireg` or `*topei` CSR. -/
def aiaLvl (n : Nat) : Nat := n / 256 % 4

/-- `*topi`: the first pending and enabled interrupt of a mask in the default order, with priority 1 (AIA). -/
def topi (p : Nat) : Word :=
  match [11, 7, 9, 1, 5, 12, 10, 2, 6, 13].find? (fun c => bit p c) with
  | some c => BitVec.ofNat 64 (c * 65536 + 1)
  | none => 0

/-- The trigger CSRs `tdata1`-`tdata3` are banked by `tselect`. -/
def trigKey (x : Hart) (n : Nat) : Nat := 0x200000 + 4 * n + wb (csr x 0x7A0) 1 0

/-- What a CSR reads. -/
def csrRead (s : State) (h : Nat) (x : Hart) (n0 : Nat) : Word :=
  let n := csrVirt x.virt n0
  match n with
  | 1 => BitVec.ofNat 64 (wb (csr x 3) 4 0)
  | 2 => BitVec.ofNat 64 (wb (csr x 3) 7 5)
  | 0x100 => withSd (csr x 0x300) &&& sstatusMask
  | 0x200 => withSd (csr x 0x200)
  | 0x300 => withSd (csr x 0x300)
  | 0x104 => csr x 0x304 &&& BitVec.ofNat 64 (mideleg x &&& 0x2222)
  | 0x144 => BitVec.ofNat 64 (mipOf s x &&& mideleg x &&& 0x2222)
  | 0x344 => BitVec.ofNat 64 (mipOf s x)
  | 0x644 => BitVec.ofNat 64 (mipOf s x &&& 0x1444)
  | 0x604 => csr x 0x304 &&& 0x1444
  | 0x244 => BitVec.ofNat 64 ((mipOf s x &&& (csr x 0x603).toNat &&& 0x444) / 2)
  | 0x204 => BitVec.ofNat 64 (((csr x 0x304).toNat &&& (csr x 0x603).toNat &&& 0x444) / 2)
  | 0x303 => BitVec.ofNat 64 (mideleg x)
  | 0x301 => 0x80000000009411AD
  | 0x309 => csr x 0x344 &&& 0x222
  | 0x151 | 0x251 | 0x351 => (iregRead x (aiaLvl n) (csr x (n - 1)).toNat).getD 0
  | 0x15C | 0x25C | 0x35C => topei x (aiaLvl n)
  | 0xFB0 => topi (mipOf s x &&& (csr x 0x304).toNat &&& (0x3FFF - mideleg x % 0x4000))
  | 0xDB0 => topi (mipOf s x &&& (csr x 0x304).toNat &&& mideleg x &&& (0x3FFF - ((csr x 0x603).toNat &&& 0x444)))
  | 0xEB0 =>
    if wbit (csr x 0x609) 30 then BitVec.ofNat 64 (wb (csr x 0x609) 27 16 * 65536 + wb (csr x 0x609) 7 0)
    else
      let p := (mipOf s x &&& (csr x 0x304).toNat &&& (csr x 0x603).toNat &&& 0x444) / 2
      match [9, 1, 5].find? (fun c => bit p c) with
      | some c => BitVec.ofNat 64 (c * 65536 + 1)
      | none => 0
  | 0xE12 => BitVec.ofNat 64 (hgeip x)
  | 0xDA0 =>
    let en := (csr x 0x306).toNat &&& (if x.virt then (csr x 0x606).toNat else 0xFFFFFFFF)
    BitVec.ofNat 64 ((List.range 29).foldl (fun a i =>
      if wbit (csr x (0x323 + i)) 63 && (x.priv = .m || bit en (i + 3)) then a + 2 ^ (i + 3) else a) 0)
  | 0xF11 | 0xF15 => 0
  | 0xF12 => 0x8000000000005A24
  | 0xF13 => BitVec.ofNat 64 ((mget {} s.dies (coreDie x.core)).rev % 256)
  | 0xF14 => BitVec.ofNat 64 h
  | 0xC01 => timeOf s x + (if x.virt then csr x 0x605 else 0)
  | 0x7A1 | 0x7A2 | 0x7A3 => mget (if n = 0x7A1 then 0xF000000000000000 else 0) x.csr (trigKey x n)
  | 0x7A4 => 0x1008040
  | 0x7C1 => mdetstat x
  | 0x5F0 => csr x 0x7C2
  | 0x7C4 => if capEff s 23 then csr x n else wset (csr x n) 3 3 0
  | 0x7B0 => if dbgOn s 0 then csr x n else wset (csr x n) 15 15 0
  | n =>
    if 0xC00 ≤ n && n ≤ 0xC1F then csr x (n - 0x100)
    else if 0x7D4 ≤ n && n ≤ 0x7D7 then 0
    else if 0x3B0 ≤ n && n ≤ 0x3BF then
      let v := csr x n
      if bit (pmpCfg x (n - 0x3B0)) 4 then v ||| 0x1FF else v &&& ~~~0x3FF#64
    else csr x n

/-- A write of one byte of `pmpcfg`: locked entries, NA4 and the reserved combination W without R keep theirs. -/
def pmpCfgByte (old v : Nat) : Nat :=
  if bit old 7 || bits v 4 3 = 2 || (bit v 1 && !bit v 0) then old else v &&& 0x9F

/-- The bytes of a `pmpcfg` CSR written. -/
def pmpCfgWrite (old v : Nat) : Nat → Nat
  | 0 => 0
  | n + 1 => pmpCfgByte (old % 256) (v % 256) + 256 * pmpCfgWrite (old / 256) (v / 256) n

/-- A `satp`, `vsatp` or `hgatp` value whose MODE is supported (R112). -/
def atpOk (n mode : Nat) : Bool := mode = 0 || mode = 8 || mode = 9 || (n = 0x180 && mode = 14)

/-- CBIE of an environment-configuration CSR: the reserved value 0b10 keeps the old. -/
def envWrite (old v mask : Word) : Word :=
  let v := if wb v 5 4 = 2 then wset v 5 4 (wb old 5 4) else v
  wmask old v mask

/-- The window of a `mlsbase` value lies in the HBM3E or DDR5 range of R33. -/
def winOk (v : Word) : Bool :=
  let b := wb v 47 17 * 2 ^ 17
  decide (b + 0x20000 ≤ 0x30_0000_0000) || (decide (0x0100_0000_0000 ≤ b) && decide (b + 0x20000 ≤ 0x0500_0000_0000))

/-- A write of `mlsbase` (R88). -/
def mlsWrite (x : Hart) (v : Word) : Hart :=
  let v := v &&& 0x0000FFFFFFFE0001#64
  let o := csr x 0x7C3
  if !winOk v || ((x.active || x.pend) && (wb v 47 17 ≠ wb o 47 17 || (wbit o 0 && !wbit v 0))) then x
  else
    let keep := fun (m : Map Word) (k : Nat) => if (mfind m k).isSome then m else mput m k o
    let od := if sbEmpty x then mdel x.old winKeyD else keep x.old winKeyD
    setCsr { x with old := keep od winKeyF } 0x7C3 v

/-- A write of `mcachectl` (R89): the enables are held, the other fields settle; way masks of 0 keep the old. -/
def mcacheWrite (x : Hart) (v : Word) : Hart :=
  let o := csr x 0x7C4
  let v := v &&& 0xFFF0F#64
  let v := if wb v 19 16 = 0 then wset v 19 16 (wb o 19 16) else v
  let v := if wb v 15 8 = 0 then wset v 15 8 (wb o 15 8) else v
  let x := if wb v 1 0 = wb o 1 0 then x else { x with old := mput x.old heldCache (govCache x), pend := true }
  if wb v 19 2 = wb o 19 2 then setCsr x 0x7C4 v else settleWrite x 0x7C4 v

/-- A write of `mdetctl` (R89, R104): held; DET = 1 is not taken while the window is closed. -/
def mdetWrite (x : Hart) (v : Word) : Hart :=
  let o := csr x 0x7C0
  let v := v &&& 3
  let v := if wbit v 0 && !wbit (csr x 0x7C3) 0 then wset v 0 0 (wb o 0 0) else v
  heldWrite x 0x7C0 0x7C0 v

/-- `tdata1` takes type 6 (`mcontrol6`) with its implemented fields; any other type disables the trigger (type 15). -/
def tdata1Of (v : Word) : Word := if wb v 63 60 = 6 then v &&& 0xF800000001FFFFFF#64 else 0xF000000000000000

/-- What a write leaves in a CSR; a write that its field or mode does not take leaves the old value. -/
def csrWrite (s : State) (x : Hart) (n0 : Nat) (v : Word) : Hart :=
  let n := csrVirt x.virt n0
  let o := csr x n
  let put := fun (mask : Word) => setCsr x n (wmask o v mask)
  match n with
  | 1 => fpDirty (setCsr x 3 (wset (csr x 3) 4 0 v.toNat))
  | 2 => fpDirty (setCsr x 3 (wset (csr x 3) 7 5 v.toNat))
  | 3 => fpDirty (setCsr x 3 (v &&& 0xFF))
  | 0x100 => setCsr x 0x300 (wmask (csr x 0x300) v 0xC6122)
  | 0x200 => setCsr x 0x200 (wmask o v 0xC6122)
  | 0x300 =>
    let v := if wb v 12 11 = 2 then wset v 12 11 (wb o 12 11) else v
    setCsr x n (wmask o v 0xC0007E79AA)
  | 0x302 => put 0xF0B7FE
  | 0x602 => put 0xB1FE
  | 0x303 => put 0x2222
  | 0x603 => put 0x444
  | 0x304 => put 0x3EE6
  | 0x104 => setCsr x 0x304 (wmask (csr x 0x304) v (BitVec.ofNat 64 (mideleg x &&& 0x2222)))
  | 0x604 => setCsr x 0x304 (wmask (csr x 0x304) v 0x1444)
  | 0x204 => setCsr x 0x304 (wmask (csr x 0x304) (v <<< 1) (csr x 0x603 &&& 0x444))
  | 0x344 =>
    let x := setCsr x 0x344 (wmask (csr x 0x344) v (if wbit (csr x 0x30A) 63 then 0x2202 else 0x2222))
    setCsr x 0x645 (wmask (csr x 0x645) v 0x4)
  | 0x309 => setCsr x 0x344 (wmask (csr x 0x344) v 0x202)
  | 0x144 => setCsr x 0x344 (wmask (csr x 0x344) v (BitVec.ofNat 64 (mideleg x &&& 0x2002)))
  | 0x644 => setCsr x 0x645 (wmask (csr x 0x645) v 0x4)
  | 0x645 => put 0x444
  | 0x244 => setCsr x 0x645 (wmask (csr x 0x645) (v <<< 1) (csr x 0x603 &&& 0x4))
  | 0x305 | 0x105 | 0x205 => put (~~~2#64)
  | 0x341 | 0x141 | 0x241 | 0x7B1 => put (~~~1#64)
  | 0x306 | 0x106 | 0x606 => put 0xFFFFFFFF
  | 0x320 => put 0xFFFFFFFD
  | 0x30A => setCsr x n (envWrite o v 0x8000000000000071)
  | 0x60A => setCsr x n (envWrite o v (if wbit (csr x 0x30A) 63 then 0x8000000000000071 else 0x71))
  | 0x10A => setCsr x n (envWrite o v 0x71)
  | 0x600 =>
    let v := if 7 < wb v 17 12 then wset v 17 12 (wb o 17 12) else v
    setCsr x n (wmask o v 0x73F3C0)
  | 0x607 => put 0xFE
  | 0x609 => put 0x4FFF03FF
  | 0x180 | 0x280 => if atpOk n (wb v 63 60) then setCsr x n v else x
  | 0x680 => if atpOk n (wb v 63 60) then setCsr x n (v &&& 0xF3FFFFFFFFFFFFFC#64) else x
  | 0x3A0 | 0x3A2 => setCsr x n (BitVec.ofNat 64 (pmpCfgWrite o.toNat v.toNat 8))
  | 0x150 | 0x250 | 0x350 => put 0xFFF
  | 0x151 | 0x251 | 0x351 => iregWrite x (aiaLvl n) (csr x (n - 1)).toNat v
  | 0x15C | 0x25C | 0x35C => claimTop x (aiaLvl n)
  | 0x7A0 => if v.toNat < 4 then setCsr x n v else x
  | 0x7A1 => { x with csr := mput x.csr (trigKey x n) (tdata1Of v) }
  | 0x7A2 | 0x7A3 => { x with csr := mput x.csr (trigKey x n) v }
  | 0x7B0 => put (if dbgOn s 0 then 0xB7C7 else 0x37C7)
  | 0x7C0 => mdetWrite x v
  | 0x7C1 => { x with ext := x.ext && wbit v 5 }
  | 0x7C3 => mlsWrite x v
  | 0x7C4 => mcacheWrite x v
  | 0x7C5 => settleWrite x n (v &&& 0xF)
  | 0x7C6 => put 0xF
  | 0x7C7 => setCsr x n (wset (wset o 63 63 (b2n (wbit o 63 && wbit v 63))) 62 62 (b2n (wbit o 62 && wbit v 62)))
  | 0x7D0 => settleWrite x n (v &&& ~~~3#64)
  | 0x7D3 => settleWrite x n (v &&& 1)
  | 0x301 | 0x308 | 0x608 | 0x646 | 0x647 | 0x7A4 | 0x7C2 | 0x7D1 => x
  | n =>
    if 0x7D4 ≤ n && n ≤ 0x7D7 then x
    else if 0x5C0 ≤ n && n ≤ 0x5CF then
      (if wb v 5 0 < 12 || 47 < wb v 5 0 then x else settleWrite x n (v &&& 0xFFFFFFFFFFFFF03F#64))
    else if 0x5D0 ≤ n && n ≤ 0x5DF then settleWrite x n (v &&& 0x0000FFFFFFFFF000#64)
    else if 0x5E0 ≤ n && n ≤ 0x5EF then (if wbit v 2 && !wbit v 1 then x else settleWrite x n (v &&& 0x1F))
    else if 0x3B0 ≤ n && n ≤ 0x3BF then
      let i := n - 0x3B0
      let next := if i = 15 then 0 else pmpCfg x (i + 1)
      if bit (pmpCfg x i) 7 || (bit next 7 && bits next 4 3 = 1) then x else setCsr x n (v &&& 0x003FFFFFFFFFFFFF#64)
    else if 0x323 ≤ n && n ≤ 0x33F then setCsr x n (v &&& 0xFC0000000000FFFF#64)
    else setCsr x n v

/-- The value a set or clear works on: SEIP of `mip` takes part with its software bit alone (AIA). -/
def csrModify (s : State) (h : Nat) (x : Hart) (n : Nat) : Word :=
  if n = 0x344 then wset (csrRead s h x n) 9 9 (wb (csr x 0x344) 9 9) else csrRead s h x n

/-- An indirect register that does not exist (R80, AIA): illegal, or virtual for a guest. -/
def iregFault (x : Hart) (n0 : Nat) : Option Nat :=
  let n := csrVirt x.virt n0
  if n = 0x151 || n = 0x251 || n = 0x351 then
    (if (iregRead x (aiaLvl n) (csr x (n - 1)).toNat).isSome then none else some (if x.virt then 22 else 2))
  else if n = 0x25C && (fileNo x 2).isNone then some (if x.virt then 22 else 2)
  else none

end Sys2Proof.Machine
end

