-- ==== Sys2Proof/Machine/HartExec.lean ====
section
/-! DEFINITION. How a hart issues and completes an instruction: fetch checks, the access path through store buffer, L1,
victim cache, L2 and local store, and what each class of instruction does (chapters "Hasp Core", "Core Caches and Local
Store", "Secure and Normal Worlds"). An instruction that must wait keeps itself in `cur` and runs again when a fill, a
walk, a drain or an I/O answer lets it go on. -/
namespace Sys2Proof.Machine
open Sys2Proof

/-- An instruction completes: `f` gives its result, the pc moves past it, its cycles and the instruction are counted. -/
def done (s : State) (h : Nat) (c : Bool) (cycles : Nat) (f : Hart → Hart) : State :=
  let pc0 := (hartOf s h).pc
  let x := f (hartOf s h)
  let x := { x with pc := x.pc + (if c then 2 else 4), cur := none, stalled := false, refused := none, useOld := false, lastPc := pc0 }
  let x := retire s x cycles
  let s := setHart s h x
  if wbit (csr x 0x7B0) 2 && x.run = .running && invasiveOn s x then setHart s h (haltHart x 4) else s

/-- An instruction completes with control passing to `t`. -/
def doneTo (s : State) (h : Nat) (t : Word) (cycles : Nat) (f : Hart → Hart) : State :=
  done s h false cycles (fun x => { f x with pc := t - 4 })

/-- Cycles: the DetClk count of R106, or in normal mode `n`, or where R94 gives none an open count (log 3). -/
def cyc (x : Hart) (det : Nat) (n : Option Nat) : Nat :=
  if x.active then det else match n with
    | some n => n
    | none => 1 + Config.cycles det 0 0

/-- An illegal instruction, with its bits as trap value (R82). -/
def illegal (s : State) (h : Nat) (w : Word) : State := raise s h 2 w
/-- A virtual instruction exception (cause 22). -/
def virtIns (s : State) (h : Nat) (w : Word) : State := raise s h 22 w

/-- Cause 2 or 22. -/
def badInsn (s : State) (h cause : Nat) (w : Word) : State := if cause = 22 then virtIns s h w else illegal s h w

/-- A trigger of Sdtrig matches (`mcontrol6`): the access kind, the mode and the address comparison of `match` 0-3. -/
def trigHit (x : Hart) (k : AK) (va : Word) : Option Nat :=
  (List.range 4).findSome? (fun i =>
    let t := mget 0xF000000000000000 x.csr (0x200000 + 4 * 0x7A1 + i)
    let a := mget 0 x.csr (0x200000 + 4 * 0x7A2 + i)
    let modeOk := match x.priv, x.virt with
      | .m, _ => wbit t 6
      | .s, false => wbit t 4
      | .u, false => wbit t 3
      | .s, true => wbit t 24
      | .u, true => wbit t 23
    let kindOk := match k with
      | .fetch => wbit t 2
      | .store => wbit t 1
      | .load => wbit t 0
    let hit := match wb t 10 7 with
      | 0 => decide (va = a)
      | 1 =>
        let z := ((List.range 64).find? (fun j => !wbit a j)).getD 63
        decide (va.toNat / 2 ^ (z + 1) = a.toNat / 2 ^ (z + 1))
      | 2 => !(va.ult a)
      | 3 => va.ult a
      | _ => false
    if wb t 63 60 = 6 && modeOk && kindOk && hit then some (wb t 15 12) else none)

/-- A trigger fires (R326): action 1 enters debug mode where the invasive enable is in effect; else a breakpoint. -/
def trigFire (s : State) (h action : Nat) (va : Word) : State :=
  let x := hartOf s h
  if action = 1 && invasiveOn s x then setHart s h (haltHart { x with cur := none } 2) else raise s h 3 va

/-- The checks on the final physical address of an access (R128 step 4, R34, R35, R105): PMP, an unmapped address, a
fetch or atomic in an I/O range, and STRICT in deterministic mode. `at` says that the access is an LR, SC or AMO. -/
def paCheck (s : State) (h : Nat) (k : AK) (va : Word) (pa : Nat) (e : Eff) (atomic : Bool) : Except State State :=
  let x := hartOf s h
  let z := zoneOf s pa
  if !pmpOk x e.priv pa k then .error (raise s h (accCause k) va)
  else if !isMem z && !isIo z then .error (raise (unmapped s (whoOf s (.hart h)) pa (k = .store)) h (accCause k) va)
  else if isIo z && (k = .fetch || atomic) then .error (raise s h (accCause k) va)
  else if x.active && !(isMem z && inWin x k pa) && (k = .fetch || strict x) then .error (raise s h (accCause k) va)
  else .ok s

/-- Narrow accesses to register space and the alias window are refused before any effect (R37). -/
def widthCheck (s : State) (h : Nat) (k : AK) (va : Word) (pa size : Nat) : Except State State :=
  match zoneOf s pa with
  | .regs | .aliasWin =>
    if size < 4 then .error (raise (guardCount s (whoOf s (.hart h)) 2 pa (k = .store)) h (accCause k) va) else .ok s
  | .view => if size < 2 then .error (raise s h (accCause k) va) else .ok s
  | _ => .ok s

/-- A piece of `n` bytes of an instruction, within one aligned word of memory, is fetched: translation, PMP and attributes, the window rule of R105, the world
check and poison (R34, R97, R128, R318). The line enters the L1 instruction cache where the cluster's L2 holds it. -/
def fetchPiece (s : State) (h : Nat) (va : Word) (n : Nat) : Except State State :=
  let e := effOf (hartOf s h) .fetch false false
  match translate s h .fetch va e with
  | .error s => .error s
  | .ok (pa, s) =>
    match paCheck s h .fetch va pa e false with
    | .error s => .error s
    | .ok s =>
      let x := hartOf s h
      if inWin x .fetch pa then
        let (sec, s) := isSecure s pa
        if sec && !secureHart x then .error (illegal (secEvent s 0 pa (whoOf s (.hart h)) false) h 0)
        else if s.lsBad.any (fun b => decide (lsKey x.core pa ≤ b) && decide (b < lsKey x.core pa + n)) then .error (raise (hclUe s h 3 (pa % 2 ^ 17)) h 1 va)
        else .ok (hpmH s h 0x0C)
      else
        let ln := pa / 64
        let held := l2Of s (hartCl s h) ln
        let (sec, s) := match held with
          | some l => (l.sec, s)
          | none => isSecure s pa
        if sec && !secureHart x then .error (illegal (secEvent s 0 pa (whoOf s (.hart h)) false) h 0)
        else if (curLine s ln).2.getLsbD (pa % 64 / 8) then .error (raise s h 1 va)
        else if wbit (govCache x) 1 && held.isSome then
          let set := wb va 12 6
          if x.l1i.any (fun c => c.line = ln && c.set = set) then .ok s
          else
            let s := hpmH s h 0x01
            let used := (x.l1i.filter (fun c => c.set = set)).map (fun c => (c.way, c.line))
            let (w, _, s) := pickWay s 4 (wb (gov x 0x7C4) 19 16) used
            let x := hartOf s h
            .ok (setHart s h { x with l1i := x.l1i.filter (fun c => !(c.set = set && c.way = w)) ++ [⟨ln, set, w⟩] })
        else .ok s

/-- The fetch of the instruction at the pc; one that crosses an aligned word of memory, and so perhaps a line or a page, is
fetched and checked in two pieces (R128, R318). -/
def fetchCheck (s : State) (h : Nat) (c : Bool) : Except State State :=
  let x := hartOf s h
  match trigHit x .fetch x.pc with
  | some a => .error (trigFire s h a x.pc)
  | none =>
    if !c && wb x.pc 2 0 = 6 then
      match fetchPiece s h x.pc 2 with
      | .error s => .error s
      | .ok s => fetchPiece s h (x.pc + 2) 2
    else fetchPiece s h x.pc (if c then 2 else 4)

/-- `mdetstat.EXT` is set by an access outside the window in deterministic mode (R105), and counted once. -/
def setExt (s : State) (h : Nat) : State :=
  let x := hartOf s h
  if x.active then setHart s h { hpm s x 0x0D with ext := true } else s

/-- The bytes of the store buffer's entries and of the gathered line as entries, oldest first. -/
def gatherEntries (x : Hart) : List SbEntry :=
  (List.range x.strm.gather.length).map (fun i =>
    { pa := x.strm.line * 64 + 8 * i, mask := 255, data := (x.strm.gather[i]?).getD 0, tgt := .mem, size := 8,
      sec := secureHart x, who := {}, begun := false })

/-- The byte mask of an access within its granule. -/
def accMask (pa size : Nat) : Nat := (2 ^ size - 1) * 2 ^ (pa % 8)

/-- What the store buffer says about a load (R139): no overlap, forwarded data, or wait. -/
inductive Fwd where
  | none | data (v : Nat) | wait
deriving DecidableEq, Repr

def forward (x : Hart) (pa size : Nat) : Fwd :=
  let ovr := (gatherEntries x ++ x.sb).filter (fun e => e.tgt ≠ .io && e.pa / 8 = pa / 8 && e.mask &&& accMask pa size ≠ 0)
  match ovr.getLast? with
  | none => .none
  | some e => if e.mask &&& accMask pa size = accMask pa size then .data (e.data / 2 ^ (8 * (pa % 8)) % 2 ^ (8 * size)) else .wait

/-- A line moves into the victim cache, whose oldest line then leaves it (R137); with VC_EN = 0 it is written back. The
bytes are the cluster's, so only presence changes. -/
def toVictim (x : Hart) (c : CLine) : Hart :=
  if wbit (gov x 0x7C4) 2 then { x with vc := (if 8 ≤ x.vc.length then x.vc.drop 1 else x.vc) ++ [c] } else x

/-- A line is put into the L1 data cache (R135): a way among those DC_WAYS enables; the line displaced becomes a victim. -/
def l1Install (s : State) (h ln : Nat) (dirty : Bool) : State :=
  let x := hartOf s h
  let used := (x.l1d.filter (fun c => c.line % 64 = ln % 64)).map (fun c => (c.way, c.line))
  let (w, out, s) := pickWay s 8 (wb (gov x 0x7C4) 15 8) used
  let x := hartOf s h
  let x := match out.bind (fun o => x.l1d.find? (fun c => c.line = o)) with
    | some c => toVictim { x with l1d := x.l1d.filter (fun d => d.line != c.line) } c
    | none => x
  setHart s h { x with l1d := x.l1d ++ [⟨ln, w, dirty⟩] }

/-- The L1 data cache serves this hart: DC_EN governs and the hart is in normal mode (R105, R142, R146). -/
def l1On (x : Hart) : Bool := wbit (govCache x) 0 && !x.active

/-- The cluster holds the line with write permission (R166). -/
def ownedBy (s : State) (cl ln : Nat) : Bool :=
  match l2Of s cl ln with
  | some l => (match l.st with
    | .m | .e => true
    | .o | .s => false)
  | none => false

/-- The line is ready for an access of the hart: in the L1, recalled from the victim cache, or with the L1 unused in the
L2; `own` asks for write permission. Otherwise the hart waits for the line (R134, R137). -/
def lineReady (s : State) (h ln : Nat) (own st : Bool) : Bool × State :=
  let x := hartOf s h
  let cl := hartCl s h
  let permitted := if own then ownedBy s cl ln else (l2Of s cl ln).isSome
  if permitted && (!l1On x || x.l1d.any (fun c => c.line = ln)) then (true, s)
  else if permitted && x.vc.any (fun c => c.line = ln) then
    let d := x.vc.any (fun c => c.line = ln && c.dirty)
    let s := setHart s h (hpm s { x with vc := x.vc.filter (fun c => c.line != ln) } 0x04)
    (true, l1Install s h ln d)
  else (false, setHart s h { hpm s x 0x02 with miss := some ln, missOwn := own, missSt := st })

/-- A normal access that hits a marked line (R318), or whose line the home refused. -/
def lineSecret (s : State) (h ln : Nat) (sec : Bool) : Bool × State :=
  if sec then (false, s)
  else if (hartOf s h).refused = some ln then (true, s)
  else match l2Of s (hartCl s h) ln with
    | some l => if l.sec then (true, secEvent s 0 (ln * 64) (whoOf s (.hart h)) false) else (false, s)
    | none => (false, s)

/-- The line of the cluster takes bytes of a store (R143): state M, the words written lose their poison (R220), the
reservations of the cluster's other harts on it end. -/
def lineStore (s : State) (h ln mask data gran : Nat) : State :=
  let cl := hartCl s h
  match l2Of s cl ln with
  | none => s
  | some l =>
    let v := BitVec.ofNat 512 (data * 2 ^ (64 * gran))
    let m := BitVec.ofNat 64 (mask * 2 ^ (8 * gran))
    let s := setL2 s cl ln { l with st := .m, data := mergeLine l.data v m, poison := mergePoison l.poison m }
    { s with harts := s.harts.map (fun (e : Nat × Hart) =>
        if coreCluster e.2.core = cl then
          (e.1, { e.2 with resv := if e.1 ≠ h && e.2.resv = some ln then none else e.2.resv,
                           l1d := if e.1 = h then e.2.l1d.map (fun c => if c.line = ln then { c with dirty := true } else c) else e.2.l1d })
        else e) }

/-- The value a line holds at an address, and whether a word read is poisoned. -/
def lineLoad (s : State) (h pa size : Nat) : Nat × Bool :=
  match l2Of s (hartCl s h) (pa / 64) with
  | some l => (l.data.toNat / 2 ^ (8 * (pa % 64)) % 2 ^ (8 * size), l.poison.getLsbD (pa % 64 / 8))
  | none => (0, false)

/-- Local-store bytes read. -/
def lsLoad (s : State) (core pa size : Nat) : Nat := readBytes s.lstore (lsKey core pa) size
/-- Local-store bytes that an uncorrectable error has taken. -/
def lsUe (s : State) (core pa size : Nat) : Bool :=
  s.lsBad.any (fun b => decide (lsKey core pa ≤ b) && decide (b < lsKey core pa + size))
/-- Local-store bytes written; a byte written is good again (R150). -/
def lsStore (s : State) (core pa mask v : Nat) (n : Nat) : State :=
  let k := lsKey core pa
  { s with lstore := writeMasked s.lstore k n mask v,
           lsBad := s.lsBad.filter (fun b => !(decide (k ≤ b) && decide (b < k + n) && bit mask (b - k))) }

/-- A value of `size` bytes as a register takes it. -/
def extend (size : Nat) (uns : Bool) (v : Nat) : Word :=
  match size with
  | 1 => if uns then BitVec.ofNat 64 (v % 256) else (BitVec.ofNat 8 v).signExtend 64
  | 2 => if uns then BitVec.ofNat 64 (v % 65536) else (BitVec.ofNat 16 v).signExtend 64
  | 4 => if uns then BitVec.ofNat 64 (v % 2 ^ 32) else (BitVec.ofNat 32 v).signExtend 64
  | _ => BitVec.ofNat 64 v

/-- The register result of a load. -/
def loadResult (x : Hart) (rd size v : Nat) (k : LoadKind) : Hart :=
  match k with
  | .int u | .hlv u => setX x rd (extend size u v)
  | .hlvx => setX x rd (extend size true v)
  | .fp => fpDirty (setFr x rd (if size = 4 then nanbox (BitVec.ofNat 32 v) else BitVec.ofNat 64 v))

/-- A load completes with its value. -/
def loadDone (s : State) (h : Nat) (c : Bool) (rd size v cycles : Nat) (k : LoadKind) : State :=
  done s h c (cyc (hartOf s h) 2 (some cycles)) (fun x => loadResult x rd size v k)

/-- A value stays to be waited for: the instruction stays in `cur`; a partial overlap is counted once (R139, R424). -/
def stallOverlap (s : State) (h : Nat) : State :=
  let x := hartOf s h
  if x.stalled then s else setHart s h { hpm s x 0x06 with stalled := true }

def encI (op f3 rd rs1 imm : Nat) : Word := BitVec.ofNat 64 (imm % 4096 * 2 ^ 20 + rs1 % 32 * 2 ^ 15 + f3 * 2 ^ 12 + rd % 32 * 2 ^ 7 + op)
def encR (op f3 f7 rd rs1 rs2 : Nat) : Word :=
  BitVec.ofNat 64 (f7 * 2 ^ 25 + rs2 % 32 * 2 ^ 20 + rs1 % 32 * 2 ^ 15 + f3 * 2 ^ 12 + rd % 32 * 2 ^ 7 + op)
def sizeLog (size : Nat) : Nat := if size = 1 then 0 else if size = 2 then 1 else if size = 4 then 2 else 3

/-- The bits of a load for `mtval` (R82); the compressed forms are not told apart by the operands, so theirs are a free
value (assumption log 9). -/
def loadBits (s : State) (c : Bool) (rd rs1 : Nat) (imm : BitVec 12) (size : Nat) (k : LoadKind) : Word × State :=
  if c then let (v, s) := draw s; (BitVec.ofNat 64 (v % 65536), s)
  else (match k with
    | .int u => encI 0x03 (sizeLog size + if u then 4 else 0) rd rs1 imm.toNat
    | .fp => encI 0x07 (sizeLog size) rd rs1 imm.toNat
    | .hlv u => encR 0x73 4 (0x30 + 2 * sizeLog size) rd rs1 (if u then 1 else 0)
    | .hlvx => encR 0x73 4 (0x30 + 2 * sizeLog size) rd rs1 3, s)

def storeBits (s : State) (c : Bool) (rs1 rs2 : Nat) (imm : BitVec 12) (size : Nat) (k : StoreKind) : Word × State :=
  if c then let (v, s) := draw s; (BitVec.ofNat 64 (v % 65536), s)
  else (match k with
    | .int => encR 0x23 (sizeLog size) (imm.toNat / 32) (imm.toNat % 32) rs1 rs2
    | .fp => encR 0x27 (sizeLog size) (imm.toNat / 32) (imm.toNat % 32) rs1 rs2
    | .hsv => encR 0x73 4 (0x31 + 2 * sizeLog size) 0 rs1 rs2, s)

/-- Whether an HLV, HLVX or HSV may run: M and HS, U with `hstatus.HU`; a guest gets a virtual instruction. -/
def hypFault (x : Hart) : Option Nat :=
  if x.priv = .m then none
  else if x.virt then some 22
  else if x.priv = .s || wbit (csr x 0x600) 9 then none else some 2

/-- A load from the I/O range waits for earlier I/O stores, then reads (R139, R159). -/
def ioLoad (s : State) (h : Nat) (c : Bool) (rd size pa : Nat) (va : Word) (k : LoadKind) : State :=
  let x := hartOf s h
  if x.sb.any (fun e => e.tgt = .io) then s
  else match ioRead s (whoOf s (.hart h)) pa size with
    | (.val v, s) => loadDone (setExt s h) h c rd size v 14 k
    | (.err, s) => raise s h 5 va
    | (.wait t, s) => setHart (setExt s h) h { hartOf s h with ioTag := some t }

/-- LOAD (R128, R133-R139). -/
def goLoad (s : State) (h : Nat) (c : Bool) (rd rs1 : Nat) (imm : BitVec 12) (size : Nat) (k : LoadKind) : State :=
  let x := hartOf s h
  let hyp := match k with
    | .hlv _ | .hlvx => true
    | .int _ | .fp => false
  let va := xr x rs1 + (if hyp then 0 else imm.signExtend 64)
  let (w, s1) := loadBits s c rd rs1 imm size k
  if k = .fp && fpOff x then illegal s1 h w
  else match (if hyp then hypFault x else none) with
  | some cause => badInsn s1 h cause w
  | none =>
  if va.toNat % size ≠ 0 then raise s h 4 va
  else match trigHit x .load va with
  | some a => trigFire s h a va
  | none =>
  let e := effOf x .load hyp (k = .hlvx)
  match translate s h .load va e with
  | .error s => s
  | .ok (pa, s) =>
  match paCheck s h .load va pa e false with
  | .error s => s
  | .ok s =>
  let x := hartOf s h
  if isIo (zoneOf s pa) then
    match widthCheck s h .load va pa size with
    | .error s => s
    | .ok s => ioLoad s h c rd size pa va k
  else if inWin x .load pa then
    match forward x pa size with
    | .wait => stallOverlap s h
    | .data v => loadDone (hpmH s h 0x05) h c rd size v 3 k
    | .none =>
      let (sec, s) := isSecure s pa
      if sec && !secureHart x then loadDone (secEvent s 0 pa (whoOf s (.hart h)) false) h c rd size 0 5 k
      else if lsUe s x.core pa size then raise (hclUe s h 3 (pa % 2 ^ 17)) h 5 va
      else loadDone (hpmH s h 0x0C) h c rd size (lsLoad s x.core pa size) 5 k
  else
    match forward x pa size with
    | .wait => stallOverlap s h
    | .data v => loadDone (setExt (hpmH s h 0x05) h) h c rd size v 3 k
    | .none =>
      let (deny, s) := lineSecret s h (pa / 64) (secureHart x)
      if deny then loadDone (setExt s h) h c rd size 0 14 k
      else match lineReady s h (pa / 64) false false with
        | (false, s) => s
        | (true, s) =>
          let (v, bad) := lineLoad s h pa size
          if bad then raise s h 5 va
          else loadDone (setExt s h) h c rd size v (if x.stalled then 14 else 3) k

/-- The store's entry goes into the store buffer (R138); a full one stalls the store. -/
def sbPush (s : State) (h : Nat) (c : Bool) (e : SbEntry) : State :=
  let x := hartOf s h
  match x.sb.getLast? with
  | some l =>
    if e.tgt ≠ .io && l.tgt = e.tgt && l.pa = e.pa && !l.begun && l.sec = e.sec then
      let d := (List.range 8).foldl (fun a i =>
        a + 2 ^ (8 * i) * ((if bit e.mask i then e.data else l.data) / 2 ^ (8 * i) % 256)) 0
      done s h c (cyc x 1 (some 1)) (fun x => { x with sb := x.sb.dropLast ++ [{ l with mask := l.mask ||| e.mask, data := d }] })
    else if 8 ≤ x.sb.length then s
    else done s h c (cyc x 1 (some 1)) (fun x => { x with sb := x.sb ++ [e] })
  | none => done s h c (cyc x 1 (some 1)) (fun x => { x with sb := [e] })

/-- STORE (R128, R138). -/
def goStore (s : State) (h : Nat) (c : Bool) (rs1 rs2 : Nat) (imm : BitVec 12) (size : Nat) (k : StoreKind) : State :=
  let x := hartOf s h
  let va := xr x rs1 + (if k = .hsv then 0 else imm.signExtend 64)
  let v := ((if k = .fp then fr x rs2 else xr x rs2).toNat) % 2 ^ (8 * size)
  let (w, s1) := storeBits s c rs1 rs2 imm size k
  if k = .fp && fpOff x then illegal s1 h w
  else match (if k = .hsv then hypFault x else none) with
  | some cause => badInsn s1 h cause w
  | none =>
  if va.toNat % size ≠ 0 then raise s h 6 va
  else match trigHit x .store va with
  | some a => trigFire s h a va
  | none =>
  let e := effOf x .store (k = .hsv) false
  match translate s h .store va e with
  | .error s => s
  | .ok (pa, s) =>
  match paCheck s h .store va pa e false with
  | .error s => s
  | .ok s =>
  let x := hartOf s h
  let who := whoOf s (.hart h)
  let sh := 8 * (pa % 8)
  let ent : SbEntry := { pa := pa / 8 * 8, mask := accMask pa size, data := v * 2 ^ sh, tgt := .mem, size := size,
                         sec := secureHart x, who := who, begun := false }
  if isIo (zoneOf s pa) then
    match widthCheck s h .store va pa size with
    | .error s => s
    | .ok s =>
      if x.active then
        match ioWrite (setExt s h) who pa size v with
        | (false, s) => raise s h 7 va
        | (true, s) => done s h c (cyc x 1 none) id
      else sbPush s h c { ent with pa := pa, mask := 0, data := v, tgt := .io }
  else if inWin x .store pa then
    let (sec, s) := isSecure s pa
    if sec && !secureHart x then done (secEvent s 0 pa who true) h c (cyc x 1 (some 1)) id
    else if x.active then done (lsStore (hpmH s h 0x0C) x.core pa (2 ^ size - 1) v size) h c 1 id
    else sbPush (hpmH s h 0x0C) h c { ent with tgt := .ls }
  else if x.active then
    let (deny, s) := lineSecret s h (pa / 64) (secureHart x)
    if deny then done (setExt s h) h c (cyc x 1 none) id
    else match lineReady s h (pa / 64) true false with
      | (false, s) => s
      | (true, s) => done (setExt (lineStore s h (pa / 64) ent.mask ent.data (pa % 64 / 8)) h) h c (cyc x 1 none) id
  else sbPush s h c ent

/-- What an atomic reaches once its checks have passed. -/
inductive AtTgt where
  | ls (pa : Nat) | mem (pa : Nat) | secret (pa : Nat)
deriving DecidableEq, Repr

/-- The common part of LR, SC and AMO (R95, R128, R140, R166): the store buffer is drained, the address is checked, and
the line is owned by the cluster, or the location is in the local store, or it is secret. What `reads` the location, LR and
AMO, faults on poison (R219). -/
def atomicAt (s : State) (h rs1 size : Nat) (isLr reads : Bool) : Except State (AtTgt × State) :=
  let x := hartOf s h
  let va := xr x rs1
  let k := if isLr then AK.load else AK.store
  if va.toNat % size ≠ 0 then .error (raise s h (if isLr then 4 else 6) va)
  else if !sbEmpty x then .error s
  else match trigHit x k va with
  | some a => .error (trigFire s h a va)
  | none =>
  let e := effOf x k false false
  match translate s h k va e with
  | .error s => .error s
  | .ok (pa, s) =>
  match paCheck s h k va pa e true with
  | .error s => .error s
  | .ok s =>
  let x := hartOf s h
  if inWin x k pa then
    let (sec, s) := isSecure s pa
    if sec && !secureHart x then .ok (.secret pa, secEvent s 0 pa (whoOf s (.hart h)) (!isLr))
    else if reads && lsUe s x.core pa size then .error (raise (hclUe s h 3 (pa % 2 ^ 17)) h (accCause k) va)
    else .ok (.ls pa, hpmH s h 0x0C)
  else
    let (deny, s) := lineSecret s h (pa / 64) (secureHart x)
    if deny then .ok (.secret pa, setExt s h)
    else match lineReady s h (pa / 64) true false with
      | (false, s) => .error s
      | (true, s) => if reads && (lineLoad s h pa size).2 then .error (raise s h (accCause k) va) else .ok (.mem pa, setExt s h)

/-- The bytes an atomic finds. -/
def atRead (s : State) (h size : Nat) (t : AtTgt) : Nat :=
  match t with
  | .ls pa => lsLoad s (hartOf s h).core pa size
  | .mem pa => (lineLoad s h pa size).1
  | .secret _ => 0

/-- The bytes an atomic leaves. -/
def atWrite (s : State) (h size v : Nat) (t : AtTgt) : State :=
  match t with
  | .ls pa => lsStore s (hartOf s h).core pa (2 ^ size - 1) v size
  | .mem pa => lineStore s h (pa / 64) (accMask pa size) (v * 2 ^ (8 * (pa % 8))) (pa % 64 / 8)
  | .secret _ => s

/-- AMO (R166, R318). -/
def goAmo (s : State) (h : Nat) (op : AmoOp) (rd rs1 rs2 size : Nat) : State :=
  match atomicAt s h rs1 size false true with
  | .error s => s
  | .ok (t, s) =>
    let x := hartOf s h
    let old := extend size false (atRead s h size t)
    let s := atWrite s h size ((amoVal op size old (xr x rs2)).toNat % 2 ^ (8 * size)) t
    done s h false (cyc x 3 none) (fun x => setX x rd old)

/-- LR (R166, R318): a reservation on the line of 64 bytes; none where the world check refuses. -/
def goLr (s : State) (h rd rs1 size : Nat) : State :=
  match atomicAt s h rs1 size true true with
  | .error s => s
  | .ok (t, s) =>
    let v := extend size false (atRead s h size t)
    let r := match t with
      | .ls pa | .mem pa => some (pa / 64)
      | .secret _ => none
    done s h false (cyc (hartOf s h) 2 none) (fun x => { setX x rd v with resv := r })

/-- SC (R166): stores only while the reservation holds. A normal SC whose reserved address has become secure is dropped
(R318); what it then returns is not stated and is free. -/
def goSc (s : State) (h rd rs1 rs2 size : Nat) : State :=
  match atomicAt s h rs1 size false false with
  | .error s => s
  | .ok (t, s) =>
    let x := hartOf s h
    let fin := fun (s : State) (v : Word) => done s h false (cyc x 2 none) (fun x => { setX x rd v with resv := none })
    match t with
    | .secret pa => if x.resv = some (pa / 64) then let (v, s) := draw s; fin s (BitVec.ofNat 64 (v % 2)) else fin s 1
    | .ls pa | .mem pa =>
      if x.resv = some (pa / 64) then fin (atWrite s h size ((xr x rs2).toNat % 2 ^ (8 * size)) t) 0
      else fin s 1

/-- An instruction that first drains the store buffer (R140). -/
def drained (s : State) (h : Nat) (k : State → State) : State := if sbEmpty (hartOf s h) then k s else s

/-- FENCE (R140). -/
def goFence (s : State) (h : Nat) : State := drained s h (fun s => done s h false (cyc (hartOf s h) 2 none) id)

/-- FENCE.I (R141, R88): the L1 instruction cache is emptied, and fetch sees the present window. -/
def goFenceI (s : State) (h : Nat) : State :=
  drained s h (fun s => done s h false (cyc (hartOf s h) 6 none) (fun x => { x with l1i := [], old := mdel x.old winKeyF }))

/-- The TLB entries an SFENCE.VMA, HFENCE.VVMA or HFENCE.GVMA does not remove. -/
def fenceTlb (x : Hart) (keep : Tlb → Bool) : Hart :=
  { x with itlb := x.itlb.filter keep, dtlb := x.dtlb.filter keep, l2tlb := x.l2tlb.filter keep }

/-- Whether an entry of the right kind is selected by an address operand and an ASID operand. -/
def fenceHit (t : Tlb) (rs1 rs2 : Nat) (va asid : Nat) (base : Nat) : Bool :=
  (rs1 = 0 || decide (base / 2 ^ t.exp = va / 2 ^ t.exp)) && (rs2 = 0 || (t.asid = asid && !bit t.perm 5))

/-- SFENCE.VMA (R129): in VS mode it acts on the guest's entries of its VMID. -/
def goSfence (s : State) (h rs1 rs2 : Nat) : State :=
  let x := hartOf s h
  let w := encR 0x73 0 0x09 0 rs1 rs2
  if x.priv = .u then badInsn s h (if x.virt then 22 else 2) w
  else if x.priv = .s && !x.virt && wbit (csr x 0x300) 20 then illegal s h w
  else if x.virt && wbit (csr x 0x600) 20 then virtIns s h w
  else drained s h (fun s =>
    let va := (xr x rs1).toNat
    let asid := (xr x rs2).toNat % 65536
    let vmid := wb (csr x 0x680) 57 44
    done s h false (cyc x 8 none) (fun x => fenceTlb x (fun t =>
      !(t.virt == x.virt && (!x.virt || t.vmid = vmid) && fenceHit t rs1 rs2 va asid t.va))))

/-- HFENCE.VVMA and HFENCE.GVMA (R129). GVMA's address operand is a guest physical address shifted right by 2. -/
def goHfence (s : State) (h : Nat) (gvma : Bool) (rs1 rs2 : Nat) : State :=
  let x := hartOf s h
  let w := encR 0x73 0 (if gvma then 0x31 else 0x11) 0 rs1 rs2
  if x.virt then virtIns s h w
  else if x.priv = .u then illegal s h w
  else if x.priv = .s && gvma && wbit (csr x 0x300) 20 then illegal s h w
  else drained s h (fun s =>
    let a := (xr x rs1).toNat
    let n := (xr x rs2).toNat
    let vmid := wb (csr x 0x680) 57 44
    done s h false (cyc x 8 none) (fun x => fenceTlb x (fun t =>
      if gvma then !(t.virt && (rs1 = 0 || decide (t.gpa / 2 ^ t.exp = 4 * a / 2 ^ t.exp)) && (rs2 = 0 || t.vmid = n % 2 ^ 14))
      else !(t.virt && t.vmid = vmid && fenceHit t rs1 rs2 a (n % 65536) t.va))))

/-- Which cache-block operation. -/
inductive Cbo where
  | clean | flush | inval
deriving DecidableEq, Repr

/-- The exception of the Zicbom rules for a cache-block operation, if any, with the effect CBO.INVAL has (R145). -/
def cboFault (x : Hart) (op : Cbo) : Option Nat :=
  let on := fun (n : Nat) => match op with
    | .clean | .flush => wbit (csr x n) 6
    | .inval => wb (csr x n) 5 4 ≠ 0
  if x.priv = .m then none
  else if !on 0x30A then some 2
  else if x.virt && !on 0x60A then some 22
  else if x.priv = .u && !on 0x10A then some (if x.virt then 22 else 2)
  else none

/-- CBO.INVAL acts as a flush: CBIE of a level that governs is 0b01. -/
def invalFlush (x : Hart) : Bool :=
  x.priv ≠ .m && (wb (csr x 0x30A) 5 4 = 1 || (x.virt && wb (csr x 0x60A) 5 4 = 1) || (x.priv = .u && wb (csr x 0x10A) 5 4 = 1))

/-- CBO.CLEAN, CBO.FLUSH, CBO.INVAL (R145, R105, R318): checked as a store, on the line in every cache; no effect on an I/O
range. A normal one on a secure line is treated as a normal access and acts on nothing. -/
def goCbo (s : State) (h : Nat) (op : Cbo) (rs1 : Nat) : State :=
  let x := hartOf s h
  let va := xr x rs1
  let w := encI 0x0F 2 0 rs1 (match op with
    | .inval => 0
    | .clean => 1
    | .flush => 2)
  match cboFault x op with
  | some cause => badInsn s h cause w
  | none =>
  drained s h (fun s =>
  let e := effOf x .store false false
  match translate s h .store va e with
  | .error s => s
  | .ok (pa, s) =>
  let x := hartOf s h
  let z := zoneOf s pa
  if !pmpOk x e.priv pa .store then raise s h 7 va
  else if isIo z then done s h false (cyc x 1 none) id
  else if !isMem z then raise (unmapped s (whoOf s (.hart h)) pa true) h 7 va
  else if x.active && strict x then raise s h 7 va
  else
    let ln := pa / 64
    let (sec, s) := isSecure s pa
    let s := setExt s h
    if sec && !secureHart x then done (secEvent s 0 pa (whoOf s (.hart h)) true) h false (cyc x 1 none) id
    else
      let s := match op with
        | .clean => cacheOp s ln true true
        | .flush => cacheOp s ln true false
        | .inval => if invalFlush x then cacheOp s ln true false else cacheOp s ln false false
      done s h false (cyc x 1 none) id)

/-- A CSR instruction (R89). -/
def goCsr (s : State) (h : Nat) (op : CsrOp) (n rd : Nat) (src : CsrSrc) : State :=
  let x := hartOf s h
  let w := encCsr op n rd src
  let (arg, zero) := match src with
    | .reg r => (xr x r, r == 0)
    | .imm v => (BitVec.ofNat 64 (v % 32), v == 0)
  let wr := op = .rw || !zero
  if (n = 1 || n = 2 || n = 3) && fpOff x then illegal s h w
  else match (csrFault x n wr).orElse (fun _ => iregFault x n) with
  | some cause => badInsn s h cause w
  | none =>
    let old := csrRead s h x n
    let m := csrModify s h x n
    let v := match op with
      | .rw => arg
      | .rs => m ||| arg
      | .rc => m &&& ~~~arg
    done s h false (cyc x 3 none) (fun x =>
      let x := if wr then csrWrite s x n v else x
      if op = .rw && rd = 0 then x else setX x rd old)

/-- ECALL (R97): cause by privilege. -/
def goEcall (s : State) (h : Nat) : State :=
  let x := hartOf s h
  raise s h (match x.priv with
    | .u => 8
    | .s => if x.virt then 10 else 9
    | .m => 11) 0

/-- EBREAK (R326, Sdext): debug mode where `dcsr` asks for it in this mode and the invasive enable is in effect. -/
def goEbreak (s : State) (h : Nat) : State :=
  let x := hartOf s h
  let d := csr x 0x7B0
  let want := match x.priv, x.virt with
    | .m, _ => wbit d 15
    | .s, false => wbit d 13
    | .u, false => wbit d 12
    | .s, true => wbit d 17
    | .u, true => wbit d 16
  if want && invasiveOn s x then drained s h (fun s => setHart s h (haltHart { x with cur := none } 1))
  else raise s h 3 x.pc

/-- MRET (R312): returns within M-mode; with MPP below M, or outside M-mode, it is illegal. -/
def goMret (s : State) (h : Nat) : State :=
  let x := hartOf s h
  if x.priv ≠ .m || wb (csr x 0x300) 12 11 ≠ 3 then illegal s h 0x30200073
  else drained s h (fun s => doneTo s h (csr x 0x341) (cyc x 5 none) (fun x =>
    let x := settleAll x
    let st := csr x 0x300
    let st := wset (wset (wset st 3 3 (wb st 7 7)) 7 7 1) 12 11 0
    setCsr x 0x300 (wset st 39 39 0)))

/-- SRET (R91). In HS mode it returns to the mode and virtualisation that `sstatus` and `hstatus` hold, in VS mode within
the guest; TSR and VTSR trap it. -/
def goSret (s : State) (h : Nat) : State :=
  let x := hartOf s h
  if x.priv = .u then badInsn s h (if x.virt then 22 else 2) 0x10200073
  else if x.virt && wbit (csr x 0x600) 22 then virtIns s h 0x10200073
  else if x.priv = .m then illegal s h 0x10200073
  else if !x.virt && wbit (csr x 0x300) 22 then illegal s h 0x10200073
  else drained s h (fun s =>
    if x.virt then doneTo s h (csr x 0x241) (cyc x 5 none) (fun x =>
      let x := settleAll x
      let st := csr x 0x200
      let p := if wbit st 8 then Priv.s else Priv.u
      { setCsr x 0x200 (wset (wset (wset st 1 1 (wb st 5 5)) 5 5 1) 8 8 0) with priv := p })
    else doneTo s h (csr x 0x141) (cyc x 5 none) (fun x =>
      let x := settleAll x
      let st := csr x 0x300
      let hs := csr x 0x600
      let p := if wbit st 8 then Priv.s else Priv.u
      let x := setCsr x 0x300 (wset (wset (wset (wset st 1 1 (wb st 5 5)) 5 5 1) 8 8 0) 17 17 0)
      { setCsr x 0x600 (wset hs 7 7 0) with priv := p, virt := wbit hs 7 }))

/-- WFI (R107): the hart waits until an interrupt is pending and enabled, whatever the global enables hold. -/
def goWfi (s : State) (h : Nat) : State :=
  let x := hartOf s h
  let tw := wbit (csr x 0x300) 21
  if x.priv = .u && !x.virt then illegal s h 0x10500073
  else if x.priv ≠ .m && tw then illegal s h 0x10500073
  else if x.virt && (x.priv = .u || wbit (csr x 0x600) 21) then virtIns s h 0x10500073
  else done s h false (cyc x 1 none) (fun x => { x with run := .wfi })

/-- KEYCALL (R84, R314). -/
def goKeycall (s : State) (h : Nat) (svc : BitVec 12) : State :=
  let x := hartOf s h
  let w := BitVec.ofNat 64 (svc.toNat * 0x100000 + 0x0B)
  if x.priv = .m || x.priv = .u then illegal s h w
  else if x.virt then virtIns s h w
  else if !wbit (gov x 0x7D3) 0 then illegal s h w
  else drained s h (fun s =>
    let x := hpm s x 0x0F
    let s := setHart s h x
    doneTo s h (csr x 0x7D0) (cyc x 8 none) (fun x =>
      let x := settleAll x
      let st := csr x 0x300
      let st := wset (wset (wset (wset st 12 11 1) 39 39 0) 7 7 (wb st 3 3)) 3 3 0
      let x := setCsr (setCsr x 0x341 (x.pc + 4)) 0x300 st
      { setCsr x 0x7D1 (BitVec.ofNat 64 svc.toNat) with priv := .m, virt := false }))

/-- KEYRET (R315). -/
def goKeyret (s : State) (h : Nat) : State :=
  let x := hartOf s h
  let st := csr x 0x300
  if x.priv ≠ .m || wb st 12 11 = 3 then illegal s h 0x100B
  else drained s h (fun s => doneTo s h (csr x 0x341) (cyc x 8 none) (fun x =>
    let x := settleAll x
    let st := csr x 0x300
    let p := privOf (wb st 12 11)
    let v := wbit st 39
    let st := wset (wset (wset (wset st 3 3 (wb st 7 7)) 7 7 1) 12 11 0) 17 17 0
    { setCsr x 0x300 (wset st 39 39 0) with priv := p, virt := v }))

/-- SYNC.CR starts (R84, R90): with the store buffer drained the hart waits until every change is in effect. -/
def goSyncCr (s : State) (h : Nat) : State :=
  let x := hartOf s h
  if x.priv = .u then illegal s h 0x200B
  else drained s h (fun s => setHart s h { x with syncing := true })

/-- A release takes hold of a hart (R108): `mscaninfo` is loaded, SWAIT, DONE and WAKE_PEND clear. -/
def releaseHart (x : Hart) : Hart :=
  { setCsr x 0x7C2 x.wakeInfo with done := false, wakePend := false, swait := false }

/-- SCAN.DONE (R84, R108). The status is reported once per release; a pending wake is consumed, else the hart enters
scan-wait with the pc still at the SCAN.DONE, where an interrupt resumes. -/
def goScanDone (s : State) (h rs1 : Nat) : State :=
  let x := hartOf s h
  if !x.active then illegal s h (BitVec.ofNat 64 (rs1 % 32 * 0x8000 + 0x300B))
  else
    let s := if x.done then s else scanReport (setHart s h { x with status := wb (xr x rs1) 7 0 }) h (wb (xr x rs1) 7 0)
    if x.wakePend then done s h false 12 releaseHart
    else setHart s h (retire s { hartOf s h with done := true, swait := true, run := .scanWait, cur := none, useOld := false } 2)

/-- The rounding mode of a floating-point operation: an invalid one is illegal. -/
def rmOk (x : Hart) (op : FpOp) (rm : Nat) : Bool :=
  match op with
  | .sgnj | .sgnjn | .sgnjx | .min | .max | .feq | .flt | .fle | .fclass | .mvToInt | .mvFromInt => true
  | _ => rm ≤ 4 || (rm = 7 && wb (csr x 3) 7 5 ≤ 4)

/-- The bits of a floating-point instruction, for `mtval` (R82). -/
def fpBits (op : FpOp) (dbl : Bool) (rm rd rs1 rs2 rs3 : Nat) : Word :=
  let f := b2n dbl
  let r := fun (f7 f3 b : Nat) => encR 0x53 f3 (f7 + f) rd rs1 b
  let fma := fun (o : Nat) => encR o rm (rs3 % 32 * 4 + f) rd rs1 rs2
  match op with
  | .add => r 0x00 rm rs2
  | .sub => r 0x04 rm rs2
  | .mul => r 0x08 rm rs2
  | .div => r 0x0C rm rs2
  | .sqrt => r 0x2C rm 0
  | .sgnj => r 0x10 0 rs2
  | .sgnjn => r 0x10 1 rs2
  | .sgnjx => r 0x10 2 rs2
  | .min => r 0x14 0 rs2
  | .max => r 0x14 1 rs2
  | .feq => r 0x50 2 rs2
  | .flt => r 0x50 1 rs2
  | .fle => r 0x50 0 rs2
  | .fclass => r 0x70 1 0
  | .cvtToInt k => r 0x60 rm k
  | .cvtFromInt k => r 0x68 rm k
  | .cvtFloat => r 0x20 rm (1 - f)
  | .mvToInt => r 0x70 0 0
  | .mvFromInt => r 0x78 0 0
  | .madd => fma 0x43
  | .msub => fma 0x47
  | .nmsub => fma 0x4B
  | .nmadd => fma 0x4F

/-- A computational instruction (R80, R81, R94, R106). -/
def goInsn (s : State) (h : Nat) (c : Bool) (i : Insn) : State :=
  let x := hartOf s h
  let next := x.pc + (if c then 2 else 4)
  let cy := fun (tk : Bool) (a b : Word) => insnCycles x.active tk a b i
  match i with
  | .lui rd imm => done s h c (cy false 0 0) (fun x => setX x rd ((imm.zeroExtend 32 <<< 12).signExtend 64))
  | .auipc rd imm => done s h c (cy false 0 0) (fun x => setX x rd (x.pc + (imm.zeroExtend 32 <<< 12).signExtend 64))
  | .jal rd imm => doneTo s h (x.pc + imm.signExtend 64) (cy true 0 0) (fun x => setX x rd next)
  | .jalr rd rs1 imm => doneTo s h ((xr x rs1 + imm.signExtend 64) &&& ~~~1#64) (cy true 0 0) (fun x => setX x rd next)
  | .branch op rs1 rs2 imm =>
    if taken op (xr x rs1) (xr x rs2) then doneTo s h (x.pc + imm.signExtend 64) (cy true 0 0) id
    else done s h c (cy false 0 0) id
  | .opImm op rd rs1 imm => done s h c (cy false 0 0) (fun x => setX x rd (alu op (xr x rs1) (imm.signExtend 64)))
  | .op op rd rs1 rs2 => done s h c (cy false 0 0) (fun x => setX x rd (alu op (xr x rs1) (xr x rs2)))
  | .mul op rd rs1 rs2 => done s h c (cy false (xr x rs1) (xr x rs2)) (fun x => setX x rd (mulDiv op (xr x rs1) (xr x rs2)))
  | .fp op dbl rm rd rs1 rs2 rs3 =>
    if fpOff x || !rmOk x op rm then illegal s h (fpBits op dbl rm rd rs1 rs2 rs3)
    else
      let a := if fpFromInt op then xr x rs1 else fr x rs1
      let r := if rm = 7 then wb (csr x 3) 7 5 else rm
      let v := fpVal op dbl r a (fr x rs2) (fr x rs3)
      let fl := fpFlags op dbl r a (fr x rs2) (fr x rs3)
      done s h c (cy false a (fr x rs2)) (fun x =>
        let x := if fpToInt op then setX x rd v else fpDirty (setFr x rd v)
        if fl = 0 then x else fpDirty (setCsr x 3 (csr x 3 ||| BitVec.ofNat 64 fl)))
  | .hint => done s h c (cy false 0 0) id
  | .raw w => illegal s h (w.zeroExtend 64)

end Sys2Proof.Machine
end

