-- ==== Sys2Proof/Machine/IoCmds.lean ====
section
/-! DEFINITION. Completions of the requests that wait (R157, R159, R338, R348), the register frames of the barrier (R293), the
host's requests into the package (R330-R334), INTx messages (R347) and the inbound Yilust write (R364). -/
namespace Sys2Proof.Machine
open Sys2Proof

/-- A hart's load from an I/O range has its data. -/
def ioDeliver (s : State) (h size v : Nat) : State :=
  let x := hartOf s h
  let s := setHart s h { x with ioTag := none }
  match x.cur with
  | some (.load _ c rd _ _ _ k) => loadDone s h c rd size (v % 2 ^ (8 * size)) 14 k
  | _ => s

/-- A request that waits has its data: the hart's load, or the response of the command that made it. -/
def ioDone (s : State) (tag : Nat) (t : IoTxn) (v : Nat) : State :=
  let s := { s with iot := mdel s.iot tag }
  if t.hart = 0xFF then respond s (v % 2 ^ (8 * t.size))
  else if (hartOf s t.hart).ioTag = some tag then ioDeliver s t.hart t.size v else s

/-- HUB_COMPLETION (R157): the completion of a request the hub issued, good or in error; with a generation that is not the
one the hub holds for its tag it is discarded and counted. -/
def execHubCompletion (tag gen : Nat) (v : BitVec 64) (err : Bool) (s : State) : Res :=
  match mfind s.iot tag with
  | some t => .next (if t.gen = gen then (if err then ioFail s tag else ioDone s tag t v.toNat) else addF s (xfb 0) XFB.LATE_CPL.COUNT)
  | none => .next (addF s (xfb 0) XFB.LATE_CPL.COUNT)

/-- A header is recorded in XFB.ERR_HDR (R157). -/
def putErrHdr (s : State) (n : Nat) : State :=
  (List.range 4).foldl (fun (s : State) k => wrF s (xfb 0) XFB.ERR_HDR.HDR (n / 2 ^ (32 * k)) k) s

/-- IO_TIMEOUT (R159): the request of a tag that is not the Service Endpoint's has waited 2^EXP microseconds. -/
def execIoTimeout (tag : Nat) (s : State) : Res :=
  match mfind s.iot tag with
  | some t =>
    if t.port = 4 then .next s
    else
      let s := runTo s (t.since + 2 ^ rdF s (xfb 0) XFB.IO_TMO.EXP * 3200)
      let (n, s) := hdrOfTxn s tag t
      .next (capture (bumpTag (ioFail (putErrHdr s n) tag) tag) (xfb 0) 4)
  | none => .next s

/-- The block, view, offset and width that a register frame names (R290). -/
def frameBlk (p : Nat) : Blk := fld (p % 256 % 16)
def frameView (p : Nat) : View :=
  match bits p 15 8 with
  | 0 => .base
  | 1 => .set
  | 2 => .clear
  | _ => .toggle
def frameAddr (p : Nat) : Nat := basePage (frameBlk p) + viewNum (frameView p) * 0x1000 + bits p 27 16

/-- REG_RD (R293): the frame reaches the field die, which reads the register under the issuer's identity and answers. -/
def execRegRd (s : State) : Res :=
  match arrive s true [0x301] with
  | (none, s) => .next s
  | (some f, s) =>
    let (v, s) := regReadGo s f.who (frameBlk f.pay) (frameView f.pay) (bits f.pay 27 16) (bits f.pay 39 32) (frameAddr f.pay)
    .next (barSend s false 0x303 f.tag v)

/-- REG_WR (R293): the frame reaches the field die, which writes the register. -/
def execRegWr (s : State) : Res :=
  match arrive s true [0x302] with
  | (none, s) => .next s
  | (some f, s) => .next (regWriteGo s f.who (frameBlk f.pay) (frameView f.pay) (bits f.pay 27 16) (bits f.pay 39 32)
      (bits f.pay 127 64) (bits f.pay 135 128) (frameAddr f.pay))

/-- The value of a read from the data a frame brought: a register's bytes, or the alias words of its bits. -/
def regValue (r : BarReg) (v : Nat) : Nat :=
  let size := r.size % 16
  let x := match r.pick with
    | none => v
    | some n => v / 2 ^ n % 2 + (if size = 8 then v / 2 ^ (n + 1) % 2 * 2 ^ 32 else 0)
  x / 2 ^ (8 * (r.size / 16)) % 2 ^ (8 * size)

/-- REG_RSP (R293): the answer completes the read of its tag; of a read that has ended it is late. -/
def execRegRsp (s : State) : Res :=
  match arrive s false [0x303] with
  | (none, s) => .next s
  | (some f, s) =>
    let t := f.tag % 1024
    let late := addF s bar BAR.BAD_TYPE.LATE
    match mfind s.bar.regs t with
    | none => .next late
    | some r =>
      if f.tag / 2048 ≠ mget 0 s.ioGen (fldTag t) then .next late
      else if bit f.tag 10 then .next (barRegErr s t r)
      else
        let s := { s with bar := { s.bar with regs := mdel s.bar.regs t } }
        let v := regValue r f.pay
        .next (if r.hart = 0xFF then backSend s r.back v false
          else if (hartOf s r.hart).ioTag = some (fldTag t) then ioDeliver s r.hart (r.size % 16) v else s)

/-- FLD_REG_TIMEOUT (R293): 100 microseconds after its issue a read still waits. -/
def execFldRegTimeout (tag : Nat) (s : State) : Res :=
  match mfind s.bar.regs tag with
  | none => .next s
  | some r =>
    let s := bumpTag (runTo s (r.since + 320000)) (fldTag tag)
    .next (addF (barRegErr s tag r) bar BAR.REG_ERR.COUNT)

/-- A completion to the host (R329): of the bytes from `off` on; status 0 good, 1 Unsupported Request, 2 Request Retry. -/
def hostCpl (s : State) (tag off status : Nat) (ep : Bool) (vs : List Nat) : State := send s .host 2 ([tag, off, status, b2n ep] ++ vs)

/-- The dwords of the function's Type 0 header (R329, R330): those the spec gives contents to; `none` for another. -/
def cfgDword (s : State) (dw : Nat) : Option Nat :=
  let id := s.io.ident
  let barLo := fun (n e t : Nat) => mget 0 s.io.bars n % 2 ^ 32 / 2 ^ min e 32 * 2 ^ min e 32 + t
  let barHi := fun (n e : Nat) => mget 0 s.io.bars n % 2 ^ 32 / 2 ^ (e - 32) * 2 ^ (e - 32)
  match dw with
  | 0 => some (id % 2 ^ 32)
  | 1 => some (rdF s sep SEP.STAT.MSE * 2 + rdF s sep SEP.STAT.BME * 4 + 2 ^ 20)
  | 4 => some (barLo 4 18 4)
  | 5 => some (barHi 5 18)
  | 6 => some (barLo 6 s.io.bar2 12)
  | 7 => some (barHi 7 s.io.bar2)
  | 8 => some (barLo 8 s.io.bar4 12)
  | 9 => some (barHi 9 s.io.bar4)
  | 11 => some (id / 2 ^ 32 % 2 ^ 32)
  | 12 => some (mget 0 s.io.bars 12 % 2 ^ 32 / 2 ^ 16 * 2 ^ 16 + mget 0 s.io.bars 12 % 2)
  | _ => none

/-- A configuration read's value; what the spec leaves to the PCI Express Base Specification beyond these is open, but for
the class code above the revision. -/
def cfgRead (s : State) (dw : Nat) : Nat × State :=
  match cfgDword s dw with
  | some v => (v, s)
  | none =>
    let (v, s) := draw s
    (if dw = 2 then s.io.ident / 2 ^ 64 % 2 ^ 24 * 256 + v % 256 else v % 2 ^ 32, s)

/-- HOST_CONFIG_REQUEST (R330, R338, R340, R341): answered with Request Retry Status until the endpoint is enabled, and while a
function level reset runs. -/
def execHostConfigRequest (tag : Nat) (q : HostCfg) (s : State) : Res :=
  if rdF s sep SEP.STAT.LINK_UP = 0 then .next s
  else if !(hdrOf s sep).enable || s.io.flr then .next (hostCpl s tag 0 2 false [])
  else
    match q with
    | .read dw => let (v, s) := cfgRead s dw; .next (hostCpl s tag 0 0 false [v])
    | .command bme mse =>
      let s := wrF s sep SEP.STAT.MSE (b2n mse)
      let s := if !bme && rdF s sep SEP.STAT.BME = 1 then capture (abortHost (sepGen (wrF s sep SEP.STAT.BME 0))) sep 1
        else wrF s sep SEP.STAT.BME (b2n bme)
      .next (hostCpl s tag 0 0 false [])
    | .bar n v => .next (hostCpl (if (4 ≤ n && n ≤ 9) || n = 12 then { s with io := { s.io with bars := mput s.io.bars n v.toNat } } else s) tag 0 0 false [])
    | .msix en mask => .next (hostCpl { s with io := { s.io with msixEn := en, msixMask := mask } } tag 0 0 false [])
    | .timeout us => .next (hostCpl { s with io := { s.io with cto := us } } tag 0 0 false [])

/-- A run of bytes cut where `step` bytes end: the pieces with their addresses. -/
def cutAt (step : Nat) : Nat → Nat → Nat → List (Nat × Nat)
  | 0, _, _ => []
  | f + 1, a, n => if n = 0 then [] else let k := min n (step - a % step); (a, k) :: cutAt step f (a + k) (n - k)

/-- The bytes of a list as a number. -/
def ofBytes (bs : List Byte) : Nat := bs.foldr (fun b v => b.toNat + 256 * v) 0

/-- The slots of the Signal Plane that a poisoned write covers become uncorrectable (R219, R274). -/
def poisonView (s : State) (w : Who) (pa n : Nat) : State :=
  let a := pa - 0x0F20_0000_0000
  let v := a / 0x4000000
  ((List.range (n / 2)).map (fun j => (a + 1) / 2 * 2 % 0x4000000 + 2 * j)).foldl (fun (s : State) o =>
    let i := vw s SPL.VIEW_BASE.VALUE v + o % 0x100000 / 2
    if viewDenied s w v o true then s
    else
      let off := match o / 0x100000 % 64 with
        | 2 => pendOff s true i
        | 3 => safeOff i
        | _ => forceOff i
      { s with spl := { s.spl with bad := sIns s.spl.bad off } }) s

/-- A write by an I/O master of bytes to main memory, a view window or the alias window (R167, R274, R48), poisoned or not. -/
def winWrite (s : State) (w : Who) (pa : Nat) (bs : List Byte) (ep : Bool) : State :=
  if isMem (zoneOf s pa) then
    let s := ioWriteBytes s w pa (bs.map (·.toNat))
    if ep then poisonRange s pa bs.length else s
  else
    let view := zoneOf s pa = .view
    let s := (cutAt (if view then 8 else 4) bs.length pa bs.length).foldl (fun (s : State) e =>
      (busWrite s w e.1 e.2 (ofBytes ((bs.drop (e.1 - pa)).take e.2)) (2 ^ e.2 - 1)).2) s
    if ep && view then poisonView s w pa bs.length else s

/-- A read by the host: bytes of memory or of a view window in one completion, alias words one by one, each as a number. -/
def winRead (s : State) (w : Who) (tag pa n : Nat) : State :=
  if isMem (zoneOf s pa) then
    let ((vs, bad), s) := ioReadBytes s w pa n
    hostCpl s tag 0 0 bad vs
  else if zoneOf s pa = .view then
    let (vs, bad, s) := (cutAt 8 n pa n).foldl (fun (r : List Nat × Bool × State) e =>
      let a0 := e.1 / 2 * 2
      let (v, b, s) := viewRead r.2.2 w a0 ((e.1 + e.2 + 1) / 2 * 2 - a0)
      (r.1 ++ leBytes (v / 2 ^ (8 * (e.1 % 2))) e.2, r.2.1 || b, s)) ([], false, s)
    hostCpl s tag 0 0 bad vs
  else
    (cutAt 4 n pa n).foldl (fun (s : State) e =>
      match busRead s w e.1 e.2 [0, tag, e.1 - pa] with
      | (.val v, s) => hostCpl s tag (e.1 - pa) 0 false [v]
      | (.err, s) => hostCpl s tag (e.1 - pa) 1 false [0]
      | (.wait _, s) => s) s

/-- An Unsupported Request: a read is completed so, a posted write is dropped; `count` where R334 counts and reports it. -/
def hostUr (s : State) (tag : Nat) (wr count : Bool) : State :=
  let s := if count then aer (addF s sep SEP.UR_CNT.COUNT) 0 else s
  if wr then s else hostCpl s tag 0 1 false []

/-- The entries of the descriptor table (R332): TYPE, BAR, INDEX, FLAGS, SIZE_EXP and OFFSET. -/
def romEntry (typ b idx flags e off : Nat) : List Nat := [typ, b, idx, flags, e, 0, 0, 0] ++ leBytes off 8
def romWindow (s : State) (w : Nat) : List Nat :=
  let z := zoneOf s (winTgt s w)
  romEntry 4 (2 + 2 * rdF s sep SEP.WIN_CTRL.BAR w) w
    (rdF s sep SEP.WIN_CTRL.R w + 2 * rdF s sep SEP.WIN_CTRL.W w + 4 * b2n (z = .view) + 8 * rdF s sep SEP.WIN_CTRL.SEC w + 16 * b2n (z = .aliasWin))
    (winExp s w) (winOfs s w)

/-- The descriptor table (R332). -/
def romTable (s : State) : List Nat :=
  let ws := (List.range 32).filter (winEn s)
  let n := 3 + ws.length
  let body := [0, 0, 1, 0] ++ leBytes 0x414C5553 4 ++ leBytes (36 + 16 * n) 2 ++ [n, rdF s sep SEP.STAT.GEN]
    ++ leBytes (rdF s hub HUB.CAP_EFF_LO.CAP) 4 ++ leBytes (rdF s hub HUB.CAP_EFF_HI.CAP) 4 ++ [(mget ({} : Die) s.dies 0).rev, varCode s.variant]
    ++ leBytes s.io.romSeq 2 ++ List.replicate 8 0
    ++ romEntry 1 0 0 3 7 0 ++ romEntry 2 0 0 3 16 0x10000 ++ romEntry 3 0 0 3 9 0x20000 ++ ws.flatMap (romWindow s)
  body ++ leBytes (crc32 body) 4

/-- One piece, within a dword, of a host read of BAR0 (R331). -/
def bar0Read (s : State) (o n : Nat) : Nat × State :=
  if 0x10000 ≤ o && o < 0x10400 then
    match busRead s { num := 77 } (basePage wdn + 0xC00 + (o - 0x10000)) n [] with
    | (.val v, s) => (v, s)
    | (_, s) => (0, s)
  else if 0x20000 ≤ o && o < 0x20200 then (readBytes s.io.msix (o - 0x20000) n, s)
  else if 0x30000 ≤ o && o < 0x30008 then
    ((s.io.pend.foldl (fun a v => a + 2 ^ v) 0) / 2 ^ (8 * (o - 0x30000)) % 2 ^ (8 * n), s)
  else (0, s)

/-- One piece, within a dword, of a host write of BAR0 (R331). The pending-bit array is read-only. -/
def bar0Write (s : State) (o n x : Nat) : State :=
  if o < 0x80 then doorbell s (o / 4)
  else if 0x10000 ≤ o && o < 0x10400 then (busWrite s { num := 77 } (basePage wdn + 0xC00 + (o - 0x10000)) n x (2 ^ n - 1)).2
  else if 0x20000 ≤ o && o < 0x20200 then { s with io := { s.io with msix := writeBytes s.io.msix (o - 0x20000) n x } }
  else s

/-- HOST_WINDOW_REQUEST (R331, R332, R334, R339, R344): the host reads `len` bytes, or writes `data`, at offset `off` of BAR0, BAR2,
BAR4 or (6) the Expansion ROM; `ep` marks poisoned data. -/
def execHostWindowRequest (tag bar_ off len : Nat) (data : Option (List Byte)) (ep : Bool) (s : State) : Res :=
  let wr := data.isSome
  let n := match data with
    | some bs => bs.length
    | none => len
  if rdF s sep SEP.STAT.LINK_UP = 0 || s.io.flr || n = 0 then .next s
  else if !hostReach s then .next (hostUr s tag wr false)
  else if bar_ = 0 && off + n ≤ 0x40000 then
    let s := if ep then aer s 2 else s
    match data with
    | some bs => .next ((cutAt 4 n off n).foldl (fun (s : State) e => bar0Write s e.1 e.2 (ofBytes ((bs.drop (e.1 - off)).take e.2))) s)
    | none =>
      let (vs, s) := (cutAt 4 n off n).foldl (fun (r : List Nat × State) e =>
        let (v, s) := bar0Read r.2 e.1 e.2
        (r.1 ++ leBytes v e.2, s)) ([], s)
      .next (hostCpl s tag 0 0 false vs)
  else if bar_ = 6 && off + n ≤ 0x10000 && bit (mget 0 s.io.bars 12) 0 then
    .next (if wr then s else hostCpl s tag 0 0 false ((List.range n).map (fun j => ((romTable s)[off + j]?).getD 0)))
  else if bar_ = 2 || bar_ = 4 then
    match (List.range 32).find? (fun w => winEn s w && 2 + 2 * rdF s sep SEP.WIN_CTRL.BAR w = bar_ && decide (winOfs s w ≤ off)
        && decide (off + n ≤ winOfs s w + 2 ^ winExp s w)) with
    | none => .next (hostUr s tag wr true)
    | some w =>
      if rdF s sep (if wr then SEP.WIN_CTRL.W else SEP.WIN_CTRL.R) w = 0 then .next (hostUr s tag wr true)
      else
        let who : Who := { num := 77, sec := decide (rdF s sep SEP.WIN_CTRL.SEC w = 1) }
        let pa := winTgt s w + (off - winOfs s w)
        match data with
        | some bs => .next (winWrite (if ep then aer s 2 else s) who pa bs ep)
        | none => .next (winRead s who tag pa n)
  else .next (hostUr s tag wr false)

/-- HOST_COMPLETION (R338, R339): the host's completion of an outbound read; of a read that has ended, or of an old generation, it
is discarded and counted. Data with the poison mark, and a status that is not good, end the load in cause 5. -/
def execHostCompletion (tag gen status : Nat) (v : BitVec 64) (ep : Bool) (s : State) : Res :=
  let late := addF (countEv s sep 0x14) sep SEP.LATE_CPL.COUNT
  match mfind s.iot tag with
  | none => .next late
  | some t =>
    if t.port ≠ 4 || t.gen ≠ gen || gen % 256 ≠ rdF s sep SEP.STAT.GEN then .next late
    else if status ≠ 0 || ep then .next (ioFail s tag) else .next (ioDone s tag t v.toNat)

/-- SEP_READ_TIMEOUT (R338): the shorter of the two times has passed since the read of a tag was issued. -/
def execSepReadTimeout (tag : Nat) (s : State) : Res :=
  match mfind s.iot tag with
  | none => .next s
  | some t =>
    if t.port ≠ 4 then .next s
    else
      let s := runTo s (t.since + min (2 ^ rdF s (xfb 0) XFB.IO_TMO.EXP) s.io.cto * 3200)
      let s := bumpTag (ioFail s tag) tag
      .next (aer (capture (addF s sep SEP.TMO_CNT.COUNT) sep 5) 1)

/-- INTX_MESSAGE (R347): an INTx message of port `p` asserts or deasserts the port's wired source `x`. -/
def execIntxMessage (p x : Nat) (on : Bool) (s : State) : Res :=
  if p < 4 && x < 4 && rdF s (rcx p) RCX.LINK_CFG.UP ≠ 0 then .next (aplWire s (intxSource p x) on) else .next s

/-- RCX_COMPLETION (R345, R347, R348): a completion of port `p`; status 0 good, 1 Unsupported Request, 2 Request Retry, 4 Completer
Abort. A configuration read retried asks again, but that of the Vendor ID completes with 0x0001 (Configuration RRS Software
Visibility). -/
def execRcxCompletion (p tag gen status : Nat) (v : BitVec 64) (ep : Bool) (s : State) : Res :=
  if 4 ≤ p then .next s
  else
    let late := addF (countEv s (rcx p) 0x14) (rcx p) RCX.LATE_CPL.COUNT
    match mfind s.iot tag with
    | none => .next late
    | some t =>
      if t.port ≠ p || t.gen ≠ gen then .next late
      else match status with
        | 0 => .next (if ep then ioFail s tag else ioDone s tag t v.toNat)
        | 2 =>
          let o := (t.addr - 0x0E00_0000_0000) % 0x30_0000_0000
          if !t.cfg then .next (ioFail (addF s (rcx p) RCX.UR_CNT.COUNT) tag)
          else if o % 4096 < 4 then .next (ioDone s tag t (0xFFFF0001 / 2 ^ (8 * (o % 4))))
          else .next (rcxSend s p 1 [tag, gen, 1, t.link, o, t.size])
        | n => .next (if t.cfg && n = 1 then ioDone s tag t (2 ^ 64 - 1) else ioFail (addF s (rcx p) RCX.UR_CNT.COUNT) tag)

/-- The window of a port that takes a write of `n` bytes at offset `o` (R364). -/
def yWindow (s : State) (p o n : Nat) : Option Nat :=
  (List.range 8).find? (fun w => yEn s p w && rdF s (ylk p) YLK.WIN_CTRL.W w = 1 && decide (yOfs s p w ≤ o) && decide (o + n ≤ yOfs s p w + 2 ^ yExp s p w))

/-- YLK_WR (R364): the lines are written through an inbound window, words marked in AUX poisoned, or the message is refused and
counted; either is answered by CPL. -/
def execYlkWr (m : YHdr) (gen tag o aux : Nat) (data : List Line) (s : State) : Res :=
  .next (yRx s m 0x10 false ([o, gen, tag, aux] ++ data.map (·.toNat)) (fun (s : State) =>
    let p := m.port
    let n := 64 * data.length
    let cpl := fun (s : State) (st : Nat) => ySend s p 0x11 m.src false [gen, tag, st]
    let fits := 1 ≤ data.length && data.length ≤ 4 && o % 64 = 0 && o / 256 = (o + n - 1) / 256
    match if fits && gen = rdF s (ylk p) YLK.PORT_STAT.GEN then yWindow s p o n else none with
    | none => cpl (addF s (ylk p) YLK.BAD_MSG.COUNT) 1
    | some w =>
      let who : Who := { num := 83 + p, sec := decide (rdF s (ylk p) YLK.WIN_CTRL.SEC w = 1) }
      let a := yTgt s p w + (o - yOfs s p w)
      let s := (data.zipIdx).foldl (fun (s : State) e =>
        let s := winWrite s who (a + 64 * e.2) ((List.range 64).map (fun i => BitVec.ofNat 8 (e.1.toNat / 2 ^ (8 * i)))) false
        (List.range 8).foldl (fun (s : State) j =>
          let pa := a + 64 * e.2 + 8 * j
          if !bit aux (8 * e.2 + j) then s
          else if isMem (zoneOf s pa) then poisonRange s pa 8
          else if zoneOf s pa = .view then poisonView s who pa 8 else s) s) s
      cpl s 0))

end Sys2Proof.Machine
end

