-- ==== Sys2Proof/Machine/Ward.lean ====
section
/-! DEFINITION. The Ward (R198-R203): the check of each transaction of the open site, its forwarding, the ceiling of a window,
and what follows a violation. -/
namespace Sys2Proof.Machine
open Sys2Proof

/-- The fields of an open-site header (R198). -/
def wOp (h : Nat) : Nat := bits h 127 123
def wUnits (h : Nat) : Nat := bits h 122 120
def wTag (h : Nat) : Nat := bits h 119 110
def wBe (h : Nat) : Nat := bits h 109 102
def wStatus (h : Nat) : Nat := bits h 101 96
def wAddr (h : Nat) : Nat := bits h 95 48
/-- The bytes of memory space that a read or write of the site names. -/
def wLen (h : Nat) : Nat := if wOp h = 4 then 8 else 64 * wUnits h

/-- A Ward window in effect (R201). -/
def wardBase (s : State) (w : Nat) : Nat := rdF s wrd WRD.WIN_LO.BASE w * 4096 + rdF s wrd WRD.WIN_HI.BASE w * 2 ^ 32
def wardWin (s : State) (a n : Nat) : Option Nat :=
  (List.range 32).find? (fun w => rdF s wrd WRD.WIN_CTRL.EN w = 1 && decide (wardBase s w ≤ a)
    && decide (a + n ≤ wardBase s w + 2 ^ rdF s wrd WRD.WIN_LO.SIZE_EXP w))

/-- The tags of the site's reads that have no completion yet. -/
def wardReads (s : State) : List Nat :=
  s.io.siteRd.map (fun t => t.args.headD 0) ++ (if s.io.heldWin.isSome then (s.io.held.take 1).map (fun e => wTag e.1) else [])

/-- The format of a transaction (R198, R199): KIND 0 for a reserved field that is not 0 or a reserved STATUS, 1 for an OP, UNITS or
alignment that the site may not use. -/
def wardForm (h : Nat) : Option Nat :=
  let cpl := wOp h = 0x0A || wOp h = 0x0B
  if h % 2 ^ 48 ≠ 0 || (cpl && 2 < wStatus h) then some 0
  else if (match wOp h with
    | 0x01 | 0x03 => 1 ≤ wUnits h && wUnits h ≤ 4 && wAddr h % 64 = 0 && wAddr h / 256 = (wAddr h + 64 * wUnits h - 1) / 256
    | 0x04 => wUnits h = 1 && wAddr h % 8 = 0
    | 0x09 => wUnits h = 0
    | 0x0A | 0x0B => wUnits h ≤ 4
    | _ => false) then none else some 1

/-- The check of a transaction (R201): its window where it names memory, or the KIND of the violation. -/
def wardCheck (s : State) (h : Nat) : Except Nat (Option Nat) :=
  match wardForm h with
  | some k => .error k
  | none =>
    match wOp h with
    | 0x09 =>
      if wAddr h % 32 < profByte s.profile 7 && entEn (rdF s wrd WRD.IRQ.ENTRY (wAddr h % 32)) then .ok none else .error 5
    | 0x0A | 0x0B => if (mget [] s.io.site (wTag h)).isEmpty then .error 4 else .ok none
    | op =>
      match wardWin s (wAddr h) (wLen h) with
      | none => .error 2
      | some w =>
        if rdF s wrd (if op = 1 then WRD.WIN_CTRL.READ else if op = 3 then WRD.WIN_CTRL.WR_FULL else WRD.WIN_CTRL.WR_PART) w = 0 then .error 3
        else if op = 1 && ((wardReads s).contains (wTag h) || decide (profByte s.profile 8 + 256 * profByte s.profile 9 ≤ (wardReads s).length)) then .error 4
        else .ok (some w)

/-- A violation (R203): recorded and captured, and the site is fenced; the reads it has outstanding get no completion. -/
def wardViolate (s : State) (h k : Nat) : State :=
  let s := wrF (wrF s wrd WRD.VIOL_ADDR_LO.ADDR (wAddr h)) wrd WRD.VIOL_ADDR_HI.ADDR (wAddr h / 2 ^ 32)
  let s := wrF (wrF s wrd WRD.VIOL_INFO.OP (wOp h)) wrd WRD.VIOL_INFO.TAG (wTag h)
  let s := wrF (wrF s wrd WRD.VIOL_INFO.KIND k) wrd WRD.VIOL_INFO.VALID 1
  fenceDie (capture s wrd 0) 28 8

/-- The open site as a master (R201, R225). -/
def siteWho : Who := { num := 82 }

/-- The data of a site read, unit by unit, and the STATUS of its completion (R199): 1 where an alias word answers in error, 2 where a
word is poisoned. -/
def siteRead (s : State) (tag a : Nat) : Nat → (List Nat × Nat) × State
  | 0 => (([], 0), s)
  | n + 1 =>
    let ((v, st), s) :=
      if isMem (zoneOf s a) then
        let s := meterPath (meterPool s 82 a false) 82 (homeDie s a) 4
        let ((v, bad), s) := ioReadMem s siteWho a 64
        ((v, if bad then 2 else 0), s)
      else if zoneOf s a = .view then let (v, bad, s) := viewRead s siteWho a 64; ((v, if bad then 2 else 0), s)
      else
        (List.range 16).foldl (fun (r : (Nat × Nat) × State) j =>
          match busRead r.2 siteWho (a + 4 * j) 4 [1, tag, a % 256 / 4 + j] with
          | (.val v, s) => ((r.1.1 + v * 2 ^ (32 * j), r.1.2), s)
          | (.err, s) => ((r.1.1, 1), s)
          | (.wait _, s) => (r.1, s)) ((0, 0), s)
    let ((vs, st'), s) := siteRead s tag (a + 64) n
    ((v :: vs, max st st'), s)

/-- A transaction that passes takes effect (R199, R201). -/
def wardForward (s : State) (h data : Nat) : State :=
  let a := wAddr h
  let s := countEv s wrd 0x10
  match wOp h with
  | 0x01 =>
    let ((vs, st), s) := siteRead s (wTag h) a (wUnits h)
    { s with io := { s.io with siteRd := s.io.siteRd ++ [⟨.site, 0x0A, [wTag h, st] ++ vs⟩] } }
  | 0x03 => winWrite s siteWho a ((List.range (64 * wUnits h)).map (fun i => BitVec.ofNat 8 (data / 2 ^ (8 * i)))) false
  | 0x04 =>
    let x := data / 2 ^ (8 * (a % 64)) % 2 ^ 64
    if isMem (zoneOf s a) then
      let s := meterPath (meterPool s 82 a true) 82 4 (homeDie s a)
      if wBe h = 255 then ioWriteMem s siteWho a 8 x
      else (List.range 8).foldl (fun (s : State) i => if bit (wBe h) i then ioWriteMem s siteWho (a + i) 1 (x / 2 ^ (8 * i) % 256) else s) s
    else (busWrite s siteWho a 8 x (wBe h)).2
  | 0x09 => sendEntry s (0x600000 + a % 32) (rdF s wrd WRD.IRQ.ENTRY (a % 32))
  | _ =>
    let tag := wTag h
    let gens := mget [] s.io.site tag
    let s := { s with io := { s.io with site := if gens.length ≤ 1 then mdel s.io.site tag else mput s.io.site tag (gens.drop 1) } }
    match mfind s.iot tag with
    | some t =>
      if t.port = 5 && gens.head? = some t.gen then
        (if wOp h = 0x0B || wStatus h ≠ 0 then ioFail s tag else ioDone s tag t (data / 2 ^ (8 * (t.addr % 64)) % 2 ^ 64))
      else addF s (xfb 0) XFB.LATE_CPL.COUNT
    | none => addF s (xfb 0) XFB.LATE_CPL.COUNT

/-- A transaction in a window goes, or waits for the next regulation window (R202). -/
def wardRate (s : State) (h data w : Nat) : State :=
  let c := rdF s wrd WRD.WIN_RATE.CEIL w
  let used := mget 0 s.io.wUsed w
  if c ≠ 0 && c < used + wUnits h then
    countEv (addF { s with io := { s.io with held := (h, data) :: s.io.held, heldWin := some w } } wrd WRD.HELD.COUNT) wrd 0x11
  else wardForward { s with io := { s.io with wUsed := mput s.io.wUsed w (used + wUnits h) } } h data

/-- One transaction is checked, and dropped as a violation, held or forwarded. -/
def wardOne (s : State) (h data : Nat) : State :=
  match wardCheck s h with
  | .error k => wardViolate s h k
  | .ok (some w) => wardRate s h data w
  | .ok none => wardForward s h data

/-- Transactions in the order they came; behind one that is held all wait, and a fenced site's are dropped. -/
def wardRun (s : State) : List (Nat × Nat) → State
  | [] => s
  | e :: r =>
    if !dieUp s 28 then s
    else if s.io.heldWin.isSome then wardRun { s with io := { s.io with held := s.io.held ++ [e] } } r
    else wardRun (wardOne s e.1 e.2) r

/-- A regulation window starts (R202): what was held goes on, the first without a second check. -/
def wardWindow (s : State) : State :=
  let q := s.io.held
  let w := s.io.heldWin
  let s := { s with io := { s.io with wUsed := [], held := [], heldWin := none } }
  match q, w with
  | e :: r, some w => wardRun (wardRate s e.1 e.2 w) r
  | _, _ => s

/-- The first `n` completions of the site's reads leave (R199). -/
def siteDrain (s : State) (n : Nat) : State :=
  { s with tx := s.tx ++ s.io.siteRd.take n, io := { s.io with siteRd := s.io.siteRd.drop n } }

/-- Nothing is commanded: one tick of time passes (R70), and the completions of the open site's reads that wait leave. -/
def idle (s : State) : State := siteDrain (tick s) s.io.siteRd.length

/-- WARD_TRANSACTION (R201): a transaction of the open site arrives; how many of its reads have had their completions by then is
open. -/
def execWardTransaction (hdr : BitVec 128) (data : BitVec 2048) (s : State) : Res :=
  if !dieUp s 28 || !present s wrd then .next s
  else
    let (n, s) := draw s
    .next (wardRun (siteDrain s (n % (s.io.siteRd.length + 1))) [(hdr.toNat, data.toNat)])

end Sys2Proof.Machine
end

