-- ==== Sys2Proof/Machine/Commit.lean ====
section
/-! DEFINITION. Commit points (R40, R57-R60): the checks of each block and what follows an applied commit; scan-class
boundaries (R241, R248) and regulation windows (R228). -/
namespace Sys2Proof.Machine
open Sys2Proof

/-- The normal-world write in the shadow of a secure-held block (R59, R320). -/
def taintOf (s : State) (b : Blk) : Option Who :=
  if secHeld s b then (s.shadow.find? (fun e => keyInBlock b e.1 && e.2.normal)).map (fun e => e.2.who) else none

/-- The writer of the first normal write of a block's shadow. -/
def normalWho (s : State) (b : Blk) : Who :=
  match s.shadow.find? (fun e => keyInBlock b e.1 && e.2.normal) with
  | some e => e.2.who
  | none => {}

/-- A commit is resolved by `k`, which takes the reason that goes before the block's own checks; a refusal SECURE raises a
secure event of KIND 4 (R322). -/
def withSecure (s : State) (b : Blk) (k : State → Option Nat → State) : State :=
  match taintOf s b with
  | some w => k (secEvent s 4 (basePage b) w true) (some 5)
  | none => k s none

/-- The checks of PWR (R390). -/
def pwrCheck (s : State) (b : Blk) : Nat :=
  let t := shF s b PWR.THERM_CFG.THROT
  let h := shF s b PWR.THERM_CFG.HYST
  if t < 70 || 103 < t || h < 1 || 20 < h then 1 else 0

/-- The clusters of a CLK block whose DIV the shadow changes, and the check that none is in transition (R67). -/
def divChanged (s : State) (b : Blk) : List Nat :=
  if typeOf b = 4 && 8 ≤ b.die then (List.range 6).filter (fun n => shF s b CLK.CLU_CFG.DIV n ≠ rdF s b CLK.CLU_CFG.DIV n) else []
def clkCheck (s : State) (b : Blk) : Nat := if (divChanged s b).any (fun n => rdF s b CLK.CLU_STAT.TRANS n = 1) then 6 else 0

/-- The checks of XFB.ROUTE, in ascending order of reason (R58). -/
def xfbCheck (s : State) (b : Blk) : Nat :=
  if b.die = 0 then 0
  else
    let ds := (List.range 5).filter (fun d => d + 1 ≠ b.die)
    let pri := fun (d : Nat) => shF s b XFB.ROUTE.PRI d
    let alt := fun (d : Nat) => shF s b XFB.ROUTE.ALT d
    let out := fun (i : Nat) => i < 4 && rdF s (hng b.die i) HNG.TRAIN_STAT.STATE = 3
    if ds.any (fun d => 3 < pri d || (3 < alt d && alt d ≠ 15)) then 1
    else if ds.any (fun d => pri d = alt d) then 2
    else if ds.any (fun d => out (pri d) || out (alt d)) then 4 else 0

/-- A Ward window as the shadow has it (R204). -/
def wwEn (s : State) (w : Nat) : Bool := shF s wrd WRD.WIN_CTRL.EN w = 1
def wwExp (s : State) (w : Nat) : Nat := shF s wrd WRD.WIN_LO.SIZE_EXP w
def wwBase (s : State) (w : Nat) : Nat := shF s wrd WRD.WIN_LO.BASE w * 2 ^ 12 + shF s wrd WRD.WIN_HI.BASE w * 2 ^ 32

/-- The checks of WRD (R204). -/
def wrdCheck (s : State) : Nat :=
  let ws := List.range 32
  let on := ws.filter (wwEn s)
  let last := fun (w : Nat) => wwBase s w + 2 ^ wwExp s w - 1
  let okZone := fun (z : Zone) => match z with
    | .hbm | .ddr | .view | .aliasWin => true
    | .rootWin | .regs | .site | .unmapped => false
  if ws.any (fun w => wwExp s w < 12 || 40 < wwExp s w || wwBase s w % 2 ^ wwExp s w ≠ 0) then 1
  else if on.any (fun w => !okZone (zoneOf s (wwBase s w)) || zoneOf s (last w) ≠ zoneOf s (wwBase s w))
    || on.any (fun w => on.any (fun v => w < v && wwBase s w ≤ last v && wwBase s v ≤ last w)) then 2 else 0

/-- A setting of admission entry `n` in the shadow. -/
def seSh (s : State) (f : Field) (n : Nat) : Nat := shF s (fld 0) f 0 (1 + n)

/-- The checks of the admission table (R301): RANGE before CONFLICT. -/
def fldCheck (s : State) : Nat :=
  let ns := List.range 4096
  let on := ns.filter (fun n => seSh s FLD.SESS_CFG0.EN n = 1)
  let bad := fun (c l : Nat) => 8 < c || 16384 < l + c
  let meet := fun (lf cf : Field) => on.any (fun n => on.any (fun m => n < m && seSh s lf n < seSh s lf m + seSh s cf m && seSh s lf m < seSh s lf n + seSh s cf n))
  if ns.any (fun n => bad (seSh s FLD.SESS_CFG1.CNT n) (seSh s FLD.SESS_CFG1.LINE n) || bad (seSh s FLD.SESS_CFG2.CNT n) (seSh s FLD.SESS_CFG2.LINE n)) then 1
  else if meet FLD.SESS_CFG1.LINE FLD.SESS_CFG1.CNT || meet FLD.SESS_CFG2.LINE FLD.SESS_CFG2.CNT then 2 else 0

/-- The length of a port's gate list in 10 ns units: up to its first zero interval. -/
def gclSum (s : State) (b : Blk) : Nat :=
  (((List.range 64).map (fun n => shF s b FLD.GCL.INTERVAL n)).takeWhile (· ≠ 0)).foldl (· + ·) 0

/-- The checks of a field port (R297). -/
def portCheck (s : State) (b : Blk) : Nat :=
  let c := shF s b FLD.GCL_CYCLE.CYCLE
  if c = 0 || 1024000 < c then 1 else if gclSum s b ≠ c * 1000 then 2 else 0

def watchCheck (s : State) : Nat :=
  let p := shF s (fld 9) FLD.WATCH_CFG.PERIOD_MS
  if p = 0 || 1000 < p then 1 else 0

/-- A block's own checks (R58). -/
def ownCheck (s : State) (b : Blk) : Nat :=
  match typeOf b with
  | 4 => clkCheck s b
  | 5 => pwrCheck s b
  | 11 => xfbCheck s b
  | 13 => l3cCheck s b
  | 25 => wrdCheck s
  | 21 => if instOf b = 0 then fldCheck s else if instOf b ≤ 8 then portCheck s b else watchCheck s
  | _ => 0

/-- Sessions whose entry's EN a commit clears (R302): BYE with the generation the node holds, before the settings change. -/
def closedSess (s : State) : List Nat :=
  (s.fld.sess.filter (fun e => e.2.st ≠ 0 && se s FLD.SESS_CFG0.EN e.1 = 1 && seSh s FLD.SESS_CFG0.EN e.1 = 0)).map (·.1)
def closeSess (s : State) (n : Nat) : State :=
  let x := sessOf s n
  setSess (portSend s (se s FLD.SESS_CFG0.PORT n) 5 [n, x.gen]) n { x with st := 5, gen := (x.gen + 1) % 256 }

/-- A commit resolved with the checks of `ownCheck`, and what an applied one brings about: the DIV changes of R67, the routes in
use of R177, closed sessions, the port's role. -/
def plainCommit (s : State) (b : Blk) (ovr : Option Nat) : State :=
  let c := ovr.getD (ownCheck s b)
  if c ≠ 0 then resolve s b c
  else
    let div := divChanged s b
    let s := if b = fld 0 then (closedSess s).foldl closeSess s else s
    let s := resolve s b 0
    match typeOf b with
    | 4 => div.foldl (fun (s : State) n => dvfsStart s b.die n) s
    | 11 => if b.die = 0 then s
        else (List.range 5).foldl (fun (s : State) d => if d + 1 = b.die then s
          else wrF s b XFB.ROUTE.USING_ALT (b2n (rdF s (hng b.die (rdF s b XFB.ROUTE.PRI d)) HNG.TRAIN_STAT.STATE = 3)) d) s
    | 21 => if 1 ≤ instOf b && instOf b ≤ 8 then portRole s (instOf b - 1) else s
    | _ => s

/-- After a change of the classes, a Hold that was being left and has no class still held ends (R380). -/
def leaveCheck (s : State) : State :=
  if s.wd.leaving.isEmpty then s
  else
    let l := s.wd.leaving.filter (clsOn s).contains
    let s := { s with wd := { s.wd with leaving := l } }
    if l.isEmpty then endCode (goMode s 4 1) 0x10 stAccepted else s

/-- The armed commits of SCN and SPL (R261, R273, R376): a catch-up ends first; while the checks of a TASK_EN change are being
prepared, SCN's waits for the next commit point. -/
def scnCommit (s : State) : State :=
  if (hdrOf s scn).arm && s.chkBusy.isEmpty then leaveCheck (withSecure (catchDone s) scn scanCommit) else s
def splCommitS (s : State) : State :=
  if !(hdrOf s spl).arm then s
  else match taintOf s spl with
    | some w => splCommit (secEvent s 4 (basePage spl) w true) (some 5)
    | none => splCommit (if splCheck s = 5 then secEvent s 4 (basePage spl) (normalWho s spl) true else s) none

/-- A block is in service to resolve a commit: present, not in reset, and powered. -/
def canCommit (s : State) (b : Blk) : Bool :=
  present s b && !(hdrOf s b).resetting && (if b.die = 24 then fldUp s else powered s)

/-- The block's natural boundary is running, so its commit point is that of another command (R60). -/
def hasBoundary (s : State) (b : Blk) : Bool :=
  (hdrOf s b).enable && (match typeOf b with
    | 10 | 13 => true
    | 18 | 19 => (nextBoundary s).isSome
    | _ => false)

/-- COMMIT_POINT (R58, R60): the next TimeClk cycle, packet, frame or transaction boundary of a block whose natural boundary is
not a class boundary or a window. The admission table waits while the field firmware restarts (R310). -/
def execCommitPoint (b : Blk) (s : State) : Res :=
  if !(hdrOf s b).arm || !canCommit s b || hasBoundary s b || (b = fld 0 && s.fld.switching.isSome) then .next s
  else
    let clocked := !(hdrOf s b).enable || typeOf b = 4 || typeOf b = 5 || typeOf b = 7 || typeOf b = 18 || typeOf b = 19
    let s := if clocked then runTo s ((s.gtime / 32 + 1) * 32) else s
    match typeOf b with
    | 10 => .next (withSecure s b bwrCommit)
    | 18 => .next (scnCommit s)
    | 19 => .next (splCommitS s)
    | _ => .next (withSecure s b (fun s o => plainCommit s b o))

/-- CLASS_BOUNDARY (R241, R248, R380, R382): GTIME reaches the earliest boundary; armed commits are resolved, then every class
due there has its boundary. In Lockdown only the held OUT_FLIPs go on. -/
def execClassBoundary (s : State) : Res :=
  match nextBoundary s with
  | none => .next s
  | some t =>
    if 4 ≤ modeOf s && modeOf s ≤ 6 then
      let s := runTo s t
      let s := if (hdrOf s scn).enable then scnCommit s else s
      let s := if (hdrOf s spl).enable then splCommitS s else s
      .next (leaveCheck (boundaries s t))
    else if modeOf s = 7 && s.bar.ldHold.isSome then .next (lockdownBoundary (runTo s t) t)
    else .next s

/-- REGULATION_WINDOW_START (R228, R202, R234, R236, R238, R249, R259): meters and pacing start afresh, armed BWR and L3C commits are
resolved, capacities that changed are evaluated, lines that waited for units move, and what the Ward held goes on. -/
def execRegulationWindowStart (s : State) : Res :=
  if !powered s then .next s
  else
    let s := windowMeters (runTo s ((s.gtime / 4096 + 1) * 4096))
    let s := { s with scan := { s.scan with used := [] }, spl := { s.spl with used := 0 } }
    let s := if (hdrOf s bwr).arm && (hdrOf s bwr).enable then withSecure s bwr bwrCommit else s
    let s := (List.range 4).foldl (fun (s : State) k =>
      let b := l3c (1 + k)
      if (hdrOf s b).arm && (hdrOf s b).enable && present s b then withSecure s b (fun s o => plainCommit s b o) else s) s
    let s := (List.range 28).foldl (fun (s : State) r =>
      if effCapOf s r (rdF s bwr BWR.CAPACITY.CAP r) ≠ rdF s bwr BWR.RES_STAT.EFF_CAP r then bwEval s r else s) s
    .next (wardWindow (issuePull (issuePush (budgetCheck s))))

end Sys2Proof.Machine
end

