-- ==== Sys2Proof/Machine/Debug.lean ====
section
/-! DEFINITION. The debug module's abstract and system-bus accesses (R325-R327). -/
namespace Sys2Proof.Machine
open Sys2Proof

/-- A general or floating-point register, 0-31 and 32-63, of a halted hart. -/
def dbgGpr (x : Hart) (n : Nat) : Word := if n < 32 then xr x n else fr x (n - 32)
def dbgSetGpr (x : Hart) (n : Nat) (v : Word) : Hart := if n < 32 then setX x n v else setFr x (n - 32) v

/-- The hart as an abstract command sees it: with the privilege of debug mode (Sdext; assumption log 5). -/
def dbgView (x : Hart) : Hart := { x with priv := .m, virt := false }

/-- A hart halted in the normal world may not be turned to the secure world (R326): `dcsr.prv` keeps its value. -/
def dbgKeepPrv (x y : Hart) : Hart :=
  if x.priv ≠ .m && wb (csr y 0x7B0) 1 0 = 3 then setCsr y 0x7B0 (wset (csr y 0x7B0) 1 0 (wb (csr x 0x7B0) 1 0)) else y

/-- An access that needs the tag of a disabled world (R326): the error status, and a secure event of KIND 6. -/
def dbgDeny (s : State) (sec : Bool) (wr : Bool) : State :=
  let (n, s) := draw s
  respond (secEvent s 6 0 { num := n % 128, sec := sec } wr) 0 true

/-- A system-bus access (R325): main memory, or an I/O range, with the tag asked for; the module's master number is open. -/
def dbgBus (s : State) (pa size : Nat) (sec : Bool) (v : Option Nat) : State :=
  if !([1, 2, 4, 8] : List Nat).contains size || pa % size ≠ 0 then respond s 0 true
  else
    let (n, s) := draw s
    let w : Who := { num := n % 128, sec := sec }
    match v with
    | some x => let (ok, s) := busWrite s w pa size (x % 2 ^ (8 * size)) (2 ^ size - 1); respond s 0 (!ok)
    | none =>
      match busRead s w pa size [] with
      | (.val x, s) => respond s x
      | (.err, s) => respond s 0 true
      | (.wait _, s) => s

/-- DEBUG_ABSTRACT_ACCESS (R326): a register of a halted hart, a system-bus access with the tag of a world, or the PC sample of a
hart. The machine CSRs but those of debug mode itself belong to the secure world. -/
def execDebugAbstractAccess (h : Nat) (op : DbgOp) (s : State) : Res :=
  let x := hartOf s h
  match op with
  | .gpr n v =>
    if hartCount s ≤ h || x.run ≠ .halted || 64 ≤ n then .next (respond s 0 true)
    else if !invasiveOn s x then .next (dbgDeny s (x.priv = .m) v.isSome)
    else .next (match v with
      | some v => respond (setHart s h (dbgSetGpr x n v)) 0
      | none => respond s (dbgGpr x n).toNat)
  | .csr n v =>
    if hartCount s ≤ h || x.run ≠ .halted then .next (respond s 0 true)
    else
      let secret := x.priv ≠ .m && bits n 9 8 = 3 && !(0x7B0 ≤ n && n ≤ 0x7B3)
      if !invasiveOn s x || (secret && !dbgOn s 0) then .next (dbgDeny s (x.priv = .m || secret) v.isSome)
      else
        let y := dbgView x
        if (csrFault y n v.isSome).isSome || (iregFault y n).isSome then .next (respond s 0 true)
        else .next (match v with
          | some v =>
            let z := csrWrite s y n v
            respond (setHart s h (dbgKeepPrv x { z with priv := x.priv, virt := x.virt })) 0
          | none => respond s (csrRead s h y n).toNat)
  | .bus pa size sec v => .next (if dbgOn s (if sec then 0 else 2) then dbgBus s pa size sec v else dbgDeny s sec v.isSome)
  | .pcSample =>
    .next (respond s (if hartCount s ≤ h || !dbgOn s (if x.priv = .m then 1 else 3) then 0 else x.lastPc.toNat))

end Sys2Proof.Machine
end

