-- ==== Sys2Proof/Machine/HartCmds.lean ====
section
/-! DEFINITION. The commands of the harts: an instruction issued, and the events a waiting hart goes on at. -/
namespace Sys2Proof.Machine
open Sys2Proof

/-- The instruction a hart has in `cur` runs, or runs on, from its fetch checks. -/
def resume (s : State) (h : Nat) : State :=
  let run := fun (c : Bool) (k : State → State) => match fetchCheck s h c with
    | .error s => s
    | .ok s => k s
  match (hartOf s h).cur with
  | some (.instructionExecute _ c i) => run c (fun s => goInsn s h c i)
  | some (.load _ c rd rs1 imm size k) => run c (fun s => goLoad s h c rd rs1 imm size k)
  | some (.store _ c rs1 rs2 imm size k) => run c (fun s => goStore s h c rs1 rs2 imm size k)
  | some (.amo _ op rd rs1 rs2 size) => run false (fun s => goAmo s h op rd rs1 rs2 size)
  | some (.lr _ rd rs1 size) => run false (fun s => goLr s h rd rs1 size)
  | some (.sc _ rd rs1 rs2 size) => run false (fun s => goSc s h rd rs1 rs2 size)
  | some (.fence _) => run false (fun s => goFence s h)
  | some (.fenceI _) => run false (fun s => goFenceI s h)
  | some (.sfenceVma _ rs1 rs2) => run false (fun s => goSfence s h rs1 rs2)
  | some (.hfence _ g rs1 rs2) => run false (fun s => goHfence s h g rs1 rs2)
  | some (.cboClean _ rs1) => run false (fun s => goCbo s h .clean rs1)
  | some (.cboFlush _ rs1) => run false (fun s => goCbo s h .flush rs1)
  | some (.cboInval _ rs1) => run false (fun s => goCbo s h .inval rs1)
  | some (.csrAccess _ op n rd src) => run false (fun s => goCsr s h op n rd src)
  | some (.ecall _) => run false (fun s => goEcall s h)
  | some (.ebreak _ c) => run c (fun s => goEbreak s h)
  | some (.mret _) => run false (fun s => goMret s h)
  | some (.sret _) => run false (fun s => goSret s h)
  | some (.wfi _) => run false (fun s => goWfi s h)
  | some (.keycall _ svc) => run false (fun s => goKeycall s h svc)
  | some (.keyret _) => run false (fun s => goKeyret s h)
  | some (.syncCr _) => run false (fun s => goSyncCr s h)
  | some (.scanDone _ rs1) => run false (fun s => goScanDone s h rs1)
  | _ => s

/-- The hart's cluster is awake. -/
def clusterOn (s : State) (h : Nat) : Bool :=
  let p := (hartOf s h).core
  dieUp s (coreDie p) && domState s (coreDie p) (coreInst p) = 0

/-- A hart in WFI goes on once an interrupt is pending and enabled, whatever the global enables hold. -/
def wakeWfi (s : State) (x : Hart) : Hart :=
  if x.run = .wfi && mipOf s x &&& (csr x 0x304).toNat ≠ 0 then { x with run := .running } else x

/-- A hart issues an instruction. A hart that is not running, or that waits, issues nothing. -/
def issue (s : State) (h : Nat) (i : Instr) : State :=
  let x := wakeWfi s (hartOf s h)
  if !(h < hartCount s) || !ready x || !clusterOn s h then s
  else
    let (v, s) := if x.settle.isEmpty then (0, s) else draw s
    let x := settleTick x
    let x := { x with cur := some i, useOld := decide (v % 2 = 1) && !x.settle.isEmpty }
    boundary (resume (setHart s h x) h) h

/-- What a hart waited for has come: the store buffer empty for a trap, or the access it waits for may go on. -/
def goOn (s : State) (h : Nat) : State :=
  let x := hartOf s h
  let s := match x.trapWait with
    | some (c, tv, tv2) => if sbEmpty x then raise s h c tv tv2 else s
    | none => if x.cur.isSome && x.walk.isNone && x.miss.isNone && x.ioTag.isNone && !x.syncing then resume s h else s
  boundary s h

/-- INSTRUCTION_EXECUTE (R80, R94, R106). -/
def execInstructionExecute (h : Nat) (c : Bool) (i : Insn) (s : State) : Res := .next (issue s h (.instructionExecute h c i))
/-- LOAD (R128). -/
def execLoad (h : Nat) (c : Bool) (rd rs1 : Nat) (imm : BitVec 12) (size : Nat) (k : LoadKind) (s : State) : Res :=
  .next (issue s h (.load h c rd rs1 imm size k))
/-- STORE (R138). -/
def execStore (h : Nat) (c : Bool) (rs1 rs2 : Nat) (imm : BitVec 12) (size : Nat) (k : StoreKind) (s : State) : Res :=
  .next (issue s h (.store h c rs1 rs2 imm size k))
/-- AMO (R166). -/
def execAmo (h : Nat) (op : AmoOp) (rd rs1 rs2 size : Nat) (s : State) : Res := .next (issue s h (.amo h op rd rs1 rs2 size))
/-- LR (R166). -/
def execLr (h rd rs1 size : Nat) (s : State) : Res := .next (issue s h (.lr h rd rs1 size))
/-- SC (R166). -/
def execSc (h rd rs1 rs2 size : Nat) (s : State) : Res := .next (issue s h (.sc h rd rs1 rs2 size))
/-- FENCE (R140). -/
def execFence (h : Nat) (s : State) : Res := .next (issue s h (.fence h))
/-- FENCE.I (R141). -/
def execFenceI (h : Nat) (s : State) : Res := .next (issue s h (.fenceI h))
/-- SFENCE.VMA (R129). -/
def execSfenceVma (h rs1 rs2 : Nat) (s : State) : Res := .next (issue s h (.sfenceVma h rs1 rs2))
/-- HFENCE.VVMA and HFENCE.GVMA (R129). -/
def execHfence (h : Nat) (gvma : Bool) (rs1 rs2 : Nat) (s : State) : Res := .next (issue s h (.hfence h gvma rs1 rs2))
/-- CBO.CLEAN (R145). -/
def execCboClean (h rs1 : Nat) (s : State) : Res := .next (issue s h (.cboClean h rs1))
/-- CBO.FLUSH (R145). -/
def execCboFlush (h rs1 : Nat) (s : State) : Res := .next (issue s h (.cboFlush h rs1))
/-- CBO.INVAL (R145). -/
def execCboInval (h rs1 : Nat) (s : State) : Res := .next (issue s h (.cboInval h rs1))
/-- A CSR instruction (R89). -/
def execCsrAccess (h : Nat) (op : CsrOp) (n rd : Nat) (src : CsrSrc) (s : State) : Res := .next (issue s h (.csrAccess h op n rd src))
/-- ECALL (R97). -/
def execEcall (h : Nat) (s : State) : Res := .next (issue s h (.ecall h))
/-- EBREAK (R326). -/
def execEbreak (h : Nat) (c : Bool) (s : State) : Res := .next (issue s h (.ebreak h c))
/-- MRET (R312). -/
def execMret (h : Nat) (s : State) : Res := .next (issue s h (.mret h))
/-- SRET (R91). -/
def execSret (h : Nat) (s : State) : Res := .next (issue s h (.sret h))
/-- WFI (R107). -/
def execWfi (h : Nat) (s : State) : Res := .next (issue s h (.wfi h))
/-- KEYCALL (R314). -/
def execKeycall (h : Nat) (svc : BitVec 12) (s : State) : Res := .next (issue s h (.keycall h svc))
/-- KEYRET (R315). -/
def execKeyret (h : Nat) (s : State) : Res := .next (issue s h (.keyret h))
/-- SYNC.CR starts (R90). -/
def execSyncCr (h : Nat) (s : State) : Res := .next (issue s h (.syncCr h))
/-- SCAN.DONE (R108). -/
def execScanDone (h rs1 : Nat) (s : State) : Res := .next (issue s h (.scanDone h rs1))

/-- The L1 data cache, the victim cache and what they hold dirty leave the hart (R104, R146). The bytes are the cluster's. -/
def dropL1d (x : Hart) : Hart := { x with l1d := [], vc := [] }

/-- SYNC_CR_COMPLETE (R90, R104, R105, R146): every held and settling change is in effect. Entry to deterministic mode
empties the L1 caches and waits for the cluster voltage (R68): while it is at the P2 level nothing happens yet. The exit
leaves the hart with empty caches. -/
def execSyncCrComplete (h : Nat) (s : State) : Res :=
  let x := hartOf s h
  if !x.syncing || !sbEmpty x || x.miss.isSome then .next s
  else
    let det := wbit (csr x 0x7C0) 0
    let was := x.active
    let d := coreDie x.core
    let low := rdF s (clk d) CLK.CLU_STAT.VLEVEL (coreInst x.core) = 0
    if det && !was && low then .next s
    else
      let dcOff := !wbit (csr x 0x7C4) 0
      let icOff := !wbit (csr x 0x7C4) 1
      let vcOff := !wbit (csr x 0x7C4) 2
      let changed := det ≠ was
      let cycles := cyc x 6 none
      let s := done s h false cycles (fun x =>
        let x := { x with old := x.old.filter (fun e => e.1 = winKeyD || e.1 = winKeyF), settle := [], pend := false, syncing := false }
        let x := if changed || dcOff then dropL1d x else if vcOff then { x with vc := [] } else x
        let x := if changed || icOff then { x with l1i := [] } else x
        { x with active := det, done := if det && !was then true else x.done })
      .next (boundary (if was && !det then voidHart s h else s) h)

/-- INTERRUPT_TAKE (R102, R103, R108, R140, R321): at a boundary, with the store buffer drained, the interrupt that the
hart takes next is taken. In scan-wait it ends the wait, with the saved pc at the SCAN.DONE. -/
def execInterruptTake (h : Nat) (s : State) : Res :=
  let x := hartOf s h
  if !(h < hartCount s) || !clusterOn s h || !atBoundary x || !sbEmpty x || x.walk.isSome || x.miss.isSome
      || !(x.run = .running || x.run = .wfi || x.run = .scanWait) then .next s
  else match nextIrq s x with
    | none => .next s
    | some (c, tgt) =>
      let x := hpm s x 0x0E
      .next (boundary (setHart s h (enterTrap { x with swait := false } tgt true c 0 0 false)) h)

/-- TIMER_COMPARE (R86): GTIME runs on to the instant at which the die's time reaches the compare; the pending bit is
read from that comparison. A compare that `time` never reaches (its largest value) does nothing. -/
def execTimerCompare (h : Nat) (t : TimerKind) (s : State) : Res :=
  let x := hartOf s h
  let cmp := match t with
    | .m => csr x 0x7C8
    | .s => csr x 0x14D
    | .vs => csr x 0x24D - csr x 0x605
  let at_ := (cmp.toNat : Int) - (mget {} s.dies (coreDie x.core)).dev
  if !(h < hartCount s) || (cmp.toNat : Int) = 2 ^ 64 - 1 then .next s
  else .next (runTo s at_.toNat)

/-- HPM_OVERFLOW (R425): a counter that overflowed with OF = 0 sets OF and raises the counter-overflow interrupt. -/
def execHpmOverflow (h n : Nat) (s : State) : Res :=
  let x := hartOf s h
  if x.ovf.contains n then
    let e := 0x320 + n
    .next (setHart s h { setCsr (setCsr x e (wset (csr x e) 63 63 1)) 0x344 (wset (csr x 0x344) 13 13 1) with ovf := sDel x.ovf n })
  else .next s

/-- Bytes of one granule reach the cluster's line, the L1 holding it where it is in use. -/
def drainLine (s : State) (h : Nat) (e : SbEntry) : State := lineStore s h (e.pa / 64) e.mask e.data (e.pa % 64 / 8)

/-- The oldest entry has left the store buffer; a window change waits for it to be empty (R88). -/
def sbPop (s : State) (h : Nat) : State :=
  let x := hartOf s h
  let x := { x with sb := x.sb.drop 1 }
  setHart s h (if sbEmpty x then { x with old := mdel x.old winKeyD } else x)

/-- Streaming ends (R136): a partly gathered line goes back to be drained normally. -/
def streamEnd (x : Hart) : Hart :=
  let g := (gatherEntries x).map (fun e => { e with who := {}, sec := secureHart x })
  { x with sb := g ++ x.sb, strm := {} }

/-- The detector sees an entry that drains to cacheable memory (R136); `det` is the capability STREAM_DET (R193). -/
def streamSee (x : Hart) (e : SbEntry) (det : Bool) : Hart :=
  let st := x.strm
  let ln := e.pa / 64
  let g := e.pa % 64 / 8
  let full := e.mask = 255
  if !det || !wbit (gov x 0x7C4) 3 then (if st.on || st.count > 0 || st.gran > 0 then streamEnd x else x)
  else if full && g = 0 && (!st.on || (st.gran = 0 && ln = st.next)) then
    { x with strm := { st with line := ln, gran := 1, count := if st.gran = 0 then st.count else 0 } }
  else if full && g ≠ 0 && ln = st.line && g = st.gran then
    if g = 7 then
      let n := if st.count > 0 && ln = st.next then st.count + 1 else 1
      { x with strm := { st with gran := 0, next := ln + 1, count := n, on := st.on || 16 ≤ n } }
    else { x with strm := { st with gran := g + 1 } }
  else
    let y := streamEnd x
    if full && g = 0 && st.gather.isEmpty then { y with strm := { line := ln, gran := 1 } } else y

/-- The line is in the L1, the victim cache or the L2. -/
def lineHere (s : State) (h ln : Nat) : Bool := (l2Of s (hartCl s h) ln).isSome

/-- An entry for main memory drains (R134, R136, R138, R318). -/
def drainMem (s : State) (h : Nat) (e : SbEntry) : State :=
  let x0 := hartOf s h
  let ln := e.pa / 64
  let x1 := if e.begun then x0 else streamSee x0 e (capEff s 23)
  if x1.sb ≠ x0.sb then setHart s h x1   -- streaming ended: the gathered granules drain first
  else
    let s := setHart s h x1
    let gathering := x0.strm.on && x1.strm.on && (!x0.strm.gather.isEmpty || (e.pa % 64 = 0 && !lineHere s h ln))
    if gathering then
      let g := x1.strm.gather ++ [e.data]
      if g.length = 8 && wbAhead s (hartCl s h) ln then s
      else if g.length = 8 then
        let v := BitVec.ofNat 512 ((List.range 8).foldl (fun a i => a + (g[i]?).getD 0 * 2 ^ (64 * i)) 0)
        let s := setHart s h { x1 with strm := { x1.strm with gather := [] } }
        let s := homeServe s ⟨hartCl s h, ln, .fullWrite v, e.sec, wb (csr x1 0x7C6) 3 0⟩ .good 16
        sbPop (countEv s (hcl (clDie (hartCl s h)) (clInst (hartCl s h))) 0x15) h
      else sbPop (setHart s h { x1 with strm := { x1.strm with gather := g } }) h
    else
      let (deny, s) := lineSecret s h ln e.sec
      if deny then
        let s := sbPop s h
        setHart s h { hartOf s h with refused := none }
      else match lineReady s h ln true true with
        | (true, s) => sbPop (drainLine s h e) h
        | (false, s) =>
          let x := hartOf s h
          setHart s h { x with sb := { e with begun := true } :: x.sb.drop 1 }

/-- The oldest entry of the store buffer drains to where it goes. -/
def drainOne (s : State) (h : Nat) : State :=
  let x := hartOf s h
  match x.sb with
  | [] => s
  | e :: _ =>
    match e.tgt with
    | .ls => sbPop (lsStore s x.core e.pa e.mask e.data 8) h
    | .io =>
      let (_, s) := ioWrite s e.who e.pa e.size e.data
      sbPop s h
    | .mem => drainMem s h e

/-- STORE_BUFFER_DRAIN (R138): one entry, the oldest, drains; what waited for the drain goes on. While a blocking miss is
outstanding nothing drains (R134). -/
def execStoreBufferDrain (h : Nat) (s : State) : Res :=
  let x := hartOf s h
  if x.sb.isEmpty || x.miss.isSome || !clusterOn s h then .next s
  else .next (goOn (drainOne s h) h)

/-- L1_MISS_FILL (R134, R135, R166): the line the hart waits for is there, with write permission where it needs it: it is
installed in the L1 and the access completes. A normal access to a line that the home bank refused as secure completes
with zeros or is dropped (R318). -/
def execL1MissFill (h : Nat) (s : State) : Res :=
  let x := hartOf s h
  match x.miss with
  | none => .next s
  | some ln =>
    let cl := hartCl s h
    let ok := if x.missOwn then ownedBy s cl ln else (l2Of s cl ln).isSome
    let waker := fun (s : State) (st : Bool) =>
      if st then goOn (drainOne s h) h else goOn s h
    if ok then
      let s := setHart s h { x with miss := none, missOwn := false, missSt := false, stalled := true }
      let s := if l1On x && !x.l1d.any (fun c => c.line = ln) then l1Install s h ln false else s
      .next (waker s x.missSt)
    else
      let (sec, s) := isSecure s (ln * 64)
      if sec && !secureHart x then
        let s := setHart s h { hartOf s h with miss := none, missOwn := false, missSt := false, refused := some ln }
        .next (waker s x.missSt)
      else .next s

/-- STREAM_TIMEOUT (R136): 256 CoreClk cycles without a drain end streaming. -/
def execStreamTimeout (h : Nat) (s : State) : Res :=
  let x := hartOf s h
  .next (if x.miss.isSome then s else setHart s h (streamEnd x))

/-- WALK_READ_RESPONSE (R125-R127): the PTE the walker read. A normal walk read of a secure region receives zeros; an
error response, or uncorrectable or poisoned data, is a walk fault. -/
def execWalkReadResponse (h : Nat) (r : WalkReply) (s : State) : Res :=
  let x := hartOf s h
  match x.walk with
  | none => .next s
  | some w =>
    match r with
    | .busError => .next (boundary (walkFault s h w 0) h)
    | .ue => .next (boundary (walkFault s h w 1) h)
    | .ok =>
      let (sec, s) := match l2Of s (hartCl s h) (w.addr / 64) with
        | some l => (l.sec, s)
        | none => isSecure s w.addr
      let (v, bad, s) := if sec && !secureHart x then (0, false, secEvent s 0 w.addr (whoOf s (.hart h)) false)
        else let (v, bad) := cohRead s w.addr 8; (v, bad, s)
      if bad then .next (boundary (walkFault s h w 1) h)
      else
        let (s, ready) := if w.inG then gStep s h w v else vsStep s h w v
        .next (if ready then goOn s h else boundary s h)

/-- INTERRUPT_MESSAGE_DELIVER (R98, R99): message `n` of those in flight reaches its file, unless an earlier one of the
same source to the same file is still in flight. -/
def execInterruptMessageDeliver (n : Nat) (s : State) : Res :=
  match s.irqs[n]? with
  | none => .next s
  | some m =>
    if (s.irqs.take n).any (fun q => q.src = m.src && q.hart = m.hart && q.file = m.file) then .next s
    else
      let s := { s with irqs := s.irqs.eraseIdx n }
      let x := hartOf s m.hart
      let f := fileOf x m.file
      .next (setHart s m.hart (setFile x m.file { f with eip := if m.ident = 0 then f.eip else sIns f.eip m.ident }))

end Sys2Proof.Machine
end

