-- ==== Sys2Proof/Machine/RegCmds.lean ====
section
/-! DEFINITION. The commands that are one access to a register or to a window (R33-R60 and the register tables of the
chapters): each is the general access of Machine/RegAccess.lean at its address. -/
namespace Sys2Proof.Machine
open Sys2Proof

/-- A block a register address can name (R36), and the address of one of its registers through a view. -/
def inSpace (b : Blk) : Bool := b.die < 64 && b.slot < 65536
def regAddr (b : Blk) (v : View) (off : Nat) : Nat := basePage b + viewNum v * 0x1000 + off % 0x1000

/-- A write of `size` bytes at an address by a master; what comes back is kept as the response. -/
def busWr (s : State) (m : Master) (a size x be : Nat) : State :=
  let (ok, s) := busWrite s (whoOf s m) a size x be
  respond s 0 (!ok)

/-- A read; an answer that comes later is kept when it comes. -/
def busRd (s : State) (m : Master) (a size : Nat) : State :=
  match busRead s (whoOf s m) a size [] with
  | (.val v, s) => respond s v
  | (.err, s) => respond s 0 true
  | (.wait _, s) => s

/-- A 32-bit write, and a read, of a register. -/
def regWr (s : State) (m : Master) (b : Blk) (off x : Nat) (v : View := .base) : State :=
  if inSpace b then busWr s m (regAddr b v off) 4 x 15 else s
def regRd (s : State) (m : Master) (b : Blk) (off : Nat) (size : Nat := 4) : State :=
  if inSpace b then busRd s m (regAddr b .base off) size else s

/-- REGISTER_WRITE (R13, R36-R52): a write at an address of register space or of another I/O range, of a width, with byte
enables for an I/O master's word. -/
def execRegisterWrite (m : Master) (a : Nat) (w : Width) (v : BitVec 64) (s : State) : Res :=
  let (size, be) := match w with
    | .w8 => (1, 1)
    | .w16 => (2, 3)
    | .w32 => (4, 15)
    | .w64 => (8, 255)
    | .bytes be => (4, be.toNat)
  if isMem (zoneOf s a) then .next s
  else if (whoOf s m).hart ≠ 0xFF && a % size ≠ 0 then .next (respond s 0 true)
  else .next (busWr s m a size (v.toNat % 2 ^ (8 * size)) (if (whoOf s m).hart ≠ 0xFF then 2 ^ size - 1 else be))

/-- HUB_IPI_WRITE (R100). -/
def execHubIpiWrite (m : Master) (v : BitVec 32) (s : State) : Res := .next (regWr s m hub 0x108 v.toNat)

/-- HUB_IPI_SEC_WRITE (R100). -/
def execHubIpiSecWrite (m : Master) (v : BitVec 32) (s : State) : Res := .next (regWr s m hub 0x10c v.toNat)

/-- ROUTE_ENTRY_WRITE (R100): the entry of the block that ROUTE_SEL names. -/
def execRouteEntryWrite (m : Master) (v : BitVec 32) (s : State) : Res := .next (regWr s m hub 0x104 v.toNat)

/-- APL_SRC_WRITE (R101). -/
def execAplSrcWrite (m : Master) (k : Nat) (v : BitVec 32) (s : State) : Res :=
  .next (if k < 32 then regWr s m hub (0x180 + 4 * k) v.toNat else s)

/-- APLIC_SOURCE_EDGE (R101): the wire of source `k` becomes asserted or deasserted. -/
def execAplicSourceEdge (k : Nat) (active : Bool) (s : State) : Res := .next (if 1 ≤ k && k ≤ 27 then aplWire s k active else s)

/-- EVT_MASK_WRITE (R42, R100). -/
def execEvtMaskWrite (m : Master) (b : Blk) (v : BitVec 32) (s : State) : Res := .next (regWr s m b 0x018 v.toNat)

/-- VIEW_BIT_WRITE (R45): a write through a view. -/
def execViewBitWrite (m : Master) (b : Blk) (view : View) (off : Nat) (v : BitVec 32) (s : State) : Res :=
  .next (regWr s m b (off / 4 * 4) v.toNat view)

/-- ALIAS_WRITE (R48, R49): the alias word of bit `n` of register `r`. -/
def execAliasWrite (m : Master) (b : Blk) (r n : Nat) (v : BitVec 32) (s : State) : Res :=
  .next (if inSpace b && r < 64 && n < 32 then
    busWr s m (0x0F10_0000_0000 + b.die * 0x2000_0000 + b.slot * 0x2000 + r * 0x80 + n * 4) 4 v.toNat 15 else s)

/-- EVT_STAT_READ (R53). -/
def execEvtStatRead (m : Master) (b : Blk) (s : State) : Res := .next (regRd s m b 0x010)

/-- EVT_ACK (R53). -/
def execEvtAck (m : Master) (b : Blk) (v : BitVec 32) (s : State) : Res := .next (regWr s m b 0x014 v.toNat)

/-- CLEAR_ON_READ (R55): a base-view read. -/
def execClearOnRead (m : Master) (b : Blk) (off : Nat) (s : State) : Res := .next (regRd s m b (off / 4 * 4))

/-- HIST_SEQ_READ (R56). -/
def execHistSeqRead (m : Master) (s : State) : Res := .next (regRd s m scn 0x804)

/-- HIST_ACK (R56). -/
def execHistAck (m : Master) (v : BitVec 32) (s : State) : Res := .next (regWr s m scn 0x808 v.toNat)

/-- HIST_CFG_WRITE (R260). -/
def execHistCfgWrite (m : Master) (v : BitVec 32) (s : State) : Res := .next (regWr s m scn 0x80c v.toNat)

/-- COMMIT_ARM (R58). -/
def execCommitArm (m : Master) (b : Blk) (s : State) : Res := .next (regWr s m b 0x01c 1)

/-- COMMIT_DISCARD (R42), with or without ARM. -/
def execCommitDiscard (m : Master) (b : Blk) (arm : Bool) (s : State) : Res := .next (regWr s m b 0x01c (8 + b2n arm))

/-- SOFT_RESET (R42): written with the other bits of BLK_CTRL as the master reads them. -/
def execSoftReset (m : Master) (b : Blk) (s : State) : Res := .next (regWr s m b 0x008 (blkCtrl s b (whoOf s m) + 2))

/-- SOFT_RESET_DONE (R42): READY rises. -/
def execSoftResetDone (b : Blk) (s : State) : Res :=
  .next (if (hdrOf s b).resetting then setHdr s b { hdrOf s b with resetting := false } else s)

/-- DIR_PROBE_GO (R168). -/
def execDirProbeGo (m : Master) (d : Nat) (s : State) : Res := .next (regWr s m (dirB d) 0x148 1)

/-- RECAL_GO (R189): the register is written with GO. -/
def execRecalGo (m : Master) (d i : Nat) (v : BitVec 32) (s : State) : Res :=
  .next (if i < 16 then regWr s m (hng d i) 0x048 (v.toNat ||| 1) else s)

/-- SCRUB_GO (R222): the register is written with GO. -/
def execScrubGo (m : Master) (b : Blk) (v : BitVec 32) (s : State) : Res :=
  .next (if typeOf b = 9 then regWr s m b 0x050 (v.toNat ||| 1) else s)

/-- SCRUB_ABORT (R223): ABORT is written with GAP as it stands. -/
def execScrubAbort (m : Master) (b : Blk) (s : State) : Res :=
  .next (if typeOf b = 9 then regWr s m b 0x050 (rdF s b SCB.CTRL.GAP * 256 + 2) else s)

/-- FILL_GO (R218): the register is written with GO. -/
def execFillGo (m : Master) (v : BitVec 32) (s : State) : Res := .next (regWr s m fil 0x054 (v.toNat ||| 1))

/-- FILL_ABORT (R218): ABORT is written with HART and TARGET as they stand. -/
def execFillAbort (m : Master) (s : State) : Res :=
  .next (regWr s m fil 0x054 (rdF s fil FIL.CTRL.HART * 2 ^ 20 + rdF s fil FIL.CTRL.TARGET * 2 ^ 16 + 2))

/-- MON_SEL_WRITE (R230). -/
def execMonSelWrite (m : Master) (v : BitVec 32) (s : State) : Res := .next (regWr s m bwr 0x500 v.toNat)

/-- TS_DATA_WRITE (R243): both halves in one access. -/
def execTsDataWrite (m : Master) (v : BitVec 64) (s : State) : Res := .next (busWr s m (regAddr scn .base 0x068) 8 v.toNat 255)

/-- TS_DATA_READ (R243): both halves in one access. -/
def execTsDataRead (m : Master) (s : State) : Res := .next (regRd s m scn 0x068 8)

/-- DESC_WRITE (R267). -/
def execDescWrite (m : Master) (v : BitVec 32) (s : State) : Res := .next (regWr s m spl 0x044 v.toNat)

/-- DESC_READ (R267). -/
def execDescRead (m : Master) (s : State) : Res := .next (regRd s m spl 0x044)

/-- VIEW_WINDOW_READ (R274, R275): an access to offset `o` of the window of view `v`. -/
def execViewWindowRead (m : Master) (v o size : Nat) (s : State) : Res :=
  .next (if 64 ≤ v || 0x400_0000 ≤ o || !([1, 2, 4, 8] : List Nat).contains size || o % size ≠ 0 then s
    else if size = 1 && (whoOf s m).hart ≠ 0xFF then respond s 0 true
    else busRd s m (0x0F20_0000_0000 + v * 0x400_0000 + o) size)

/-- VIEW_WINDOW_WRITE (R274, R275), with byte enables. -/
def execViewWindowWrite (m : Master) (v o size : Nat) (x : BitVec 64) (be : BitVec 8) (s : State) : Res :=
  .next (if 64 ≤ v || 0x400_0000 ≤ o || !([1, 2, 4, 8] : List Nat).contains size || o % size ≠ 0 then s
    else if size = 1 && (whoOf s m).hart ≠ 0xFF then respond s 0 true
    else
      let be := if (whoOf s m).hart ≠ 0xFF then 2 ^ size - 1 else be.toNat % 2 ^ size
      busWr s m (0x0F20_0000_0000 + v * 0x400_0000 + o) size (x.toNat % 2 ^ (8 * size)) be)

/-- VIEW_RESET (R283) of the view that VIEW_SEL names; LOG_OVF written 1 is ignored. -/
def execViewReset (m : Master) (s : State) : Res := .next (regWr s m spl 0x110 (2 ^ 21 + 1))

/-- VIEW_RESUME (R280). -/
def execViewResume (m : Master) (s : State) : Res := .next (regWr s m spl 0x110 (2 ^ 21 + 2))

/-- LOG_OVF_CLEAR (R282). -/
def execLogOvfClear (m : Master) (s : State) : Res := .next (regWr s m spl 0x110 0)

/-- LOG_CONS_WRITE (R281). -/
def execLogConsWrite (m : Master) (v : BitVec 32) (s : State) : Res := .next (regWr s m spl 0x140 v.toNat)

/-- SPL_CTX_INV (R279). -/
def execSplCtxInv (m : Master) (v : BitVec 32) (s : State) : Res := .next (regWr s m spl 0x054 v.toNat)

/-- SREG_LO_WRITE (R319). -/
def execSregLoWrite (m : Master) (v : BitVec 32) (s : State) : Res := .next (regWr s m hub 0x244 v.toNat)

/-- SREG_HI_WRITE (R319). -/
def execSregHiWrite (m : Master) (v : BitVec 32) (s : State) : Res := .next (regWr s m hub 0x248 v.toNat)

/-- DBG_CTRL_WRITE (R327). -/
def execDbgCtrlWrite (m : Master) (v : BitVec 32) (s : State) : Res := .next (regWr s m hub 0x274 v.toNat)

/-- SEP_WIN_ENABLE (R333, R335): a write of WIN_CTRL of window `w` with EN. -/
def execSepWinEnable (m : Master) (w : Nat) (v : BitVec 32) (s : State) : Res :=
  .next (if w < 32 then regWr s m sep (0x10c + 16 * w) (v.toNat ||| 2 ^ 31) else s)

/-- HOST_IRQ_VECTOR (R340). -/
def execHostIrqVector (m : Master) (n : Nat) (s : State) : Res := .next (regWr s m sep 0x050 (n % 32))

/-- HOST_IRQ_PME (R344). -/
def execHostIrqPme (m : Master) (s : State) : Res := .next (regWr s m sep 0x050 (2 ^ 31))

/-- RCX_HOLD_WRITE (R346). -/
def execRcxHoldWrite (m : Master) (p : Nat) (v : BitVec 32) (s : State) : Res :=
  .next (if p < 16 then regWr s m (rcx p) 0x040 v.toNat else s)

/-- RCX_CTX_INV (R349). -/
def execRcxCtxInv (m : Master) (p : Nat) (v : BitVec 32) (s : State) : Res := .next (if p < 16 then regWr s m (rcx p) 0x054 v.toNat else s)

/-- COPY_GO (R365). -/
def execCopyGo (m : Master) (p : Nat) (s : State) : Res := .next (if p < 16 then regWr s m (ylk p) 0x214 1 else s)

/-- COPY_ABORT (R366). -/
def execCopyAbort (m : Master) (p : Nat) (s : State) : Res := .next (if p < 16 then regWr s m (ylk p) 0x214 2 else s)

/-- DOM_CTRL_REQUEST (R384): domain `n` of die `d`. -/
def execDomCtrlRequest (m : Master) (d n req : Nat) (s : State) : Res :=
  .next (if n < 6 then regWr s m (pwr d) (0x060 + 4 * n) (req % 4) else s)

/-- LBX_RD_SEQ_WRITE (R411). -/
def execLbxRdSeqWrite (m : Master) (v : BitVec 32) (s : State) : Res := .next (regWr s m lbx 0x044 v.toNat)

/-- LBX_RD_SLOT_WRITE (R411). -/
def execLbxRdSlotWrite (m : Master) (v : BitVec 32) (s : State) : Res := .next (regWr s m lbx 0x048 v.toNat)

/-- CHAINED_COUNTER_READ (R420): a 64-bit read of CNT_LO of counter `i`. -/
def execChainedCounterRead (m : Master) (i : Nat) (s : State) : Res := .next (if i < 8 then regRd s m ctr (0x080 + 8 * i) 8 else s)

/-- SNAP_ARM (R422). -/
def execSnapArm (m : Master) (s : State) : Res := .next (regWr s m ctr 0x108 1)

/-- L2_OP_DONE (R147): the whole-L2 operation of a cluster has visited its last set. -/
def execL2OpDone (d i : Nat) (s : State) : Res :=
  let b := hcl d i
  if 16 ≤ i || rdF s b HCL.L2_OP.BUSY = 0 || !present s b then .next s
  else
    let c := (d - 8) * 6 + i
    let s := if rdF s b HCL.L2_OP.OP = 2 then flushCluster s c else cleanCluster s c
    .next (capture (wrF (wrF s b HCL.L2_OP.OP 0) b HCL.L2_OP.BUSY 0) b 0)

end Sys2Proof.Machine
end

