-- ==== Sys2Proof/Machine/ViewDma.lean ====
section
/-! DEFINITION. The commands of the Signal Plane's own engines (R267, R277-R283): queued descriptors, the view DMA engine and
its translation cache. -/
namespace Sys2Proof.Machine
open Sys2Proof

/-- DESC_QUEUE_APPLY (R267): at the next TimeClk cycle the queued descriptors of unassigned segments take effect. -/
def execDescQueueApply (s : State) : Res :=
  let due := fun (s : State) (i : Nat) => (segClass s (i / 1024)).isNone
  if s.spl.dq.any (fun e => due s e.1) then
    let s := runTo s ((s.gtime / 32 + 1) * 32)
    .next (applyDesc s (due s))
  else .next s

/-- A view's DMA fails and stops (R280): the buffer is dropped, its header is written with FAULT where it has been written and
still translates, the fault is recorded or counted over, and the view's DMA is suspended. -/
def dmaFault (s : State) (v : Nat) (d : Dma) (e : GErr) : State :=
  let gpa := dmaNext s v d
  let s := if d.hdr then
      match gTrans s (viewWho s v) (viewHgatp s v) (dmaAddr s v d) needWrite with
      | (.ok pa, s) => dmaWrite s v pa 64 (dmaHeader v d (8 + 4 * b2n d.poison))
      | (.error _, s) => s
    else s
  let s := if rdF s spl SPL.FAULT_INFO.VALID = 1 then wrF s spl SPL.FAULT_INFO.OVER 1
    else
      let s := wrF s spl SPL.FAULT_GPA_LO.ADDR (gpa / 4096 * 4096)
      let s := wrF s spl SPL.FAULT_GPA_HI.ADDR (gpa / 2 ^ 32 % 2 ^ 18)
      let s := wrF s spl SPL.FAULT_INFO.VIEW v
      let s := wrF (wrF s spl SPL.FAULT_INFO.REASON e.1) spl SPL.FAULT_INFO.LEVEL e.2
      wrF s spl SPL.FAULT_INFO.VALID 1
  let s := capture s spl 1
  endDma (wrF s spl SPL.VIEW_CTRL.DMA_SUSP 1 0 (1 + v)) v

/-- VIEW_DMA_LINE_ISSUE (R278, R281): the engine issues the next unit of the lowest view with one left, while the window has
units; a write that fails is VIEW_DMA_FAULT's. -/
def execViewDmaLineIssue (s : State) : Res :=
  match dmaView s with
  | some (v, d) =>
    if dmaRoom s then
      match gTrans s (viewWho s v) (viewHgatp s v) (dmaNext s v d) needWrite with
      | (.ok pa, s) => .next (dmaUnit s v d pa)
      | (.error e, s) => .next (dmaFault s v d e)
    else .next s
  | none => .next s

/-- VIEW_DMA_COMPLETE (R277): the lowest view whose lines are all accepted has its header written again, with COMPLETE. -/
def execViewDmaComplete (s : State) : Res :=
  match s.spl.dma.find? (fun e => e.2.hdr && decide (dmaLines e.2 ≤ e.2.line)) with
  | some (v, d) =>
    if dmaRoom s then
      match gTrans s (viewWho s v) (viewHgatp s v) (dmaAddr s v d) needWrite with
      | (.ok pa, s) =>
        let s := dmaWrite s v pa 64 (dmaHeader v d (1 + 4 * b2n d.poison))
        .next (endDma (wrF s spl SPL.DMA_LAST.SEQ d.seq 0 (1 + v)) v)
      | (.error e, s) => .next (dmaFault s v d e)
    else .next s
  | none => .next s

/-- VIEW_DMA_FAULT (R280): the engine finds that the next write of the view it serves does not translate, or leads outside
memory; where it does neither, there is no fault. -/
def execViewDmaFault (s : State) : Res :=
  match dmaView s with
  | some (v, d) =>
    match gTrans s (viewWho s v) (viewHgatp s v) (dmaNext s v d) needWrite with
    | (.ok _, _) => .next s
    | (.error e, t) => .next (dmaFault t v d e)
  | none => .next s

/-- SPL_CTX_INV_DONE (R279): the translations of the VMID, or all, are gone. -/
def execSplCtxInvDone (s : State) : Res :=
  match s.spl.inv with
  | none => .next s
  | some v =>
    let tlb := s.spl.tlb.filter (fun t => match v with
      | none => false
      | some m => t.vmid != m)
    .next (wrF { s with spl := { s.spl with inv := none, tlb := tlb } } spl SPL.CTX_INV.BUSY 0)

end Sys2Proof.Machine
end

