-- ==== Sys2Proof/Machine/Dispatch.lean ====
section
/-! DEFINITION. The dispatch: one arm per constructor of `Instr`, each one direct call of its meaning. -/
namespace Sys2Proof.Machine
open Sys2Proof

/-- The effect of a command on everything but the queue. -/
def exec (i : Instr) (s : State) : Host.Outcome State Fault Refusal :=
  match i with
  | .instructionExecute h c idx => Sys2Proof.Machine.execInstructionExecute h c idx s
  | .load h c rd rs1 imm size k => Sys2Proof.Machine.execLoad h c rd rs1 imm size k s
  | .store h c rs1 rs2 imm size k => Sys2Proof.Machine.execStore h c rs1 rs2 imm size k s
  | .amo h op rd rs1 rs2 size => Sys2Proof.Machine.execAmo h op rd rs1 rs2 size s
  | .lr h rd rs1 size => Sys2Proof.Machine.execLr h rd rs1 size s
  | .sc h rd rs1 rs2 size => Sys2Proof.Machine.execSc h rd rs1 rs2 size s
  | .fence h => Sys2Proof.Machine.execFence h s
  | .fenceI h => Sys2Proof.Machine.execFenceI h s
  | .sfenceVma h rs1 rs2 => Sys2Proof.Machine.execSfenceVma h rs1 rs2 s
  | .hfence h gvma rs1 rs2 => Sys2Proof.Machine.execHfence h gvma rs1 rs2 s
  | .cboClean h rs1 => Sys2Proof.Machine.execCboClean h rs1 s
  | .cboFlush h rs1 => Sys2Proof.Machine.execCboFlush h rs1 s
  | .cboInval h rs1 => Sys2Proof.Machine.execCboInval h rs1 s
  | .csrAccess h op n rd src => Sys2Proof.Machine.execCsrAccess h op n rd src s
  | .ecall h => Sys2Proof.Machine.execEcall h s
  | .ebreak h c => Sys2Proof.Machine.execEbreak h c s
  | .mret h => Sys2Proof.Machine.execMret h s
  | .sret h => Sys2Proof.Machine.execSret h s
  | .wfi h => Sys2Proof.Machine.execWfi h s
  | .keycall h svc => Sys2Proof.Machine.execKeycall h svc s
  | .keyret h => Sys2Proof.Machine.execKeyret h s
  | .syncCr h => Sys2Proof.Machine.execSyncCr h s
  | .syncCrComplete h => Sys2Proof.Machine.execSyncCrComplete h s
  | .scanDone h rs1 => Sys2Proof.Machine.execScanDone h rs1 s
  | .interruptTake h => Sys2Proof.Machine.execInterruptTake h s
  | .timerCompare h t => Sys2Proof.Machine.execTimerCompare h t s
  | .hpmOverflow h n => Sys2Proof.Machine.execHpmOverflow h n s
  | .l1MissFill h => Sys2Proof.Machine.execL1MissFill h s
  | .storeBufferDrain h => Sys2Proof.Machine.execStoreBufferDrain h s
  | .streamTimeout h => Sys2Proof.Machine.execStreamTimeout h s
  | .walkReadResponse h r => Sys2Proof.Machine.execWalkReadResponse h r s
  | .interruptMessageDeliver n => Sys2Proof.Machine.execInterruptMessageDeliver n s
  | .hubIpiWrite m v => Sys2Proof.Machine.execHubIpiWrite m v s
  | .hubIpiSecWrite m v => Sys2Proof.Machine.execHubIpiSecWrite m v s
  | .routeEntryWrite m v => Sys2Proof.Machine.execRouteEntryWrite m v s
  | .aplSrcWrite m k v => Sys2Proof.Machine.execAplSrcWrite m k v s
  | .aplicSourceEdge k active => Sys2Proof.Machine.execAplicSourceEdge k active s
  | .evtMaskWrite m b v => Sys2Proof.Machine.execEvtMaskWrite m b v s
  | .registerWrite m a w v => Sys2Proof.Machine.execRegisterWrite m a w v s
  | .viewBitWrite m b view off v => Sys2Proof.Machine.execViewBitWrite m b view off v s
  | .aliasWrite m b r n v => Sys2Proof.Machine.execAliasWrite m b r n v s
  | .evtStatRead m b => Sys2Proof.Machine.execEvtStatRead m b s
  | .evtAck m b v => Sys2Proof.Machine.execEvtAck m b v s
  | .clearOnRead m b off => Sys2Proof.Machine.execClearOnRead m b off s
  | .histSeqRead m => Sys2Proof.Machine.execHistSeqRead m s
  | .histAck m v => Sys2Proof.Machine.execHistAck m v s
  | .histCfgWrite m v => Sys2Proof.Machine.execHistCfgWrite m v s
  | .commitArm m b => Sys2Proof.Machine.execCommitArm m b s
  | .commitDiscard m b arm => Sys2Proof.Machine.execCommitDiscard m b arm s
  | .commitPoint b => Sys2Proof.Machine.execCommitPoint b s
  | .softReset m b => Sys2Proof.Machine.execSoftReset m b s
  | .softResetDone b => Sys2Proof.Machine.execSoftResetDone b s
  | .rootLock d us => Sys2Proof.Machine.execRootLock d us s
  | .refLoss d => Sys2Proof.Machine.execRefLoss d s
  | .lockdownHoldExpire => Sys2Proof.Machine.execLockdownHoldExpire s
  | .syncPulse devs => Sys2Proof.Machine.execSyncPulse devs s
  | .dvfsRaiseDone d n => Sys2Proof.Machine.execDvfsRaiseDone d n s
  | .dvfsSwitch d n => Sys2Proof.Machine.execDvfsSwitch d n s
  | .dvfsLowerDone d n => Sys2Proof.Machine.execDvfsLowerDone d n s
  | .powerOnReset brown st => Sys2Proof.Machine.execPowerOnReset brown st s
  | .bootStart f => Sys2Proof.Machine.execBootStart f s
  | .bootMemoryReady f => Sys2Proof.Machine.execBootMemoryReady f s
  | .bootImageLoaded img => Sys2Proof.Machine.execBootImageLoaded img s
  | .hartResetDone h => Sys2Proof.Machine.execHartResetDone h s
  | .dieReadmit d f => Sys2Proof.Machine.execDieReadmit d f s
  | .swapPark h => Sys2Proof.Machine.execSwapPark h s
  | .swapParkTimeout h => Sys2Proof.Machine.execSwapParkTimeout h s
  | .swapComplete h => Sys2Proof.Machine.execSwapComplete h s
  | .homeRequest r e => Sys2Proof.Machine.execHomeRequest r e s
  | .ioRequest m line op pclass => Sys2Proof.Machine.execIoRequest m line op pclass s
  | .snoop cl line => Sys2Proof.Machine.execSnoop cl line s
  | .latchWindowEnd cl line => Sys2Proof.Machine.execLatchWindowEnd cl line s
  | .snoopResponse cl line => Sys2Proof.Machine.execSnoopResponse cl line s
  | .retryBackoffExpire cl line e => Sys2Proof.Machine.execRetryBackoffExpire cl line e s
  | .pendingServe line e => Sys2Proof.Machine.execPendingServe line e s
  | .writeBack cl line => Sys2Proof.Machine.execWriteBack cl line s
  | .hubCompletion tag gen v err => Sys2Proof.Machine.execHubCompletion tag gen v err s
  | .ioTimeout tag => Sys2Proof.Machine.execIoTimeout tag s
  | .domainWakeDone d n => Sys2Proof.Machine.execDomainWakeDone d n s
  | .flitHeaderUe d => Sys2Proof.Machine.execFlitHeaderUe d s
  | .dirProbeGo m d => Sys2Proof.Machine.execDirProbeGo m d s
  | .dirProbeDone d => Sys2Proof.Machine.execDirProbeDone d s
  | .hingeTrainAttempt d idx f => Sys2Proof.Machine.execHingeTrainAttempt d idx f s
  | .hingeAttemptRetry d idx => Sys2Proof.Machine.execHingeAttemptRetry d idx s
  | .retrainRequest d idx f => Sys2Proof.Machine.execRetrainRequest d idx f s
  | .recalGo m d idx v => Sys2Proof.Machine.execRecalGo m d idx v s
  | .recalAuto d idx md => Sys2Proof.Machine.execRecalAuto d idx md s
  | .recalDone d idx ok => Sys2Proof.Machine.execRecalDone d idx ok s
  | .hingeCrcFail d idx => Sys2Proof.Machine.execHingeCrcFail d idx s
  | .hingeReplayRate d idx md => Sys2Proof.Machine.execHingeReplayRate d idx md s
  | .hingeReplayExhausted d idx md => Sys2Proof.Machine.execHingeReplayExhausted d idx md s
  | .verticalPortFail d => Sys2Proof.Machine.execVerticalPortFail d s
  | .openSiteProfileRead p => Sys2Proof.Machine.execOpenSiteProfileRead p s
  | .wardTransaction hdr data => Sys2Proof.Machine.execWardTransaction hdr data s
  | .openSiteTime => Sys2Proof.Machine.execOpenSiteTime s
  | .ddrChannelLoss c => Sys2Proof.Machine.execDdrChannelLoss c s
  | .resyncDone st => Sys2Proof.Machine.execResyncDone st s
  | .scrubGo m b v => Sys2Proof.Machine.execScrubGo m b v s
  | .scrubAbort m b => Sys2Proof.Machine.execScrubAbort m b s
  | .scrubLine b f => Sys2Proof.Machine.execScrubLine b f s
  | .scrubDone b => Sys2Proof.Machine.execScrubDone b s
  | .fillGo m v => Sys2Proof.Machine.execFillGo m v s
  | .fillAbort m => Sys2Proof.Machine.execFillAbort m s
  | .fillDone => Sys2Proof.Machine.execFillDone s
  | .regulationWindowStart => Sys2Proof.Machine.execRegulationWindowStart s
  | .monSelWrite m v => Sys2Proof.Machine.execMonSelWrite m v s
  | .classBoundary => Sys2Proof.Machine.execClassBoundary s
  | .taskRelease => Sys2Proof.Machine.execTaskRelease s
  | .delayedRelease => Sys2Proof.Machine.execDelayedRelease s
  | .taskDeadline => Sys2Proof.Machine.execTaskDeadline s
  | .tsDataWrite m v => Sys2Proof.Machine.execTsDataWrite m v s
  | .tsDataRead m => Sys2Proof.Machine.execTsDataRead m s
  | .taskCheckPrepDone => Sys2Proof.Machine.execTaskCheckPrepDone s
  | .descWrite m v => Sys2Proof.Machine.execDescWrite m v s
  | .descRead m => Sys2Proof.Machine.execDescRead m s
  | .descQueueApply => Sys2Proof.Machine.execDescQueueApply s
  | .viewWindowRead m v o size => Sys2Proof.Machine.execViewWindowRead m v o size s
  | .viewWindowWrite m v o size x be => Sys2Proof.Machine.execViewWindowWrite m v o size x be s
  | .viewDmaLineIssue => Sys2Proof.Machine.execViewDmaLineIssue s
  | .viewDmaComplete => Sys2Proof.Machine.execViewDmaComplete s
  | .viewDmaFault => Sys2Proof.Machine.execViewDmaFault s
  | .viewReset m => Sys2Proof.Machine.execViewReset m s
  | .viewResume m => Sys2Proof.Machine.execViewResume m s
  | .logOvfClear m => Sys2Proof.Machine.execLogOvfClear m s
  | .logConsWrite m v => Sys2Proof.Machine.execLogConsWrite m v s
  | .splCtxInv m v => Sys2Proof.Machine.execSplCtxInv m v s
  | .splCtxInvDone => Sys2Proof.Machine.execSplCtxInvDone s
  | .link => Sys2Proof.Machine.execLink s
  | .retry => Sys2Proof.Machine.execRetry s
  | .barrierReplayLimit => Sys2Proof.Machine.execBarrierReplayLimit s
  | .inLine => Sys2Proof.Machine.execInLine s
  | .outLine => Sys2Proof.Machine.execOutLine s
  | .safeLine => Sys2Proof.Machine.execSafeLine s
  | .outFlip => Sys2Proof.Machine.execOutFlip s
  | .segMap => Sys2Proof.Machine.execSegMap s
  | .barrierTime dev => Sys2Proof.Machine.execBarrierTime dev s
  | .regRd => Sys2Proof.Machine.execRegRd s
  | .regWr => Sys2Proof.Machine.execRegWr s
  | .regRsp => Sys2Proof.Machine.execRegRsp s
  | .fldRegTimeout tag => Sys2Proof.Machine.execFldRegTimeout tag s
  | .fldEvent => Sys2Proof.Machine.execFldEvent s
  | .watchWake => Sys2Proof.Machine.execWatchWake s
  | .fwData err => Sys2Proof.Machine.execFwData err s
  | .fwAck => Sys2Proof.Machine.execFwAck s
  | .barrierChannelFail => Sys2Proof.Machine.execBarrierChannelFail s
  | .barrierTrainAttempt mask => Sys2Proof.Machine.execBarrierTrainAttempt mask s
  | .presend c => Sys2Proof.Machine.execPresend c s
  | .fieldHello p node req inL outL boot => Sys2Proof.Machine.execFieldHello p node req inL outL boot s
  | .cycIn p n gen lines slots => Sys2Proof.Machine.execCycIn p n gen lines slots s
  | .bye p n gen => Sys2Proof.Machine.execBye p n gen s
  | .sessionLostTimeout n => Sys2Proof.Machine.execSessionLostTimeout n s
  | .sessionRemovedCleanup n => Sys2Proof.Machine.execSessionRemovedCleanup n s
  | .announceExpire idx => Sys2Proof.Machine.execAnnounceExpire idx s
  | .fieldLocalBoundary c => Sys2Proof.Machine.execFieldLocalBoundary c s
  | .gmAnnounce p prio tie => Sys2Proof.Machine.execGmAnnounce p prio tie s
  | .ptpSyncSend p => Sys2Proof.Machine.execPtpSyncSend p s
  | .fieldPortLinkChange p up => Sys2Proof.Machine.execFieldPortLinkChange p up s
  | .watchWakeTimer => Sys2Proof.Machine.execWatchWakeTimer s
  | .watchPollTimeout => Sys2Proof.Machine.execWatchPollTimeout s
  | .fieldFwRestartDone ok => Sys2Proof.Machine.execFieldFwRestartDone ok s
  | .vfldOutOfRange => Sys2Proof.Machine.execVfldOutOfRange s
  | .vfldInRange => Sys2Proof.Machine.execVfldInRange s
  | .sregLoWrite m v => Sys2Proof.Machine.execSregLoWrite m v s
  | .sregHiWrite m v => Sys2Proof.Machine.execSregHiWrite m v s
  | .sregPropagateDone => Sys2Proof.Machine.execSregPropagateDone s
  | .dbgCtrlWrite m v => Sys2Proof.Machine.execDbgCtrlWrite m v s
  | .debugHaltRequest h => Sys2Proof.Machine.execDebugHaltRequest h s
  | .debugResume h => Sys2Proof.Machine.execDebugResume h s
  | .debugAbstractAccess h op => Sys2Proof.Machine.execDebugAbstractAccess h op s
  | .hostConfigRequest tag q => Sys2Proof.Machine.execHostConfigRequest tag q s
  | .hostWindowRequest tag bar_ off len data ep => Sys2Proof.Machine.execHostWindowRequest tag bar_ off len data ep s
  | .doorbellWrite n => Sys2Proof.Machine.execDoorbellWrite n s
  | .sepWinEnable m w v => Sys2Proof.Machine.execSepWinEnable m w v s
  | .hostCompletion tag gen status v ep => Sys2Proof.Machine.execHostCompletion tag gen status v ep s
  | .sepReadTimeout tag => Sys2Proof.Machine.execSepReadTimeout tag s
  | .hostIrqVector m n => Sys2Proof.Machine.execHostIrqVector m n s
  | .hostIrqPme m => Sys2Proof.Machine.execHostIrqPme m s
  | .msixPendingSend => Sys2Proof.Machine.execMsixPendingSend s
  | .bmeClear => Sys2Proof.Machine.execBmeClear s
  | .flr => Sys2Proof.Machine.execFlr s
  | .flrDone => Sys2Proof.Machine.execFlrDone s
  | .perstAssert => Sys2Proof.Machine.execPerstAssert s
  | .hotReset => Sys2Proof.Machine.execHotReset s
  | .sepLinkDown => Sys2Proof.Machine.execSepLinkDown s
  | .dstateChange d3 => Sys2Proof.Machine.execDstateChange d3 s
  | .deviceRequest p link rid a len data ep => Sys2Proof.Machine.execDeviceRequest p link rid a len data ep s
  | .deviceMsi p link rid data => Sys2Proof.Machine.execDeviceMsi p link rid data s
  | .intxMessage p x on => Sys2Proof.Machine.execIntxMessage p x on s
  | .rcxCompletion p tag gen status v ep => Sys2Proof.Machine.execRcxCompletion p tag gen status v ep s
  | .rcxLinkDown p l => Sys2Proof.Machine.execRcxLinkDown p l s
  | .rcxHoldWrite m p v => Sys2Proof.Machine.execRcxHoldWrite m p v s
  | .rcxCtxInv m p v => Sys2Proof.Machine.execRcxCtxInv m p v s
  | .rcxCtxInvDone p => Sys2Proof.Machine.execRcxCtxInvDone p s
  | .ylkLinkUp p rtt full => Sys2Proof.Machine.execYlkLinkUp p rtt full s
  | .ylkTrainRetry p => Sys2Proof.Machine.execYlkTrainRetry p s
  | .ylkLinkDown p => Sys2Proof.Machine.execYlkLinkDown p s
  | .ylkReplayLimit p => Sys2Proof.Machine.execYlkReplayLimit p s
  | .ylkHelloTimer => Sys2Proof.Machine.execYlkHelloTimer s
  | .ylkHello m gt sel role mgr dist var serial => Sys2Proof.Machine.execYlkHello m gt sel role mgr dist var serial s
  | .ylkLeave m reason => Sys2Proof.Machine.execYlkLeave m reason s
  | .managerElectTimeout => Sys2Proof.Machine.execManagerElectTimeout s
  | .memberTimeout n => Sys2Proof.Machine.execMemberTimeout n s
  | .orphanTimeout => Sys2Proof.Machine.execOrphanTimeout s
  | .ylkTimeTimer => Sys2Proof.Machine.execYlkTimeTimer s
  | .ylkTime m t => Sys2Proof.Machine.execYlkTime m t s
  | .ylkDelayTimer => Sys2Proof.Machine.execYlkDelayTimer s
  | .delayReq m t => Sys2Proof.Machine.execDelayReq m t s
  | .delayRsp m sent got => Sys2Proof.Machine.execDelayRsp m sent got s
  | .catchupDone => Sys2Proof.Machine.execCatchupDone s
  | .settingsTimer => Sys2Proof.Machine.execSettingsTimer s
  | .settings m epoch cfg => Sys2Proof.Machine.execSettings m epoch cfg s
  | .ylkIrq m hart file ident => Sys2Proof.Machine.execYlkIrq m hart file ident s
  | .ylkWr m gen tag o aux data => Sys2Proof.Machine.execYlkWr m gen tag o aux data s
  | .ylkCpl m gen tag status => Sys2Proof.Machine.execYlkCpl m gen tag status s
  | .copyGo m p => Sys2Proof.Machine.execCopyGo m p s
  | .copyAbort m p => Sys2Proof.Machine.execCopyAbort m p s
  | .pairReq m => Sys2Proof.Machine.execPairReq m s
  | .pairAck m => Sys2Proof.Machine.execPairAck m s
  | .aliveTimer => Sys2Proof.Machine.execAliveTimer s
  | .alive m => Sys2Proof.Machine.execAlive m s
  | .replLine m c k line slots => Sys2Proof.Machine.execReplLine m c k line slots s
  | .replImg m force line slots => Sys2Proof.Machine.execReplImg m force line slots s
  | .replDesc m ds => Sys2Proof.Machine.execReplDesc m ds s
  | .replSess m rs => Sys2Proof.Machine.execReplSess m rs s
  | .replEnd m c k count => Sys2Proof.Machine.execReplEnd m c k count s
  | .grantCutoff c => Sys2Proof.Machine.execGrantCutoff c s
  | .grant m c b => Sys2Proof.Machine.execGrant m c b s
  | .handover m c b => Sys2Proof.Machine.execHandover m c b s
  | .yield m => Sys2Proof.Machine.execYield m s
  | .takeover m => Sys2Proof.Machine.execTakeover m s
  | .mode c => Sys2Proof.Machine.execMode c s
  | .powerFailAssert => Sys2Proof.Machine.execPowerFailAssert s
  | .powerFailTimeout => Sys2Proof.Machine.execPowerFailTimeout s
  | .mainRailsInRange => Sys2Proof.Machine.execMainRailsInRange s
  | .mainRailOutOfRange => Sys2Proof.Machine.execMainRailOutOfRange s
  | .vstbyOutOfRange => Sys2Proof.Machine.execVstbyOutOfRange s
  | .brownout st => Sys2Proof.Machine.execBrownout st s
  | .refclkAbsent st => Sys2Proof.Machine.execRefclkAbsent st s
  | .domCtrlRequest m d n req => Sys2Proof.Machine.execDomCtrlRequest m d n req s
  | .domainStateReached d n => Sys2Proof.Machine.execDomainStateReached d n s
  | .gpio0WakeEdge => Sys2Proof.Machine.execGpio0WakeEdge s
  | .i3cWake => Sys2Proof.Machine.execI3cWake s
  | .thermalSample temps => Sys2Proof.Machine.execThermalSample temps s
  | .powerSample w => Sys2Proof.Machine.execPowerSample w s
  | .info c => Sys2Proof.Machine.execInfo c s
  | .clLeave c => Sys2Proof.Machine.execClLeave c s
  | .hartStart c => Sys2Proof.Machine.execHartStart c s
  | .hartPark c => Sys2Proof.Machine.execHartPark c s
  | .hartReset c => Sys2Proof.Machine.execHartReset c s
  | .swap c => Sys2Proof.Machine.execSwap c s
  | .fenceCommand c => Sys2Proof.Machine.execFenceCommand c s
  | .dieReset c => Sys2Proof.Machine.execDieReset c s
  | .warmReset c => Sys2Proof.Machine.execWarmReset c s
  | .fwStage c => Sys2Proof.Machine.execFwStage c s
  | .fwSwitch c => Sys2Proof.Machine.execFwSwitch c s
  | .fwHealthy => Sys2Proof.Machine.execFwHealthy s
  | .fwHealthTimeout => Sys2Proof.Machine.execFwHealthTimeout s
  | .cfgRead c => Sys2Proof.Machine.execCfgRead c s
  | .cfgStage c => Sys2Proof.Machine.execCfgStage c s
  | .cfgCommit c => Sys2Proof.Machine.execCfgCommit c s
  | .lbxRead c => Sys2Proof.Machine.execLbxRead c s
  | .sealRead c => Sys2Proof.Machine.execSealRead c s
  | .sealClear c => Sys2Proof.Machine.execSealClear c s
  | .lifeRead c => Sys2Proof.Machine.execLifeRead c s
  | .fuse c => Sys2Proof.Machine.execFuse c s
  | .lockstepMismatch => Sys2Proof.Machine.execLockstepMismatch s
  | .wardenSramUe => Sys2Proof.Machine.execWardenSramUe s
  | .watchdogExpire => Sys2Proof.Machine.execWatchdogExpire s
  | .managementPauseEnd => Sys2Proof.Machine.execManagementPauseEnd s
  | .lockboxRecordWrite => Sys2Proof.Machine.execLockboxRecordWrite s
  | .lifetimeCheckpoint => Sys2Proof.Machine.execLifetimeCheckpoint s
  | .lbxRdSeqWrite m v => Sys2Proof.Machine.execLbxRdSeqWrite m v s
  | .lbxRdSlotWrite m v => Sys2Proof.Machine.execLbxRdSlotWrite m v s
  | .lbxLoadDone => Sys2Proof.Machine.execLbxLoadDone s
  | .counterOverflow b idx => Sys2Proof.Machine.execCounterOverflow b idx s
  | .chainedCounterRead m idx => Sys2Proof.Machine.execChainedCounterRead m idx s
  | .snapArm m => Sys2Proof.Machine.execSnapArm m s
  | .snapshotCopy => Sys2Proof.Machine.execSnapshotCopy s
  | .snapDone => Sys2Proof.Machine.execSnapDone s
  | .bwWindowStart m => Sys2Proof.Machine.execBwWindowStart m s
  | .powerFailDeassert => Sys2Proof.Machine.execPowerFailDeassert s
  | .perstDeassert => Sys2Proof.Machine.execPerstDeassert s
  | .sepLinkUp speed width => Sys2Proof.Machine.execSepLinkUp speed width s
  | .rcxLinkUp p l => Sys2Proof.Machine.execRcxLinkUp p l s
  | .l2OpDone d idx => Sys2Proof.Machine.execL2OpDone d idx s
  | .badBarrierFrame toHost crc => Sys2Proof.Machine.execBadBarrierFrame toHost crc s
  | .barrierLinkTimer => Sys2Proof.Machine.execBarrierLinkTimer s
  | .ylkCrcFail p => Sys2Proof.Machine.execYlkCrcFail p s
  | .barrierLossHandover => Sys2Proof.Machine.execBarrierLossHandover s
  | .announcementsStop p => Sys2Proof.Machine.execAnnouncementsStop p s
  | .jtagWarmReset => Sys2Proof.Machine.execJtagWarmReset s
  | .jtagImageWritten fw ver crc => Sys2Proof.Machine.execJtagImageWritten fw ver crc s
  | .deviceErrorMessage p link => Sys2Proof.Machine.execDeviceErrorMessage p link s
  | .supplyDroop r => Sys2Proof.Machine.execSupplyDroop r s

end Sys2Proof.Machine
end

