-- ==== Sys2Proof/Machine/Step.lean ====
section
/-! DEFINITION. The step of the block: the command at the front of the queue, or one unit of time. -/
namespace Sys2Proof.Machine
open Sys2Proof

/-- One step: the command at the front of the queue runs with the queue's rest; on an empty queue time passes by one tick
(assumption log 19). -/
def step (s : State) : Host.Outcome State Fault Refusal :=
  match s.pending with
  | [] => .next (idle s)
  | c :: r => exec c { s with pending := r }

/-- The state with the command that a word spells at the front of its queue; as it is where the word spells none. -/
def State.withFetchWord (s : State) (nbits w : Nat) : State :=
  match decodeTableWord nbits w with
  | some c => { s with pending := c :: s.pending }
  | none => s

end Sys2Proof.Machine
end

