-- ==== Sys2Proof/Safety.lean ====
section
/-! DEFINITION. The terms that the statements about this machine are made in: a command that answers a next state, what a
command leaves alone, what it means that an event was raised, and when a hart may issue an instruction. -/
namespace Sys2Proof.Machine
open Sys2Proof

/-- The command answers a next state, and `P` holds of it. -/
def gives (c : Instr) (s : State) (P : State → Prop) : Prop := ∃ t, exec c s = .next t ∧ P t

/-- Nothing differs but registers, block headers, interrupt messages on their way, and the wakes these start (R160, R384). -/
def regsOnly (s t : State) : Prop := t = { s with fields := t.fields, hdrs := t.hdrs, irqs := t.irqs, doms := t.doms }

/-- Registers and headers of no other block than those named differ. -/
def blocksOnly (bs : List Blk) (s t : State) : Prop :=
  (∀ k, (∀ b ∈ bs, keyInBlock b k = false) → mfind t.fields k = mfind s.fields k)
    ∧ ∀ c, (∀ b ∈ bs, bkey c ≠ bkey b) → hdrOf t c = hdrOf s c

/-- The frame of what acts on registers: only those of the named blocks, and the wake counters of the hub's fabric block that
a message to a sleeping cluster moves (R160), differ. -/
def regFrame (bs : List Blk) (s t : State) : Prop := regsOnly s t ∧ blocksOnly (xfb 0 :: bs) s t

/-- Event `n` of a block is pending. -/
def raised (s : State) (b : Blk) (n : Nat) : Prop := (hdrOf s b).pend.getLsbD n = true

/-- Two states hold the same in main memory, caches and local stores. -/
def sameMemory (s t : State) : Prop :=
  t.dram = s.dram ∧ t.poison = s.poison ∧ t.l2 = s.l2 ∧ t.l3 = s.l3 ∧ t.lstore = s.lstore ∧ t.lsBad = s.lsBad

/-- The memories are in their canonical form: addresses rising, no listed byte equal to what an unlisted one reads. -/
def memoriesWf (s : State) : Prop := memWf s.dram = true ∧ memWf s.lstore = true ∧ memWf s.scan.ts = true ∧ memWf s.spl.arr = true

/-- The register port of a block is reached by its address: a block of the directory that is present and answers in the present
mode (R51, R383), and an address map with room for no more DDR5 than R206 admits. -/
def portOpen (s : State) (b : Blk) : Prop := inSpace b = true ∧ s.ddrExp ≤ 42 ∧ answers s b = true

/-- The master of an access is not held by the guard of a field (R52). -/
def mayUse (s : State) (m : Master) (b : Blk) (f : Field) (n : Nat) : Prop := denied s b f n (whoOf s m) true = false

/-- The hart with an instruction taken up. -/
def issuing (s : State) (h : Nat) (i : Instr) : State := setHart s h { hartOf s h with cur := some i, useOld := false }

/-- A hart may issue an instruction whose fetch succeeds at once: it runs and waits for nothing, its cluster is awake, no CSR
write is settling, nobody waits to park, gate, halt or step it, and the fetch meets no trigger, trap, walk or fill. -/
def canIssue (s : State) (h : Nat) (c : Bool) (i : Instr) : Prop :=
  h < hartCount s ∧ ready (hartOf s h) = true ∧ clusterOn s h = true ∧ (hartOf s h).settle = [] ∧ (hartOf s h).deferred = []
    ∧ (hartOf s h).haltReq = false ∧ (hartOf s h).stepping = false ∧ wbit (csr (hartOf s h) 0x7B0) 2 = false
    ∧ fetchCheck (issuing s h i) h c = .ok (issuing s h i)

/-- Hart `h` alone has changed, and but for `mcycle` and `minstret` it is now `y`. -/
def hartNow (s t : State) (h : Nat) (y : Hart) : Prop :=
  t = { s with harts := t.harts } ∧ (∀ j, j ≠ h → hartOf t j = hartOf s j)
    ∧ hartOf t h = { y with csr := (hartOf t h).csr }
    ∧ ∀ n, n ≠ 0xB00 → n ≠ 0xB02 → csr (hartOf t h) n = csr y n

/-- Hart `h` has executed an instruction: it alone has changed, its pc is `p`, and otherwise it is as `y` says. -/
def ran (s t : State) (h : Nat) (p : Word) (y : Hart) : Prop :=
  hartNow s t h { y with pc := p, cur := none, stalled := false, refused := none, useOld := false, lastPc := (hartOf s h).pc }

/-- Hart `h` alone has changed: it has taken an exception in mode `tgt` (3 M, 1 HS, 2 VS) by the standard trap entry (R97): the
address of the instruction, the cause and the trap value are saved, the previous privilege and interrupt enable are stacked,
interrupts of that mode are off, and control is at the handler's address. Its general and floating-point registers stand. -/
def trapped (s t : State) (h tgt cause : Nat) (tval : Word) : Prop :=
  let x := hartOf s h
  let y := hartOf t h
  t = { s with harts := t.harts } ∧ (∀ j, j ≠ h → hartOf t j = hartOf s j) ∧ y.x = x.x ∧ y.f = x.f ∧ y.run = .running ∧ y.cur = none
    ∧ if tgt = 3 then
        y.priv = .m ∧ y.virt = false ∧ y.pc = csr x 0x305 &&& ~~~3#64 ∧ csr y 0x341 = x.pc ∧ csr y 0x342 = BitVec.ofNat 64 cause
          ∧ csr y 0x343 = tval ∧ wb (csr y 0x300) 12 11 = privCode x.priv ∧ wb (csr y 0x300) 7 7 = wb (csr x 0x300) 3 3
          ∧ wb (csr y 0x300) 3 3 = 0 ∧ wb (csr y 0x300) 39 39 = b2n x.virt
      else if tgt = 1 then
        y.priv = .s ∧ y.virt = false ∧ y.pc = csr x 0x105 &&& ~~~3#64 ∧ csr y 0x141 = x.pc ∧ csr y 0x142 = BitVec.ofNat 64 cause
          ∧ csr y 0x143 = tval ∧ wb (csr y 0x300) 8 8 = privCode x.priv ∧ wb (csr y 0x300) 5 5 = wb (csr x 0x300) 1 1
          ∧ wb (csr y 0x300) 1 1 = 0 ∧ wb (csr y 0x600) 7 7 = b2n x.virt
      else
        y.priv = .s ∧ y.virt = true ∧ y.pc = csr x 0x205 &&& ~~~3#64 ∧ csr y 0x241 = x.pc ∧ csr y 0x242 = BitVec.ofNat 64 cause
          ∧ csr y 0x243 = tval ∧ wb (csr y 0x200) 8 8 = privCode x.priv ∧ wb (csr y 0x200) 5 5 = wb (csr x 0x200) 1 1
          ∧ wb (csr y 0x200) 1 1 = 0

/-- The length of an instruction: 2 bytes compressed, else 4. -/
def insnLen (c : Bool) : Word := if c then 2 else 4

/-- A command of a code waits on mailbox channel `c` to be taken up: the Warden runs and serves the mailbox, and no other channel has a
command in progress (R398, R413). -/
def asked (s : State) (c code tag : Nat) : Prop :=
  c < 3 ∧ (chanOfW s c).asked = some (code, tag) ∧ s.wd.pause = false ∧ modeOf s ≠ 0 ∧ ∀ e, e < 3 → e ≠ c → (chanOfW s e).code = 0

/-- The state with the command taken up (R398): BUSY, its TAG, an empty result. -/
def takenUp (s : State) (c code tag : Nat) (names : List Nat) : State :=
  putRsp (setChan (wrF (wrF s wdn (chTagF c) tag) wdn (chBusyF c) 1) c
    { chanOfW s c with asked := none, code := code, names := names, arg := 0 }) c 0 (List.replicate 64 0)

/-- The command of channel `c` has reached the final status `st`, and its DONE event is pending (R398, R399). -/
def answered (t : State) (c st : Nat) : Prop :=
  rdF t wdn (chBusyF c) = 0 ∧ rdF t wdn (chStatF c) = st ∧ raised t wdn c ∧ (chanOfW t c).asked = none ∧ (chanOfW t c).code = 0

/-- The command of channel `c` is in progress and shows PENDING. -/
def pendingOn (t : State) (c code : Nat) : Prop :=
  rdF t wdn (chBusyF c) = 1 ∧ rdF t wdn (chStatF c) = 2 ∧ (chanOfW t c).asked = none ∧ (chanOfW t c).code = code

/-- Nothing differs but registers, headers, messages, the wakes these start, and what the Warden keeps of its channels. -/
def mailOnly (s t : State) : Prop :=
  t = { s with fields := t.fields, hdrs := t.hdrs, irqs := t.irqs, doms := t.doms, wd := { s.wd with chans := t.wd.chans } }

/-- The package is in mode `m`, entered for `cause` (R377). -/
def nowMode (t : State) (m cause : Nat) : Prop := modeOf t = m ∧ rdF t (pwr 0) PWR.MODE.CAUSE = cause ∧ raised t (pwr 0) 0

/-- Everything outside the always-on domain has lost its contents: harts are in their reset state, caches and local stores empty (R379,
R382). -/
def dark (t : State) : Prop := t.l2 = [] ∧ t.l3 = [] ∧ t.lstore = [] ∧ ∀ h, hartOf t h = resetHart (hartOf t h)

/-- The package has gone to Lockdown for fatal condition `cond`, which is recorded (R378, R382, R409). -/
def lockedDown (s t : State) (cond cause : Nat) : Prop :=
  nowMode t 7 cause ∧ dark t
    ∧ (s.lbq.length < 256 → ∃ r, r ∈ t.lbq ∧ r.code = 0xF0 ∧ r.gtime = s.gtime ∧ r.mode = modeOf s ∧ r.pay.take 4 = [cond, 0, 0, 0])

/-- A counting register has risen by one, or stands at its largest value (R12). -/
def counted (s t : State) (b : Blk) (f : Field) : Prop := rdF t b f = min (2 ^ (f.hi + 1 - f.lo) - 1) (rdF s b f + 1)

/-- The next frame of a direction of the barrier to arrive is `f`, of type `typ` (R291). -/
def nextFrame (s : State) (toField : Bool) (typ : Nat) (f : BFrame) : Prop :=
  (dirOfBar s toField).out[(dirOfBar s toField).got]? = some f ∧ f.typ = typ ∧ (dirOfBar s toField).retry = false

/-- The state in which that frame has been received. -/
def frameIn (s : State) (toField : Bool) : State := setDir s toField { dirOfBar s toField with got := (dirOfBar s toField).got + 1 }

/-- A frame is on its way over the barrier, or waits there for a credit. -/
def onWay (t : State) (toField : Bool) (typ tag pay : Nat) : Prop :=
  ∃ f, f ∈ (dirOfBar t toField).out ++ (dirOfBar t toField).wait ∧ f.typ = typ ∧ f.tag = tag ∧ f.pay = pay

/-- The barrier has gone down at the present instant: nothing is on its way and no register read of the field die waits (R292, R293). -/
def barrierLost (s t : State) : Prop :=
  rdF t bar BAR.LINK_STAT.STATE = 0 ∧ rdF t bar BAR.LINK_STAT.CH_OK = 0 ∧ t.bar.toField = {} ∧ t.bar.toHost = {} ∧ t.bar.links = []
    ∧ t.bar.retries = [] ∧ t.bar.regs = [] ∧ t.bar.downAt = some s.gtime ∧ (rdF s bar BAR.LINK_STAT.STATE ≠ 3 → raised t bar 0)

/-- A Yilust message reaches this package: the port is up, the header good, and it is a broadcast or addressed here (R355, R356). -/
def forMe (s : State) (m : YHdr) : Prop := ylkUp s m.port = true ∧ m.bad = false ∧ (m.bcast = true ∨ m.dst = myPos s)

/-- A pair message comes from the partner on a port that carries them (R355, R368). -/
def fromPair (s : State) (m : YHdr) : Prop :=
  ylkUp s m.port = true ∧ m.bad = false ∧ rdF s (ylk m.port) YLK.PORT_CFG.PAIR ≠ 0 ∧ fromPartner s m = true

/-- The state in which a pair message of this instant has been heard (R369). -/
def pairHeard (s : State) : State := { s with cl := { s.cl with lastPair := s.gtime } }

end Sys2Proof.Machine
end

