-- ==== Sys2Proof/Certificates/Slice0/Obligations.lean ====
section
/-! DEFINITION. The statements about this machine, for the provers. A timed event's command runs GTIME on to its instant, the model's
choice of assumption log 4. The rules that a docstring names in parentheses are the ones the statement is drawn from. -/
open Sys2Proof Sys2Proof.Machine

/-- A step with a command at the front of the queue is that command's effect on the state with the rest of the queue (the queue is the model's: assumption
log 19). -/
def Obligations.StepRunsFrontCommand : Prop :=
  ∀ (c : Instr) (r : List Instr) (s : State), s.pending = c :: r → step s = exec c { s with pending := r }

/-- With no command waiting a step lets one unit of time pass (that it is one unit is the model's choice: assumption log 19). GTIME stands still while
Off, rises by the 32 units of a reference edge in Standby and Watch and by one elsewhere, by 1,024 while catching up, and by none or two at each 64th
unit of a slew. The harts and the memories stand, and the waiting completions of the open site's reads leave (R70, R72, R201, R362). -/
def Obligations.EmptyQueuePassesTime : Prop :=
  ∀ (s : State), s.pending = [] → ∃ t, step s = .next t ∧ t.pending = [] ∧ t.harts = s.harts ∧ sameMemory s t ∧ t.tx = s.tx ++ s.io.siteRd ∧ t.io.siteRd = []
    ∧ (modeOf s = 0 → t.gtime = s.gtime) ∧ (modeOf s = 1 ∨ modeOf s = 2 → t.gtime = s.gtime + 32)
    ∧ (3 ≤ modeOf s →
      (∀ g, s.cl.catchTo = some g → t.gtime = s.gtime + (if s.gtime + 1024 < g then 1024 else 1))
      ∧ (s.cl.catchTo = none → (s.cl.slew = false ∨ s.cl.phase < 63) → t.gtime = s.gtime + 1)
      ∧ (s.cl.catchTo = none → s.cl.slew = true → 63 ≤ s.cl.phase → t.cl.phase = 0 ∧ t.gtime = (if 0 < s.cl.dev then s.gtime else s.gtime + 2)))

/-- The state after reset: an SX-240-F as shipped, just after the power-on reset of its always-on domain. GTIME is 0, the package is in Standby with the
change of mode captured, no command waits, the harts are in their reset state, memories hold zeros in canonical form, the power cycle is counted and
durable, and every register of a block other than PWR and YLK of the hub holds its reset value. It is what POWER_ON_RESET leaves of a package as
shipped that is Off (R70, R74, R377, R412; what MRAM holds as shipped is assumption log 20, Standby as the state after reset assumption log 18). -/
def Obligations.StateAfterReset : Prop :=
  let s := State.reset
  s.pending = [] ∧ s.gtime = 0 ∧ modeOf s = 1 ∧ raised s (pwr 0) 0 ∧ (∀ h, hartOf s h = {}) ∧ s.l2 = [] ∧ s.l3 = []
    ∧ memoriesWf s ∧ (∀ a, byteAt s.dram a = 0 ∧ byteAt s.lstore a = 0 ∧ byteAt s.scan.ts a = 0 ∧ byteAt s.spl.arr a = 0)
    ∧ mget 0 s.life (7 * 4096) = 1 ∧ s.wd.lifeCk = s.life
    ∧ (∀ k, keyInBlock (pwr 0) k = false → keyInBlock (ylk 0) k = false → mfind s.fields k = none)
    ∧ exec (.powerOnReset false ⟨0, 0, false⟩) { State.blank .f240 with fields := [(fkey (pwr 0) PWR.MODE.MODE 0 0, 0)], dies := [(24, { st := 1 })], wd := shippedWarden } = .next s

/-- Every command of the table answers a next state in every state: none faults and none is refused. -/
def Obligations.EveryCommandCompletes : Prop :=
  ∀ (c : Instr) (s : State), ∃ t, exec c s = .next t

/-- No step changes the queue but by taking its front, and none changes the variant of the package (R1). -/
def Obligations.StepTakesFrontOnly : Prop :=
  ∀ (s t : State), step s = .next t → t.pending = s.pending.tail ∧ t.variant = s.variant

/-- GTIME never falls and is never set back by a step, whatever the command, but by the power-on reset of the always-on domain: the commands that lead to
one are POWER_ON_RESET, BROWNOUT and REFCLK_ABSENT (R70). Where it rests on a choice of the model: assumption log 4. -/
def Obligations.GtimeNeverFalls : Prop :=
  ∀ (s t : State), step s = .next t →
    (∀ b st r, s.pending ≠ .powerOnReset b st :: r) → (∀ st r, s.pending ≠ .brownout st :: r) → (∀ st r, s.pending ≠ .refclkAbsent st :: r) → s.gtime ≤ t.gtime

/-- Main memory, the local stores, the task store and the signal array keep their canonical form over every step: addresses rising, and no listed byte
equal to what an unlisted address reads as. -/
def Obligations.MemoriesStayCanonical : Prop :=
  ∀ (s t : State), memoriesWf s → step s = .next t → memoriesWf t

/-- A computational instruction writes its result to `rd`, moves the pc past itself or to its target, and changes nothing else but the cycle and
instruction counts (R80, R81); undefined bits raise an illegal-instruction exception with those bits (R82). Where it rests on a choice of the model:
assumption log 2. -/
def Obligations.ComputationWritesRd : Prop :=
  ∀ (s : State) (h : Nat) (c : Bool) (i : Insn), canIssue s h c (.instructionExecute h c i) →
    let x := hartOf s h
    let p := x.pc + insnLen c
    let sx (imm : BitVec 20) : Word := (imm.zeroExtend 32 <<< 12).signExtend 64
    match i with
    | .lui rd imm => gives (.instructionExecute h c i) s fun t => ran s t h p (setX x rd (sx imm))
    | .auipc rd imm => gives (.instructionExecute h c i) s fun t => ran s t h p (setX x rd (x.pc + sx imm))
    | .opImm op rd rs1 imm => gives (.instructionExecute h c i) s fun t => ran s t h p (setX x rd (alu op (xr x rs1) (imm.signExtend 64)))
    | .op op rd rs1 rs2 => gives (.instructionExecute h c i) s fun t => ran s t h p (setX x rd (alu op (xr x rs1) (xr x rs2)))
    | .mul op rd rs1 rs2 => gives (.instructionExecute h c i) s fun t => ran s t h p (setX x rd (mulDiv op (xr x rs1) (xr x rs2)))
    | .hint => gives (.instructionExecute h c i) s fun t => ran s t h p x
    | .jal rd imm => gives (.instructionExecute h c i) s fun t => ran s t h (x.pc + imm.signExtend 64) (setX x rd p)
    | .jalr rd rs1 imm => gives (.instructionExecute h c i) s fun t => ran s t h ((xr x rs1 + imm.signExtend 64) &&& ~~~1#64) (setX x rd p)
    | .branch op rs1 rs2 imm => gives (.instructionExecute h c i) s fun t =>
        ran s t h (if taken op (xr x rs1) (xr x rs2) then x.pc + imm.signExtend 64 else p) x
    | .fp op dbl rm rd rs1 rs2 rs3 =>
        let a := if fpFromInt op then xr x rs1 else fr x rs1
        let r := if rm = 7 then wb (csr x 3) 7 5 else rm
        let v := fpVal op dbl r a (fr x rs2) (fr x rs3)
        let fl := fpFlags op dbl r a (fr x rs2) (fr x rs3)
        let y := if fpToInt op then setX x rd v else fpDirty (setFr x rd v)
        fpOff x = false → rmOk x op rm = true → gives (.instructionExecute h c i) s fun t =>
          ran s t h p (if fl = 0 then y else fpDirty (setCsr y 3 (csr y 3 ||| BitVec.ofNat 64 fl)))
    | .raw w => sbEmpty x = true → gives (.instructionExecute h c i) s fun t =>
        hartNow s t h (enterTrap { x with stalled := false, refused := none, useOld := false, missSt := false, missOwn := false }
          (excTarget x 2) false 2 (w.zeroExtend 64) 0 false)

/-- In normal mode a load that hits the hart's L1 takes its bytes from the line, sign- or zero-extended as its form says, with no other effect (R80, R133,
R139). In normal mode a store to cacheable memory becomes an entry of the store buffer; nothing else of the machine changes (R138). Where it rests on
a choice of the model: assumption log 5. -/
def Obligations.LoadsAndStores : Prop :=
  (∀ (s : State) (h : Nat) (c : Bool) (rd rs1 : Nat) (imm : BitVec 12) (size : Nat) (k : LoadKind) (pa : Nat),
    let i := Instr.load h c rd rs1 imm size k
    let u := issuing s h i
    let y := hartOf u h
    let hyp := k = .hlv true ∨ k = .hlv false ∨ k = .hlvx
    let va := xr y rs1 + (if hyp then 0 else imm.signExtend 64)
    let e := effOf y .load (decide hyp) (k = .hlvx)
    canIssue s h c i → y.active = false → (k = .fp → fpOff y = false) → (hyp → hypFault y = none) →
    va.toNat % size = 0 → trigHit y .load va = none → translate u h .load va e = .ok (pa, u) → paCheck u h .load va pa e false = .ok u →
    isIo (zoneOf u pa) = false → inWin y .load pa = false → forward y pa size = .none →
    lineSecret u h (pa / 64) (secureHart y) = (false, u) → lineReady u h (pa / 64) false false = (true, u) → (lineLoad u h pa size).2 = false →
    gives i s fun t => ran s t h ((hartOf s h).pc + insnLen c) (loadResult (hartOf s h) rd size (lineLoad s h pa size).1 k))
  ∧ (∀ (s : State) (h : Nat) (c : Bool) (rs1 rs2 : Nat) (imm : BitVec 12) (size : Nat) (k : StoreKind) (pa : Nat),
    let i := Instr.store h c rs1 rs2 imm size k
    let u := issuing s h i
    let y := hartOf u h
    let va := xr y rs1 + (if k = .hsv then 0 else imm.signExtend 64)
    let e := effOf y .store (k = .hsv) false
    let v := (if k = .fp then fr y rs2 else xr y rs2).toNat % 2 ^ (8 * size)
    canIssue s h c i → y.active = false → (k = .fp → fpOff y = false) → (k = .hsv → hypFault y = none) →
    va.toNat % size = 0 → trigHit y .store va = none → translate u h .store va e = .ok (pa, u) → paCheck u h .store va pa e false = .ok u →
    isIo (zoneOf u pa) = false → inWin y .store pa = false → y.sb = [] →
    gives i s fun t => ran s t h ((hartOf s h).pc + insnLen c)
      { hartOf s h with sb := [{ pa := pa / 8 * 8, mask := accMask pa size, data := v * 2 ^ (8 * (pa % 8)), tgt := .mem, size := size,
                                 sec := secureHart (hartOf s h), who := whoOf s (.hart h), begun := false }] })

/-- An atomic on a line the hart's cluster owns: AMO returns the old value and leaves the new one in the line, LR returns the value and reserves the line,
SC stores and returns 0 while its reservation holds and otherwise stores nothing and returns 1 (R95, R166). Where it rests on a choice of the model:
assumption log 5. -/
def Obligations.AtomicsOnOwnedLine : Prop :=
  (∀ (s : State) (h : Nat) (op : AmoOp) (rd rs1 rs2 size pa : Nat),
    let i := Instr.amo h op rd rs1 rs2 size
    let u := issuing s h i
    canIssue s h false i → (hartOf u h).active = false → atomicAt u h rs1 size false true = .ok (.mem pa, u) →
    gives i s fun t =>
      let old := extend size false (lineLoad s h pa size).1
      let new := (amoVal op size old (xr (hartOf s h) rs2)).toNat % 2 ^ (8 * size)
      t.l2 = (lineStore s h (pa / 64) (accMask pa size) (new * 2 ^ (8 * (pa % 8))) (pa % 64 / 8)).l2
        ∧ t = { s with l2 := t.l2, harts := t.harts } ∧ (∀ n, xr (hartOf t h) n = if n = rd ∧ rd ≠ 0 then old else xr (hartOf s h) n)
        ∧ (hartOf t h).pc = (hartOf s h).pc + 4)
  ∧ (∀ (s : State) (h rd rs1 size pa : Nat),
    let i := Instr.lr h rd rs1 size
    let u := issuing s h i
    canIssue s h false i → atomicAt u h rs1 size true true = .ok (.mem pa, u) →
    gives i s fun t => ran s t h ((hartOf s h).pc + 4)
      { setX (hartOf s h) rd (extend size false (lineLoad s h pa size).1) with resv := some (pa / 64) })
  ∧ (∀ (s : State) (h rd rs1 rs2 size pa : Nat),
    let i := Instr.sc h rd rs1 rs2 size
    let u := issuing s h i
    canIssue s h false i → atomicAt u h rs1 size false false = .ok (.mem pa, u) →
    ((hartOf s h).resv ≠ some (pa / 64) → gives i s fun t => ran s t h ((hartOf s h).pc + 4) { setX (hartOf s h) rd 1 with resv := none })
    ∧ ((hartOf s h).resv = some (pa / 64) → gives i s fun t =>
      t.l2 = (lineStore s h (pa / 64) (accMask pa size) ((xr (hartOf s h) rs2).toNat % 2 ^ (8 * size) * 2 ^ (8 * (pa % 8))) (pa % 64 / 8)).l2
        ∧ t = { s with l2 := t.l2, harts := t.harts } ∧ (hartOf t h).resv = none
        ∧ (∀ n, xr (hartOf t h) n = if n = rd ∧ rd ≠ 0 then 0 else xr (hartOf s h) n) ∧ (hartOf t h).pc = (hartOf s h).pc + 4))

/-- With the store buffer drained, FENCE does nothing more, FENCE.I empties the L1 instruction cache and lets the fetch see the present local-store
window, and SFENCE.VMA and the HFENCEs remove from the three TLBs of the hart exactly the translations that their operands name (R88, R129, R140,
R141). Where it rests on a choice of the model: assumption log 5. -/
def Obligations.FencesDrainAndEmpty : Prop :=
  ∀ (s : State) (h : Nat),
    let x := hartOf s h
    let p := x.pc + 4
    sbEmpty x = true →
    (canIssue s h false (.fence h) → gives (.fence h) s fun t => ran s t h p x)
    ∧ (canIssue s h false (.fenceI h) → gives (.fenceI h) s fun t => ran s t h p { x with l1i := [], old := mdel x.old winKeyF })
    ∧ (∀ rs1 rs2, canIssue s h false (.sfenceVma h rs1 rs2) →
        x.priv = .m ∨ (x.priv = .s ∧ wbit (csr x (if x.virt then 0x600 else 0x300)) 20 = false) →
        let hit (e : Tlb) : Bool := e.virt == x.virt && (!x.virt || e.vmid = wb (csr x 0x680) 57 44)
          && (rs1 = 0 || decide (e.va / 2 ^ e.exp = (xr x rs1).toNat / 2 ^ e.exp))
          && (rs2 = 0 || (e.asid = (xr x rs2).toNat % 65536 && !bit e.perm 5))
        (x.priv = .m → x.virt = false) →
        gives (.sfenceVma h rs1 rs2) s fun t => ran s t h p
          { x with itlb := x.itlb.filter (fun e => !hit e), dtlb := x.dtlb.filter (fun e => !hit e), l2tlb := x.l2tlb.filter (fun e => !hit e) })
    ∧ (∀ rs1 rs2, canIssue s h false (.hfence h false rs1 rs2) → x.virt = false → x.priv ≠ .u →
        let hit (e : Tlb) : Bool := e.virt && e.vmid = wb (csr x 0x680) 57 44
          && ((rs1 = 0 || decide (e.va / 2 ^ e.exp = (xr x rs1).toNat / 2 ^ e.exp))
          && (rs2 = 0 || (e.asid = (xr x rs2).toNat % 65536 && !bit e.perm 5)))
        gives (.hfence h false rs1 rs2) s fun t => ran s t h p
          { x with itlb := x.itlb.filter (fun e => !hit e), dtlb := x.dtlb.filter (fun e => !hit e), l2tlb := x.l2tlb.filter (fun e => !hit e) })
    ∧ (∀ rs1 rs2, canIssue s h false (.hfence h true rs1 rs2) → x.virt = false → x.priv ≠ .u → (x.priv = .s → wbit (csr x 0x300) 20 = false) →
        let hit (e : Tlb) : Bool := e.virt && (rs1 = 0 || decide (e.gpa / 2 ^ e.exp = 4 * (xr x rs1).toNat / 2 ^ e.exp))
          && (rs2 = 0 || e.vmid = (xr x rs2).toNat % 2 ^ 14)
        gives (.hfence h true rs1 rs2) s fun t => ran s t h p
          { x with itlb := x.itlb.filter (fun e => !hit e), dtlb := x.dtlb.filter (fun e => !hit e), l2tlb := x.l2tlb.filter (fun e => !hit e) })

/-- A cache-block operation of a hart that may make it, on a cacheable line that no change of the secure regions is about: CLEAN and FLUSH leave main
memory with the current bytes of the line and nothing else of it changed, INVAL writes nothing back outside the levels that make it a flush; after
CLEAN every cluster that held the line still does, with nothing left to write back; after FLUSH and INVAL no cluster holds it (R145). Where it rests
on a choice of the model: assumption log 27. -/
def Obligations.CacheBlockOperations : Prop :=
  ∀ (s : State) (h rs1 pa : Nat) (op : Cbo),
    let i := match op with
      | .clean => Instr.cboClean h rs1
      | .flush => Instr.cboFlush h rs1
      | .inval => Instr.cboInval h rs1
    let u := issuing s h i
    let y := hartOf u h
    let ln := pa / 64
    let back := op ≠ .inval ∨ invalFlush y = true
    canIssue s h false i → sbEmpty y = true → y.active = false → cboFault y op = none →
    translate u h .store (xr y rs1) (effOf y .store false false) = .ok (pa, u) → pmpOk y (effOf y .store false false).priv pa .store = true →
    isMem (zoneOf u pa) = true → isIo (zoneOf u pa) = false → s.sregPrev = [] → (isSecure s pa).1 = false ∨ y.priv = .m →
    gives i s fun t =>
      t = { s with dram := t.dram, poison := t.poison, l2 := t.l2, l3 := t.l3, harts := t.harts, wbs := t.wbs, rsps := t.rsps }
        ∧ (hartOf t h).pc = (hartOf s h).pc + 4
        ∧ (∀ a, (a / 64 ≠ ln ∨ ¬ back) → byteAt t.dram a = byteAt s.dram a)
        ∧ (back → memLine t ln = curLine s ln)
        ∧ ∀ c, c < 72 → if op = .clean then
            (l2Of t c ln).isSome = (l2Of s c ln).isSome ∧ ∀ l, l2Of t c ln = some l → l.st = .e ∨ l.st = .s
          else l2Of t c ln = none

/-- A CSR instruction that its mode may make reads the old value into `rd` and leaves in the CSR what its write keeps; a set or clear whose source names
x0 or 0 writes nothing (R89 and the register tables). Where it rests on a choice of the model: assumption log 5. -/
def Obligations.CsrAccessReadsThenWrites : Prop :=
  ∀ (s : State) (h : Nat) (op : CsrOp) (n rd : Nat) (src : CsrSrc),
    let i := Instr.csrAccess h op n rd src
    let u := issuing s h i
    let x := hartOf u h
    let zero := match src with
      | .reg r => r == 0
      | .imm v => v == 0
    let arg : Word := match src with
      | .reg r => xr x r
      | .imm v => BitVec.ofNat 64 (v % 32)
    let v := match op with
      | .rw => arg
      | .rs => csrModify u h x n ||| arg
      | .rc => csrModify u h x n &&& ~~~arg
    let wr := op == .rw || !zero
    canIssue s h false i → ((n = 1 ∨ n = 2 ∨ n = 3) → fpOff x = false) → csrFault x n wr = none → iregFault x n = none →
    gives i s fun t =>
      let y := if wr then csrWrite u x n v else x
      ran s t h ((hartOf s h).pc + 4) (if op = .rw ∧ rd = 0 then y else setX y rd (csrRead u h x n))

/-- With the store buffer empty, ECALL takes the environment-call exception of its mode, EBREAK outside debug entry a breakpoint with its address as trap
value, and reserved bits an illegal instruction with the bits themselves. A load or LR at an address that is no multiple of its size takes a
misaligned exception with cause 4, a store, SC or AMO with cause 6, the address the trap value (R82, R95, R97). Where it rests on a choice of the
model: assumption log 5. -/
def Obligations.TrapsOfInstructions : Prop :=
  ∀ (s : State) (h : Nat),
    let x := hartOf s h
    sbEmpty x = true →
    (canIssue s h false (.ecall h) →
      let cause := match x.priv with
        | .u => 8
        | .s => if x.virt then 10 else 9
        | .m => 11
      gives (.ecall h) s fun t => trapped s t h (excTarget x cause) cause 0)
    ∧ (∀ c, canIssue s h c (.ebreak h c) → (csr x 0x7B0).toNat / 2 ^ 12 % 2 ^ 6 = 0 →
      gives (.ebreak h c) s fun t => trapped s t h (excTarget x 3) 3 x.pc)
    ∧ (∀ c (w : BitVec 32), canIssue s h c (.instructionExecute h c (.raw w)) →
      gives (.instructionExecute h c (.raw w)) s fun t => trapped s t h (excTarget x 2) 2 (w.zeroExtend 64))
    ∧ (∀ c rd rs1 (imm : BitVec 12) size k, canIssue s h c (.load h c rd rs1 imm size k) →
      let hyp := k = .hlv true ∨ k = .hlv false ∨ k = .hlvx
      let va := xr x rs1 + (if hyp then 0 else imm.signExtend 64)
      (k = .fp → fpOff x = false) → (hyp → hypFault x = none) → va.toNat % size ≠ 0 →
      gives (.load h c rd rs1 imm size k) s fun t => trapped s t h (excTarget x 4) 4 va)
    ∧ (∀ c rs1 rs2 (imm : BitVec 12) size k, canIssue s h c (.store h c rs1 rs2 imm size k) →
      let va := xr x rs1 + (if k = .hsv then 0 else imm.signExtend 64)
      (k = .fp → fpOff x = false) → (k = .hsv → hypFault x = none) → va.toNat % size ≠ 0 →
      gives (.store h c rs1 rs2 imm size k) s fun t => trapped s t h (excTarget x 6) 6 va)
    ∧ (∀ op rd rs1 rs2 size, (xr x rs1).toNat % size ≠ 0 →
      (canIssue s h false (.amo h op rd rs1 rs2 size) → gives (.amo h op rd rs1 rs2 size) s fun t => trapped s t h (excTarget x 6) 6 (xr x rs1))
      ∧ (canIssue s h false (.sc h rd rs1 rs2 size) → gives (.sc h rd rs1 rs2 size) s fun t => trapped s t h (excTarget x 6) 6 (xr x rs1))
      ∧ (canIssue s h false (.lr h rd rs1 size) → gives (.lr h rd rs1 size) s fun t => trapped s t h (excTarget x 4) 4 (xr x rs1)))

/-- The returns and calls between modes, with the store buffer empty. MRET returns within M-mode to `mepc`. SRET in HS mode returns to `sepc` with the
privilege and virtualisation that `sstatus` and `hstatus` hold. KEYCALL enters M-mode at `mkeyvec` with the address of the next instruction in `mepc`
and the service number in `mkeysvc`; KEYRET leaves M-mode for the mode `mstatus.MPP` names (R84, R91, R312, R314, R315). Where it rests on a choice of
the model: assumption log 5. -/
def Obligations.ReturnsAndGates : Prop :=
  ∀ (s : State) (h : Nat),
    let x := hartOf s h
    sbEmpty x = true →
    (canIssue s h false (.mret h) → x.priv = .m → wb (csr x 0x300) 12 11 = 3 →
      gives (.mret h) s fun t => t = { s with harts := t.harts } ∧ (hartOf t h).pc = csr x 0x341 ∧ (hartOf t h).priv = .m ∧ (hartOf t h).x = x.x
        ∧ wb (csr (hartOf t h) 0x300) 3 3 = wb (csr x 0x300) 7 7 ∧ wb (csr (hartOf t h) 0x300) 7 7 = 1 ∧ wb (csr (hartOf t h) 0x300) 12 11 = 0)
    ∧ (canIssue s h false (.sret h) → x.priv = .s → x.virt = false → wbit (csr x 0x300) 22 = false →
      gives (.sret h) s fun t => t = { s with harts := t.harts } ∧ (hartOf t h).pc = csr x 0x141 ∧ (hartOf t h).x = x.x
        ∧ (hartOf t h).priv = (if wbit (csr x 0x300) 8 then .s else .u) ∧ (hartOf t h).virt = wbit (csr x 0x600) 7
        ∧ wb (csr (hartOf t h) 0x300) 1 1 = wb (csr x 0x300) 5 5 ∧ wb (csr (hartOf t h) 0x300) 5 5 = 1 ∧ wb (csr (hartOf t h) 0x300) 8 8 = 0
        ∧ wb (csr (hartOf t h) 0x600) 7 7 = 0)
    ∧ (∀ svc, canIssue s h false (.keycall h svc) → x.priv = .s → x.virt = false → wbit (gov { x with useOld := false } 0x7D3) 0 = true →
      gives (.keycall h svc) s fun t => t = { s with harts := t.harts } ∧ (hartOf t h).pc = csr x 0x7D0 ∧ (hartOf t h).priv = .m ∧ (hartOf t h).x = x.x
        ∧ csr (hartOf t h) 0x341 = x.pc + 4 ∧ csr (hartOf t h) 0x7D1 = BitVec.ofNat 64 svc.toNat ∧ wb (csr (hartOf t h) 0x300) 12 11 = 1
        ∧ wb (csr (hartOf t h) 0x300) 7 7 = wb (csr x 0x300) 3 3 ∧ wb (csr (hartOf t h) 0x300) 3 3 = 0)
    ∧ (canIssue s h false (.keyret h) → x.priv = .m → wb (csr x 0x300) 12 11 ≠ 3 →
      gives (.keyret h) s fun t => t = { s with harts := t.harts } ∧ (hartOf t h).pc = csr x 0x341 ∧ (hartOf t h).x = x.x
        ∧ (hartOf t h).priv = (if wb (csr x 0x300) 12 11 = 1 then .s else .u) ∧ (hartOf t h).virt = wbit (csr x 0x300) 39
        ∧ wb (csr (hartOf t h) 0x300) 3 3 = wb (csr x 0x300) 7 7 ∧ wb (csr (hartOf t h) 0x300) 12 11 = 0)

/-- WFI stops the hart with the pc past it. SYNC.CR, with the store buffer drained, leaves the hart waiting, and SYNC_CR_COMPLETE puts every held and
settling CSR change into effect: each CSR governs with the value it reads, PEND is clear, the hart is in the mode that `mdetctl.DET` asks for, and the
pc has moved past the SYNC.CR. SCAN.DONE of a hart in deterministic mode that has no wake pending leaves it in scan-wait with its pc at the SCAN.DONE,
and where the report was already made with a wake pending it goes on at once with the release's `mscaninfo` (R84, R89, R90, R107, R108). -/
def Obligations.WaitsAndSyncCr : Prop :=
  ∀ (s : State) (h : Nat),
    let x := hartOf s h
    (canIssue s h false (.wfi h) → x.priv = .m ∨ (x.priv = .s ∧ wbit (csr x 0x300) 21 = false ∧ (x.virt = true → wbit (csr x 0x600) 21 = false)) →
      (x.priv = .m → x.virt = false) → gives (.wfi h) s fun t => ran s t h (x.pc + 4) { x with run := .wfi })
    ∧ (canIssue s h false (.syncCr h) → sbEmpty x = true → x.priv ≠ .u →
      gives (.syncCr h) s fun t => hartNow s t h { x with cur := some (.syncCr h), useOld := false, syncing := true })
    ∧ (x.syncing = true → sbEmpty x = true → x.miss = none → wbit (csr x 0x7B0) 2 = false → x.deferred = [] → x.haltReq = false → x.stepping = false →
      (wbit (csr x 0x7C0) 0 = true → x.active = true ∨ rdF s (clk (coreDie x.core)) CLK.CLU_STAT.VLEVEL (coreInst x.core) ≠ 0) →
      gives (.syncCrComplete h) s fun t =>
        let y := hartOf t h
        t = { s with harts := t.harts, scan := t.scan } ∧ (∀ j, j ≠ h → hartOf t j = hartOf s j)
          ∧ y.active = wbit (csr x 0x7C0) 0 ∧ y.pend = false ∧ y.syncing = false ∧ y.settle = [] ∧ y.pc = x.pc + 4 ∧ y.x = x.x
          ∧ (∀ n, n < 4096 → gov y n = csr y n) ∧ govCache y = csr y 0x7C4
          ∧ (y.active ≠ x.active → y.l1d = [] ∧ y.vc = [] ∧ y.l1i = []) ∧ (y.active = true → x.active = false → y.done = true))
    ∧ (∀ rs1, canIssue s h false (.scanDone h rs1) → x.active = true → x.wakePend = false →
      gives (.scanDone h rs1) s fun t =>
        let y := hartOf t h
        t = { s with harts := t.harts, scan := t.scan } ∧ (∀ j, j ≠ h → hartOf t j = hartOf s j)
          ∧ y.run = .scanWait ∧ y.done = true ∧ y.swait = true ∧ y.pc = x.pc ∧ y.x = x.x ∧ (x.done = true → t.scan = s.scan)
          ∧ (x.done = false → y.status = (xr x rs1).toNat % 256
              ∧ ∀ o, s.scan.owes.find? (fun q => q.hart = h) = some o → t.scan.owes = s.scan.owes.erase o))
    ∧ (∀ rs1, canIssue s h false (.scanDone h rs1) → x.active = true → x.wakePend = true → x.done = true →
      gives (.scanDone h rs1) s fun t =>
        ran s t h (x.pc + 4) { setCsr x 0x7C2 x.wakeInfo with done := false, wakePend := false, swait := false })

/-- The events a hart meets. An interrupt is taken at a boundary with the store buffer drained, the one that comes first in the order of R102. A compare
brings GTIME to the instant its timer reads it. A counter that overflowed shows OF and requests its interrupt. A message reaches its interrupt file
unless an earlier one from the same source to the same file is still on its way (R86, R98, R99, R102, R103, R425). Where it rests on a choice of the
model: assumption logs 4 and 5. -/
def Obligations.HartEvents : Prop :=
  ∀ (s : State) (h : Nat),
    let x := hartOf s h
    (∀ c tgt, h < hartCount s → clusterOn s h = true → atBoundary x = true → sbEmpty x = true → x.walk = none → x.miss = none →
      (x.run = .running ∨ x.run = .wfi ∨ x.run = .scanWait) → x.deferred = [] → x.haltReq = false → x.stepping = false →
      nextIrq s x = some (c, tgt) →
      gives (.interruptTake h) s fun t =>
        let y := hartOf t h
        t = { s with harts := t.harts } ∧ (∀ j, j ≠ h → hartOf t j = hartOf s j) ∧ y.run = .running ∧ y.x = x.x ∧ y.f = x.f ∧ y.swait = false
          ∧ (tgt = 3 → y.priv = .m ∧ csr y 0x341 = x.pc ∧ csr y 0x342 = BitVec.ofNat 64 (c + 2 ^ 63) ∧ wb (csr y 0x300) 3 3 = 0)
          ∧ (tgt = 1 → y.priv = .s ∧ y.virt = false ∧ csr y 0x141 = x.pc ∧ csr y 0x142 = BitVec.ofNat 64 (c + 2 ^ 63) ∧ wb (csr y 0x300) 1 1 = 0)
          ∧ (tgt = 2 → y.priv = .s ∧ y.virt = true ∧ csr y 0x241 = x.pc ∧ csr y 0x242 = BitVec.ofNat 64 (c - 1 + 2 ^ 63) ∧ wb (csr y 0x200) 1 1 = 0))
    ∧ (∀ k : TimerKind,
      let cmp : Word := match k with
        | .m => csr x 0x7C8
        | .s => csr x 0x14D
        | .vs => csr x 0x24D - csr x 0x605
      let at_ := ((cmp.toNat : Int) - (mget {} s.dies (coreDie x.core)).dev).toNat
      h < hartCount s → cmp ≠ 0xFFFFFFFFFFFFFFFF#64 → gives (.timerCompare h k) s fun t => t.gtime = max s.gtime at_ ∧ t.harts = s.harts ∧ sameMemory s t)
    ∧ (∀ n, n ∈ x.ovf → 3 ≤ n → n ≤ 31 → gives (.hpmOverflow h n) s fun t =>
        t = { s with harts := t.harts } ∧ (∀ j, j ≠ h → hartOf t j = hartOf s j) ∧ wbit (csr (hartOf t h) (0x320 + n)) 63 = true
          ∧ wbit (csr (hartOf t h) 0x344) 13 = true ∧ n ∉ (hartOf t h).ovf ∧ ∀ k, k ≠ 0x320 + n → k ≠ 0x344 → csr (hartOf t h) k = csr x k)
    ∧ (∀ (n : Nat) (m : IrqMsg), s.irqs[n]? = some m →
      (∀ q ∈ s.irqs.take n, ¬ (q.src = m.src ∧ q.hart = m.hart ∧ q.file = m.file)) → m.ident ≠ 0 →
      gives (.interruptMessageDeliver n) s fun t =>
        t = { s with irqs := s.irqs.eraseIdx n, harts := t.harts } ∧ (∀ j, j ≠ m.hart → hartOf t j = hartOf s j)
          ∧ m.ident ∈ (fileOf (hartOf t m.hart) m.file).eip
          ∧ (∀ k, k ∈ (fileOf (hartOf t m.hart) m.file).eip ↔ k = m.ident ∨ k ∈ (fileOf (hartOf s m.hart) m.file).eip)
          ∧ ∀ f, f ≠ m.file → fileOf (hartOf t m.hart) f = fileOf (hartOf s m.hart) f)

/-- What a hart waits for. A fill that finds the line in the cluster's L2 with the permission the access needs ends the wait, puts the line into the L1,
and the access goes on. The oldest entry of the store buffer drains, into the local store or into the cluster's line. A stream that has idled ends,
its gathered granules ahead of the rest of the buffer. The PTE a walk read serves it: a leaf that permits the access is filled into both TLBs and the
access goes on; a read that failed ends the walk in a walk fault in M-mode with its reason in `mwalkinfo` (R122, R125, R126, R134-R136, R138). Where
it rests on a choice of the model: assumption log 5. -/
def Obligations.WaitsOfAHart : Prop :=
  ∀ (s : State) (h : Nat),
    let x := hartOf s h
    (∀ ln, x.miss = some ln → l1On x = true → x.l1d = [] → wb (gov x 0x7C4) 15 8 ≠ 0 →
      (if x.missOwn then ownedBy s (hartCl s h) ln = true else (l2Of s (hartCl s h) ln).isSome = true) →
      gives (.l1MissFill h) s fun t => ∃ u, (t = if x.missSt then goOn (drainOne u h) h else goOn u h) ∧ u = { s with harts := u.harts }
        ∧ (∀ j, j ≠ h → hartOf u j = hartOf s j) ∧ (hartOf u h).miss = none ∧ (hartOf u h).l1d.any (fun c => c.line = ln) = true
        ∧ (hartOf u h).pc = x.pc ∧ (hartOf u h).x = x.x ∧ (hartOf u h).sb = x.sb)
    ∧ (∀ e r, x.sb = e :: r → e.tgt = .ls → x.miss = none → clusterOn s h = true →
      gives (.storeBufferDrain h) s fun t => ∃ u, t = goOn u h ∧ u = { s with lstore := u.lstore, lsBad := u.lsBad, harts := u.harts }
        ∧ (hartOf u h).sb = r ∧ u.lstore = writeMasked s.lstore (lsKey x.core e.pa) 8 e.mask e.data
        ∧ ∀ k, (∀ j, j < 8 → k ≠ lsKey x.core e.pa + j) → byteAt u.lstore k = byteAt s.lstore k)
    ∧ (∀ e r, x.sb = e :: r → e.tgt = .mem → x.miss = none → clusterOn s h = true → x.strm = {} → capEff s 23 = false →
      lineSecret s h (e.pa / 64) e.sec = (false, s) → lineReady s h (e.pa / 64) true true = (true, s) →
      gives (.storeBufferDrain h) s fun t => ∃ u, t = goOn u h ∧ u = { s with l2 := u.l2, harts := u.harts } ∧ (hartOf u h).sb = r
        ∧ u.l2 = (lineStore s h (e.pa / 64) e.mask e.data (e.pa % 64 / 8)).l2)
    ∧ (x.miss = none → gives (.streamTimeout h) s fun t =>
        t = { s with harts := t.harts } ∧ (∀ j, j ≠ h → hartOf t j = hartOf s j) ∧ (hartOf t h).strm = {}
          ∧ (hartOf t h).sb.length = x.strm.gather.length + x.sb.length
          ∧ (hartOf t h).sb.drop x.strm.gather.length = x.sb ∧ (hartOf t h).pc = x.pc ∧ (hartOf t h).csr = x.csr)
    ∧ (∀ (w : Walk) (v base exp : Nat), x.walk = some w → w.inG = false → w.gOn = false → s.sregPrev = [] → l2Of s (hartCl s h) (w.addr / 64) = none →
      (isSecure s w.addr).1 = false → cohRead s w.addr 8 = (v, false) → pteOf (capEff s 18) v w.level = .leaf base exp →
      permOk (v % 256) w.priv (sumOf x w.virt) (mxrOf x w.virt) w.ak w.hlvx = true →
      x.l2tlb.length < 2048 → x.dtlb.length < 32 → x.itlb.length < 16 →
      gives (.walkReadResponse h .ok) s fun t => ∃ u e, t = goOn u h ∧ u = { s with harts := u.harts } ∧ (hartOf u h).walk = none
        ∧ (∀ j, j ≠ h → hartOf u j = hartOf s j) ∧ (hartOf u h).pc = x.pc ∧ (hartOf u h).x = x.x
        ∧ e.va = w.va / 2 ^ exp * 2 ^ exp ∧ e.pa = base ∧ e.exp = exp ∧ e.perm = v % 256 ∧ (hartOf u h).l2tlb = x.l2tlb ++ [e]
        ∧ (if w.ak = .fetch then (hartOf u h).itlb = x.itlb ++ [e] else (hartOf u h).dtlb = x.dtlb ++ [e]))
    ∧ (∀ (w : Walk) (r : WalkReply), x.walk = some w → r ≠ .ok → (if w.inG then w.gLevel else w.level) ≤ 3 → sbEmpty x = true → x.deferred = [] →
      x.haltReq = false → x.stepping = false →
      gives (.walkReadResponse h r) s fun t =>
        let y := hartOf t h
        t = { s with harts := t.harts } ∧ (∀ j, j ≠ h → hartOf t j = hartOf s j) ∧ y.priv = .m ∧ y.walk = none ∧ y.cur = none ∧ csr y 0x341 = x.pc
          ∧ csr y 0x342 = BitVec.ofNat 64 (walkCause w.ak) ∧ csr y 0x343 = BitVec.ofNat 64 w.va ∧ wbit (csr y 0x7C7) 63 = true
          ∧ wb (csr y 0x7C7) 60 59 = (if r = .busError then 0 else 1))

/-- A write of HUB.IPI sends one message to a normal-world file and a write of HUB.IPI_SEC by the secure world one to the secure file; a target reserved
in an enabled entry sends nothing and sets BAD_WRITE. A route entry of a present block and an APLIC entry take a value that is not reserved, and an
APLIC level source that is active then sends its message. A wired source follows its wire, and an active change of an enabled source sends its message
from Boot to Hold (R100, R101). Where it rests on a choice of the model: assumption log 65. -/
def Obligations.MessagesAndRoutes : Prop :=
  (∀ (s : State) (m : Master) (v : BitVec 32), portOpen s hub →
    let e := v.toNat % 2 ^ 24 + 2 ^ 31
    (entReserved s e = false → gives (.hubIpiWrite m v) s fun t =>
      t.irqs = s.irqs ++ [⟨0x500000, entHart e, 1 + entFile e, entIdent e⟩] ∧ regFrame [] { s with resp := {} } t)
    ∧ (entReserved s e = true → gives (.hubIpiWrite m v) s fun t =>
      t.irqs = s.irqs ∧ (hdrOf t hub).badWrite = true ∧ regFrame [hub] { s with resp := {} } t))
  ∧ (∀ (s : State) (m : Master) (v : BitVec 32), portOpen s hub → (whoOf s m).sec = true →
    let e := v.toNat % 2 ^ 24 + 2 ^ 31 + 2 ^ 30
    (entReserved s e = false → gives (.hubIpiSecWrite m v) s fun t =>
      t.irqs = s.irqs ++ [⟨0x500001, entHart e, 0, entIdent e⟩] ∧ regFrame [] { s with resp := {} } t)
    ∧ (entReserved s e = true → gives (.hubIpiSecWrite m v) s fun t =>
      t.irqs = s.irqs ∧ (hdrOf t hub).badWrite = true ∧ regFrame [hub] { s with resp := {} } t))
  ∧ (∀ (s : State) (m : Master) (v : BitVec 32), portOpen s hub → mayUse s m hub HUB.ROUTE.ENTRY 0 →
    let sel : Blk := ⟨rdF s hub HUB.ROUTE_SEL.DIE, rdF s hub HUB.ROUTE_SEL.SLOT⟩
    let bank := 1 + sel.die * 65536 + sel.slot
    present s sel = true → (entReserved s v.toNat || (entEn v.toNat && (entSm v.toNat ≠ 0 || bits v.toNat 26 24 ≠ 0 || bit v.toNat 11))) = false →
    gives (.routeEntryWrite m v) s fun t => rdF t hub HUB.ROUTE.ENTRY 0 bank = v.toNat ∧ t.irqs = s.irqs ∧ regFrame [hub] { s with resp := {} } t
      ∧ ∀ k, k ≠ fkey hub HUB.ROUTE.ENTRY 0 bank → mfind t.fields k = mfind s.fields k)
  ∧ (∀ (s : State) (m : Master) (k : Nat) (v : BitVec 32), portOpen s hub → 1 ≤ k → k < 32 → mayUse s m hub HUB.APL_SRC.ENTRY k →
    reservedVal s hub HUB.APL_SRC.ENTRY k v.toNat = false →
    let e := v.toNat
    gives (.aplSrcWrite m k v) s fun t => rdF t hub HUB.APL_SRC.ENTRY k = e ∧ regFrame [hub] { s with resp := {} } t
      ∧ t.irqs = s.irqs ++ (if entEn e ∧ ((entSm e = 6 ∧ k ∈ s.wires) ∨ (entSm e = 7 ∧ k ∉ s.wires)) then
          [⟨0x400000 + k, entHart e, if entSec e then 0 else 1 + entFile e, entIdent e⟩] else []))
  ∧ (∀ (s : State) (k : Nat) (on : Bool), 1 ≤ k → k ≤ 27 →
    let e := rdF s hub HUB.APL_SRC.ENTRY k
    let rises := on = true ∧ k ∉ s.wires
    let falls := on = false ∧ k ∈ s.wires
    gives (.aplicSourceEdge k on) s fun t => regFrame [] { s with wires := t.wires } t
      ∧ (∀ j, j ∈ t.wires ↔ if j = k then on = true else j ∈ s.wires)
      ∧ t.irqs = s.irqs ++ (if entEn e ∧ 3 ≤ modeOf s ∧ modeOf s ≤ 6 ∧ (((entSm e = 4 ∨ entSm e = 6) ∧ rises) ∨ ((entSm e = 5 ∨ entSm e = 7) ∧ falls)) then
          [⟨0x400000 + k, entHart e, if entSec e then 0 else 1 + entFile e, entIdent e⟩] else []))

/-- EVT_STAT reads SEQ with the pending bits and marks them seen. EVT_ACK of a sequence number not more than half the number space old clears the bits
captured up to it and no newer one; an older one only sets STALE_ACK. EVT_MASK takes the value written. After either, a message goes out whenever the
event output is asserted (R42, R53, R100). Capturing event `n` of a block: if its bit is not pending or the flag of readers is set, SEQ increments,
the bit takes the new SEQ and the flag is cleared; else the bit takes the current SEQ. The bit becomes pending, and no other bit or capture value
changes. Outside the field die one message goes out exactly if this asserts the event output and the route entry is enabled, and no other state
differs. -/
def Obligations.EventSequence : Prop :=
  (∀ (s : State) (m : Master) (b : Blk), portOpen s b →
    let h := hdrOf s b
    let e := routeOf s b
    let msg : List IrqMsg := if entEn e then [⟨bkey b, entHart e, if entSec e then 0 else 1 + entFile e, entIdent e⟩] else []
    gives (.evtStatRead m b) s (fun t =>
      t = { setHdr s b { h with seen := true } with resp := ⟨false, h.seq.toNat * 2 ^ 24 + h.pend.toNat⟩ })
    ∧ (∀ v : BitVec 32,
      let age := (h.seq - BitVec.ofNat 8 v.toNat).toNat
      (128 ≤ age → gives (.evtAck m b v) s fun t => t = { setHdr s b { h with staleAck := true } with resp := {} })
      ∧ (age < 128 → gives (.evtAck m b v) s fun t =>
        hdrOf t b = { h with pend := (hdrOf t b).pend } ∧ regFrame [b] { s with resp := {} } t
          ∧ (∀ n, n < 24 → (hdrOf t b).pend.getLsbD n = (h.pend.getLsbD n && decide ((h.seq - mget 0 h.capt n).toNat < age)))
          ∧ t.irqs = s.irqs ++ if evtOut (hdrOf t b) then msg else []))
    ∧ (∀ v : BitVec 32, gives (.evtMaskWrite m b v) s fun t =>
        hdrOf t b = { h with mask := BitVec.ofNat 24 v.toNat } ∧ regFrame [b] { s with resp := {} } t
          ∧ t.irqs = s.irqs ++ if evtOut (hdrOf t b) then msg else []))
  ∧ (∀ (s : State) (b : Blk) (n : Nat), n < 24 →
    let h := hdrOf s b
    let t := capture s b n
    let e := routeOf s b
    raised t b n ∧ (∀ k, k < 24 → k ≠ n → (hdrOf t b).pend.getLsbD k = h.pend.getLsbD k)
      ∧ ((h.pend.getLsbD n = false ∨ h.seen = true) → (hdrOf t b).seq = h.seq + 1 ∧ (hdrOf t b).seen = false)
      ∧ ((h.pend.getLsbD n = true ∧ h.seen = false) → (hdrOf t b).seq = h.seq ∧ (hdrOf t b).seen = false)
      ∧ mget 0 (hdrOf t b).capt n = (hdrOf t b).seq ∧ (∀ k, k ≠ n → mget 0 (hdrOf t b).capt k = mget 0 h.capt k) ∧ (hdrOf t b).mask = h.mask
      ∧ (∀ c, bkey c ≠ bkey b → hdrOf t c = hdrOf s c)
      ∧ (b.die ≠ 24 → regFrame [b] s t
        ∧ t.irqs = s.irqs ++ if evtOut h = false ∧ evtOut (hdrOf t b) = true ∧ entEn e = true then
            [⟨bkey b, entHart e, if entSec e then 0 else 1 + entFile e, entIdent e⟩] else [])
      ∧ (b.die = 24 → t = { s with hdrs := t.hdrs, bar := t.bar }))

/-- COMMIT.ARM of a block with shadowed fields arms it, COMMIT.DISCARD empties its shadow; a block without them has neither. A soft reset by a machine-
level master whom no secure hold stops returns the block's own registers and shadow to reset values, keeps its events and mask, and READY reads 0
until SOFT_RESET_DONE (R42, R57). Where it rests on a choice of the model: assumption log 17. -/
def Obligations.HeaderControls : Prop :=
  ∀ (s : State) (m : Master) (b : Blk), portOpen s b →
    let h := hdrOf s b
    gives (.commitArm m b) s (fun t => hdrOf t b = (if hasCm (typeOf b) then { h with arm := true } else h) ∧ t.fields = s.fields
      ∧ t.shadow = s.shadow ∧ regFrame [b] { s with resp := {} } t)
    ∧ (∀ a, hasCm (typeOf b) = true → gives (.commitDiscard m b a) s fun t =>
        hdrOf t b = { h with arm := a } ∧ cmtPend t b = false ∧ t.fields = s.fields ∧ regFrame [b] { s with resp := {}, shadow := t.shadow } t
          ∧ ∀ k, keyInBlock b k = false → mfind t.shadow k = mfind s.shadow k)
    ∧ ((whoOf s m).mach = true → (h.secHold = true → (whoOf s m).sec = true) → typeOf b ∉ [1, 22, 23, 24] → gives (.softReset m b) s fun t =>
        hdrOf t b = { h with resetting := true } ∧ cmtPend t b = false
          ∧ (∀ k, keyInBlock b k = true → keepsRo b k = false → mfind t.fields k = none)
          ∧ (∀ k, keyInBlock b k = false → ctrOf k ≠ some b → mfind t.fields k = mfind s.fields k) ∧ t.irqs = s.irqs)
    ∧ (h.resetting = true → gives (.softResetDone b) s fun t => t = setHdr s b { h with resetting := false })

/-- What a 32-bit access of a register does, where the register holds one field and its block does nothing more on the access: a write gives an RW field
the value written, through a view the bits the view says, and an alias write the one bit; a shadowed field keeps its active value and takes the write
in the shadow; a reserved encoding leaves the field and sets BAD_WRITE; a clear-on-read field is read and cleared. An absent slot reads 0, drops
writes and is counted; a narrow access of a hart is refused and counted (R12, R37, R44, R45, R48, R49, R51, R52, R55, R57). -/
def Obligations.RegisterAccess : Prop :=
  (∀ (s : State) (m : Master) (b : Blk) (f : Field) (n off : Nat) (v : View) (x : BitVec 32), portOpen s b → typeOf b ∈ [8, 9, 13, 17, 25] →
    0x40 ≤ off → off % 4 = 0 → off < 2 ^ spanExp (typeOf b) → regFields b off = [(f, n)] → f.acc = .rw → mayUse s m b f n →
    let bank := bankOf s b f
    let key := fkey b f n bank
    let y := newVal s b f n v x.toNat
    (v = .base ∨ bits x.toNat f.hi f.lo ≠ 0) → ignoredVal s b f y = false →
    (f.cm = false → reservedVal s b f n y = false → gives (.viewBitWrite m b v off x) s fun t =>
      rdF t b f n bank = y % 2 ^ (f.hi + 1 - f.lo) ∧ t = { s with fields := t.fields, resp := {} } ∧ ∀ k, k ≠ key → mfind t.fields k = mfind s.fields k)
    ∧ (f.cm = true → reservedVal s b f n y = false → gives (.viewBitWrite m b v off x) s fun t =>
      shF t b f n bank = y ∧ t = { s with shadow := t.shadow, resp := {} } ∧ ∀ k, k ≠ key → mfind t.shadow k = mfind s.shadow k)
    ∧ (reservedVal s b f n y = true → gives (.viewBitWrite m b v off x) s fun t =>
      (hdrOf t b).badWrite = true ∧ t.fields = s.fields ∧ t.shadow = s.shadow ∧ regFrame [b] { s with resp := {} } t))
  ∧ (∀ (s : State) (m : Master) (b : Blk) (off : Nat) (x : BitVec 32), inSpace b = true → off % 4 = 0 → off < 0x1000 →
    gives (.registerWrite m (regAddr b .base off) .w32 (x.zeroExtend 64)) s fun t => s.ddrExp ≤ 42 → exec (.viewBitWrite m b .base off x) s = .next t)
  ∧ (∀ (s : State) (m : Master) (b : Blk) (f : Field) (n r k : Nat) (x : BitVec 32), portOpen s b → typeOf b ∈ [8, 9, 13, 17, 25] → r < 64 → 0x10 ≤ r → k < 32 →
    regFields b (4 * r) = [(f, n)] → f.acc = .rw → f.cm = false → f.lo ≤ k → k ≤ f.hi → mayUse s m b f n →
    let bank := bankOf s b f
    let y := newVal s b f n (if x.toNat % 2 = 1 then .set else .clear) (2 ^ k)
    ignoredVal s b f y = false → reservedVal s b f n y = false → gives (.aliasWrite m b r k x) s fun t =>
      rdF t b f n bank = y % 2 ^ (f.hi + 1 - f.lo) ∧ t = { s with fields := t.fields, resp := {} }
        ∧ ∀ q, q ≠ fkey b f n bank → mfind t.fields q = mfind s.fields q)
  ∧ (∀ (s : State) (m : Master) (b : Blk) (f : Field) (n off : Nat), portOpen s b → typeOf b ≠ 7 → typeOf b ≠ 18 → typeOf b ≠ 19 → 0x40 ≤ off → off % 4 = 0 →
    off < 2 ^ spanExp (typeOf b) → regFields b off = [(f, n)] → f.acc = .rc → denied s b f n (whoOf s m) false = false → liveField s b f n = none →
    rdF s b f n (bankOf s b f) < 2 ^ (f.hi + 1 - f.lo) → f.hi < 32 → gives (.clearOnRead m b off) s fun t =>
      t.resp = ⟨false, rdF s b f n (bankOf s b f) * 2 ^ f.lo⟩ ∧ rdF t b f n (bankOf s b f) = 0 ∧ t = { s with fields := t.fields, resp := t.resp }
        ∧ ∀ k, k ≠ fkey b f n (bankOf s b f) → mfind t.fields k = mfind s.fields k)
  ∧ (∀ (s : State) (m : Master) (b : Blk) (off : Nat) (x : BitVec 64), inSpace b = true → s.ddrExp ≤ 42 → off < 0x1000 → off % 4 = 0 →
    (answers s b = false → viaBarrier s b = false → gives (.registerWrite m (regAddr b .base off) .w32 x) s fun t =>
      t.resp = {} ∧ rdF t grd GRD.ABSENT_CNT.COUNT = min (2 ^ 32 - 1) (rdF s grd GRD.ABSENT_CNT.COUNT + 1)
        ∧ rdF t grd GRD.LAST_INFO.KIND = 4 ∧ rdF t grd GRD.LAST_INFO.WRITE = 1 ∧ raised t grd 3 ∧ regFrame [grd] { s with resp := {} } t)
    ∧ ((whoOf s m).hart ≠ 0xFF → gives (.registerWrite m (regAddr b .base off) .w16 x) s fun t =>
      t.resp.err = true ∧ rdF t grd GRD.WIDTH_CNT.COUNT = min (2 ^ 32 - 1) (rdF s grd GRD.WIDTH_CNT.COUNT + 1)
        ∧ rdF t grd GRD.LAST_INFO.KIND = 2 ∧ raised t grd 1 ∧ regFrame [grd] { s with resp := t.resp } t))

/-- Engines started and stopped by their registers (R168, R189, R218, R222, R223): a directory probe; a recalibration; a scrub of a range that lies in its
array, else REFUSED; its end at once by ABORT; a fill of a range that lies in its target, else ERR; its end by ABORT. Where it rests on a choice of
the model: assumption logs 60 and 64. -/
def Obligations.EngineRegisters : Prop :=
  ∀ (s : State) (m : Master), (whoOf s m).mach = true →
    (∀ d, portOpen s (dirB d) → capEff s 37 = true → gives (.dirProbeGo m d) s fun t =>
      mfind t.probes d = some (whoOf s m) ∧ rdF t (dirB d) DIR.PROBE_CTRL.DONE = 0 ∧ t = { s with fields := t.fields, probes := t.probes, resp := {} })
    ∧ (∀ d i (v : BitVec 32), i < 4 → portOpen s (hng d i) → hingeThere s d i = true →
      let b := hng d i
      let md := bits v.toNat 6 4
      let w := rdF s b HNG.TRAIN_STAT.WIDTH
      rdF s b HNG.RECAL.BUSY ≠ 1 → rdF s b HNG.TRAIN_STAT.STATE = 2 → 1 < w → (∀ r, r ∈ hingeRes d i → guarSum s r false ≤ rdF s bwr BWR.CAPACITY.CAP r * (w - 1) / 8) →
      bit (rdF s b HNG.TRAIN_STAT.MASK) md = true → capEff s 3 = true → gives (.recalGo m d i v) s fun t =>
        rdF t b HNG.RECAL.BUSY = 1 ∧ rdF t b HNG.RECAL.MOD = md ∧ rdF t b HNG.RECAL.AUTO_MS = bits v.toNat 27 16 ∧ mfind t.recal (d * 8 + i) = some md
          ∧ t = { s with fields := t.fields, recal := t.recal, resp := {} })
    ∧ (∀ b (v : BitVec 32), typeOf b = 9 → portOpen s b → (b = scb 0 9 → (whoOf s m).num = 87) → bit v.toNat 1 = false → mfind s.scrubs (bkey b) = none →
      let a := scbAddr s b SCB.START_LO.ADDR SCB.START_HI.ADDR
      let e := scbAddr s b SCB.END_LO.ADDR SCB.END_HI.ADDR
      (a < e → e ≤ scbSize s b → gives (.scrubGo m b v) s fun t => mfind t.scrubs (bkey b) = some ⟨a, e, false⟩ ∧ rdF t b SCB.CTRL.BUSY = 1 ∧ rdF t b SCB.CTRL.REFUSED = 0 ∧ rdF t b SCB.CE.COUNT = 0
          ∧ rdF t b SCB.UE.COUNT = 0 ∧ rdF t b SCB.CTRL.GAP = bits v.toNat 15 8 ∧ t = { s with fields := t.fields, scrubs := t.scrubs, resp := {} })
      ∧ (e ≤ a ∨ scbSize s b < e → gives (.scrubGo m b v) s fun t => rdF t b SCB.CTRL.REFUSED = 1 ∧ t = { s with fields := t.fields, resp := {} }))
    ∧ (∀ b x, typeOf b = 9 → portOpen s b → (b = scb 0 9 → (whoOf s m).num = 87) → mfind s.scrubs (bkey b) = some x → gives (.scrubAbort m b) s fun t =>
        mfind t.scrubs (bkey b) = some { x with abort := true } ∧ t = { s with fields := t.fields, scrubs := t.scrubs, resp := {} })
    ∧ (∀ v : BitVec 32, portOpen s fil → s.fill = none → bit v.toNat 1 = false → bits v.toNat 18 16 < 5 →
      let f : Fill := {
        dst := rdF s fil FIL.DST_LO.ADDR / 64 * 64 + rdF s fil FIL.DST_HI.ADDR % 65536 * 2 ^ 32, lines := rdF s fil FIL.LEN.LINES,
        pat := rdF s fil FIL.PAT_LO.PAT + rdF s fil FIL.PAT_HI.PAT * 2 ^ 32, target := bits v.toNat 18 16, hart := bits v.toNat 27 20, who := whoOf s m }
      (filOk s f = true → gives (.fillGo m v) s fun t => t.fill = some f ∧ rdF t fil FIL.CTRL.BUSY = 1 ∧ t = { s with fields := t.fields, fill := some f, resp := {} })
      ∧ (filOk s f = false → gives (.fillGo m v) s fun t => rdF t fil FIL.CTRL.ERR = 1 ∧ t = { s with fields := t.fields, resp := {} }))
    ∧ (∀ f, portOpen s fil → s.fill = some f → gives (.fillAbort m) s fun t => t.fill = none ∧ rdF t fil FIL.CTRL.BUSY = 0)

/-- What the engines do by themselves (R147, R218, R221, R223): each scrub read moves on by a line, a corrected one is counted; the scrub's end; a fill of
a local store leaves the pattern in it; a whole-L2 flush leaves the cluster no line. Where it rests on a choice of the model: assumption logs 60 and
68. -/
def Obligations.EngineWork : Prop :=
  ∀ (s : State),
    (∀ b x, typeOf b = 9 → mfind s.scrubs (bkey b) = some x → x.abort = false → x.at_ < x.stop →
      (∀ f, gives (.scrubLine b f) s fun t => mfind t.scrubs (bkey b) = some { x with at_ := x.at_ + 64 } ∧ t.harts = s.harts ∧ t.dram = s.dram)
      ∧ (32 ≤ b.die → gives (.scrubLine b .corrected) s fun t => counted s t (mch (b.die - 32)) MCH.CE_CNT.COUNT ∧ counted s t b SCB.CE.COUNT ∧ raised t (mch (b.die - 32)) 0)
      ∧ (∀ w, 32 ≤ b.die → stackPair s (b.die - 32) = false → gives (.scrubLine b (.uncorrectable w)) s fun t =>
          counted s t (mch (b.die - 32)) MCH.UE_CNT.COUNT ∧ counted s t b SCB.UE.COUNT ∧ raised t (mch (b.die - 32)) 1))
    ∧ (∀ b x, b.die ≠ 24 → mfind s.scrubs (bkey b) = some x → (x.abort = true ∨ x.stop ≤ x.at_) → gives (.scrubDone b) s fun t =>
        mfind t.scrubs (bkey b) = none ∧ rdF t b SCB.CTRL.BUSY = 0 ∧ raised t b 0 ∧ regFrame [b] { s with scrubs := t.scrubs } t)
    ∧ (∀ f, s.fill = some f → gives .fillDone s fun t => t.fill = none ∧ rdF t fil FIL.CTRL.BUSY = 0 ∧ raised t fil 0
        ∧ (f.target = 1 → f.pat < 2 ^ 64 → f.dst % 64 = 0 → f.dst + 64 * f.lines ≤ 2 ^ 17 → ∀ k, k < 64 * f.lines →
            byteAt t.lstore (lsKey (hartOf s f.hart).core (f.dst + k)) = BitVec.ofNat 8 (f.pat / 2 ^ (8 * (k % 8)))))
    ∧ ∀ d i, i < 16 → rdF s (hcl d i) HCL.L2_OP.BUSY ≠ 0 → present s (hcl d i) = true → gives (.l2OpDone d i) s fun t =>
        rdF t (hcl d i) HCL.L2_OP.BUSY = 0 ∧ rdF t (hcl d i) HCL.L2_OP.OP = 0 ∧ raised t (hcl d i) 0
          ∧ (rdF s (hcl d i) HCL.L2_OP.OP = 2 → ∀ ln, l2Of t ((d - 8) * 6 + i) ln = none)

/-- Secure regions and the debug enables (R317, R319, R325, R327): SREG_LO takes the low word of the region that SREG_SEL names and changes no copy; the
write of SREG_HI puts both words into effect in one step and starts their way to the copies, BUSY until it is done; DBG_CTRL takes the enables. Only
the secure world reaches them. Where it rests on a choice of the model: assumption log 42. -/
def Obligations.SecureRegisters : Prop :=
  ∀ (s : State) (m : Master) (v : BitVec 32), portOpen s hub →
    let n := rdF s hub HUB.SREG_SEL.REGION
    let x := v.toNat
    ((whoOf s m).sec = true →
      (12 ≤ bits x 11 6 → bits x 11 6 ≤ 47 → gives (.sregLoWrite m v) s fun t => rdF t hub HUB.SREG_LO.BASE 0 (1 + n) = bits x 31 12 ∧ rdF t hub HUB.SREG_LO.SIZE_EXP 0 (1 + n) = bits x 11 6
        ∧ rdF t hub HUB.SREG_LO.EN 0 (1 + n) = bits x 0 0 ∧ t = { s with fields := t.fields, resp := {} })
      ∧ (gives (.sregHiWrite m v) s fun t => rdF t hub HUB.SREG_HI.BASE 0 (1 + n) = bits x 15 0 ∧ rdF t hub HUB.SREG_SEL.BUSY = 1
        ∧ mfind t.sregs n = some ⟨rdF s hub HUB.SREG_LO.BASE 0 (1 + n) * 4096 + bits x 15 0 * 2 ^ 32, rdF s hub HUB.SREG_LO.SIZE_EXP 0 (1 + n), rdF s hub HUB.SREG_LO.EN 0 (1 + n) = 1⟩
        ∧ (mfind s.sregPrev n = none → mfind t.sregPrev n = some (mget ⟨0, 12, false⟩ s.sregs n)) ∧ t = { s with fields := t.fields, sregs := t.sregs, sregPrev := t.sregPrev, resp := {} })
      ∧ ((∀ h, (hartOf s h).run ≠ .halted) → gives (.dbgCtrlWrite m v) s fun t => rdF t hub HUB.DBG_CTRL.SID = bits x 0 0 ∧ rdF t hub HUB.DBG_CTRL.SNID = bits x 1 1
        ∧ rdF t hub HUB.DBG_CTRL.NID = bits x 2 2 ∧ rdF t hub HUB.DBG_CTRL.NNID = bits x 3 3 ∧ t = { s with fields := t.fields, resp := {} }))
    ∧ ((whoOf s m).sec = false → (∀ i, i ∈ [Instr.sregLoWrite m v, .sregHiWrite m v, .dbgCtrlWrite m v] →
        gives i s fun t => counted s t grd GRD.DENY_CNT.COUNT ∧ rdF t grd GRD.LAST_INFO.KIND = 1 ∧ t.sregs = s.sregs ∧ raised t grd 0 ∧ regFrame [grd] { s with resp := {} } t))
    ∧ gives .sregPropagateDone s fun t => t.sregPrev = [] ∧ rdF t hub HUB.SREG_SEL.BUSY = 0 ∧ t = { s with fields := t.fields, sregPrev := [] }

/-- Counters (R418-R423): one that passes its end starts again at 0 with OVF and its source recorded; a snapshot is armed, taken at its instant and
gathered; a monitor's counts start afresh; a 64-bit read of an even counter with a chained partner moves the partner's count to HOLD. Where it rests
on a choice of the model: assumption log 61. -/
def Obligations.BlockCounters : Prop :=
  ∀ (s : State) (m : Master),
    (∀ b i, i < 8 → present s b = true → (hdrOf s b).cntFreeze = false → exactEv (typeOf b) (ctrEvent s b i) = false → chained s b i = false → (i % 2 = 0 → chained s b (i + 1) = false) → ctrVal s b i < 2 ^ 48 →
      gives (.counterOverflow b i) s fun t => ctrVal t b i = 0 ∧ rdF t ctr CTR.CNT_HI.OVF i (ctrBank b) = 1 ∧ rdF t ctr CTR.OVF_SRC.VALID = 1 ∧ rdF t ctr CTR.OVF_SRC.DIE = b.die % 64 ∧ rdF t ctr CTR.OVF_SRC.CNT = i
        ∧ rdF t ctr CTR.OVF_SRC.SLOT = b.slot % 65536 ∧ raised t ctr 0 ∧ regFrame [ctr] s t)
    ∧ (portOpen s ctr → (whoOf s m).mach = true → gives (.snapArm m) s fun t => rdF t ctr CTR.SNAP_CTL.ARM = 1 ∧ rdF t ctr CTR.SNAP_CTL.DONE = 0 ∧ rdF t ctr CTR.SNAP_CTL.LATE = b2n (snapTime s < s.gtime)
        ∧ t.bw.snapped = false ∧ t = { s with fields := t.fields, bw := t.bw, resp := {} })
    ∧ (rdF s ctr CTR.SNAP_CTL.ARM ≠ 0 → present s ctr = true → gives .snapshotCopy s fun t => rdF t ctr CTR.SNAP_CTL.ARM = 0 ∧ t.bw.snapped = true ∧ t.harts = s.harts ∧ sameMemory s t
        ∧ t.gtime = if rdF s ctr CTR.SNAP_CTL.LATE = 1 then max s.gtime ((s.gtime + 31) / 32 * 32) else max s.gtime (snapTime s))
    ∧ (s.bw.snapped = true → gives .snapDone s fun t => rdF t ctr CTR.SNAP_CTL.DONE = 1 ∧ raised t ctr 1 ∧ t.bw.snapped = false ∧ regFrame [ctr] { s with bw := t.bw } t)
    ∧ (∀ k, k < 16 → present s ctr = true → (rdF s ctr CTR.BW_CFG.EN k = 0 ∨ mfind s.bw.mons k = none) → gives (.bwWindowStart k) s fun t =>
        let w := 32 * rdF s ctr CTR.BW_CFG.WIN k
        t.gtime = max s.gtime ((s.gtime + w - 1) / w * w) ∧ rdF t ctr CTR.BW_TX.UNITS k = 0 ∧ rdF t ctr CTR.BW_RX.UNITS k = 0 ∧ t.harts = s.harts ∧ sameMemory s t
          ∧ mfind t.bw.mons k = if rdF s ctr CTR.BW_CFG.EN k = 0 then none else some ⟨rdF s ctr CTR.BW_SRC.DIE k, rdF s ctr CTR.BW_SRC.SLOT k, rdF s ctr CTR.BW_CFG.WIN k⟩)
    ∧ (∀ i, i < 8 → i % 2 = 0 → portOpen s ctr →
      let b := ctrSel s
      present s b = true → b.slot < 65536 → b.die < 64 → exactEv (typeOf b) (ctrEvent s b i) = true → chained s b i = false → chained s b (i + 1) = true → ctrVal s b i < 2 ^ 48 → ctrVal s b (i + 1) < 2 ^ 48 →
      rdF s ctr CTR.CNT_LO.COUNT i (ctrBank b) < 2 ^ 32 → rdF s ctr CTR.CNT_LO.COUNT (i + 1) (ctrBank b) < 2 ^ 32 → gives (.chainedCounterRead m i) s fun t =>
        ctrVal t b i = 0 ∧ ctrVal t b (i + 1) = 0 ∧ t.resp.val % 2 ^ 48 = ctrVal s b i ∧ rdF t ctr CTR.HOLD_LO.COUNT = ctrVal s b (i + 1) % 2 ^ 32 ∧ t = { s with fields := t.fields, resp := t.resp })

/-- Registers whose write starts something (R230, R279, R331, R335, R340, R344, R346, R349, R384, R411): a domain asked to sleep or wake goes on its way
while it may; a Lockbox record is asked for; a bandwidth monitor starts afresh; cached translations are invalidated by VMID, BUSY until it is done; a
window is checked before it is enabled; an MSI-X vector is sent or left pending; PME wakes the host; a held root port has no link up, and its MODE
changes only while HOLD is 1. Where it rests on a choice of the model: assumption logs 46 and 66. -/
def Obligations.RegistersThatAct : Prop :=
  ∀ (s : State) (m : Master), 
    (∀ d n req, (whoOf s m).mach = true → portOpen s (pwr d) → isDomain d n = true → req < 3 →
      (4 ≤ modeOf s → modeOf s ≤ 6 → (req = 0 ∨ domMaySleep s d n = true) → gives (.domCtrlRequest m d n req) s fun t =>
        rdF t (pwr d) PWR.DOM_CTRL.REQ n = req ∧ rdF t (pwr d) PWR.DOM_CTRL.STATUS n = 2 ∧ (mget ({} : Dom) t.doms (domKey d n)).goal = some req
          ∧ t = { s with fields := t.fields, doms := t.doms, resp := {} })
      ∧ (¬(4 ≤ modeOf s ∧ modeOf s ≤ 6) ∨ (req ≠ 0 ∧ domMaySleep s d n = false) → gives (.domCtrlRequest m d n req) s fun t =>
        rdF t (pwr d) PWR.DOM_CTRL.STATUS n = 4 ∧ t = { s with fields := t.fields, resp := {} }))
    ∧ ((whoOf s m).mach = true → portOpen s lbx → ∀ (v : BitVec 32),
      (gives (.lbxRdSeqWrite m v) s fun t => rdF t lbx LBX.RD_STAT.BUSY = 1 ∧ rdF t lbx LBX.RD_STAT.VALID = 0 ∧ rdF t lbx LBX.RD_STAT.GONE = 0
        ∧ t.wd.loadWait = some (2 * v.toNat) ∧ t = { s with fields := t.fields, wd := { s.wd with loadWait := t.wd.loadWait }, resp := {} })
      ∧ (gives (.lbxRdSlotWrite m v) s fun t => rdF t lbx LBX.RD_STAT.BUSY = 1 ∧ rdF t lbx LBX.RD_STAT.VALID = 0 ∧ rdF t lbx LBX.RD_STAT.GONE = 0
        ∧ t.wd.loadWait = some (2 * (v.toNat % 64) + 1) ∧ t = { s with fields := t.fields, wd := { s.wd with loadWait := t.wd.loadWait }, resp := {} }))
    ∧ (portOpen s bwr → ∀ (v : BitVec 32), gives (.monSelWrite m v) s fun t => rdF t bwr BWR.MON_SEL.MASTER = bits v.toNat 22 16
        ∧ rdF t bwr BWR.MON_SEL.RES = bits v.toNat 4 0 ∧ rdF t bwr BWR.MON_DEMOTE.COUNT = 0 ∧ rdF t bwr BWR.MON_USED.UNITS = 0 ∧ rdF t bwr BWR.MON_USED.DEMOTED = 0
        ∧ t = { s with fields := t.fields, resp := {} })
    ∧ (portOpen s spl → ∀ (v : BitVec 32),
      (s.spl.inv = none → gives (.splCtxInv m v) s fun t => t.spl.inv = some (if bit v.toNat 30 then none else some (v.toNat % 2 ^ 14)) ∧ rdF t spl SPL.CTX_INV.BUSY = 1
        ∧ t = { s with fields := t.fields, spl := { s.spl with inv := t.spl.inv }, resp := {} })
      ∧ (s.spl.inv ≠ none → gives (.splCtxInv m v) s fun t => t = { s with resp := {} }))
    ∧ (∀ v, s.spl.inv = some v → gives .splCtxInvDone s fun t => t.spl.inv = none ∧ rdF t spl SPL.CTX_INV.BUSY = 0
        ∧ (∀ e, e ∈ t.spl.tlb ↔ e ∈ s.spl.tlb ∧ ∃ k, v = some k ∧ e.vmid ≠ k) ∧ t = { s with fields := t.fields, spl := { s.spl with inv := none, tlb := t.spl.tlb } })
    ∧ ((whoOf s m).mach = true → ∀ p, p < 4 → portOpen s (rcx p) → ∀ (v : BitVec 32),
      (mfind s.io.inv p = none → gives (.rcxCtxInv m p v) s fun t => mfind t.io.inv p = some (if bit v.toNat 30 then none else some (v.toNat % 2 ^ 14))
        ∧ rdF t (rcx p) RCX.CTX_INV.BUSY = 1 ∧ t = { s with fields := t.fields, io := { s.io with inv := t.io.inv }, resp := {} })
      ∧ (bits v.toNat 2 0 < 5 → gives (.rcxHoldWrite m p v) s fun t => rdF t (rcx p) RCX.LINK_CFG.HOLD = bits v.toNat 8 8
        ∧ rdF t (rcx p) RCX.LINK_CFG.MODE = (if rdF s (rcx p) RCX.LINK_CFG.HOLD = 0 then rdF s (rcx p) RCX.LINK_CFG.MODE else bits v.toNat 2 0)
        ∧ (bit v.toNat 8 = true → ∀ l, l < 4 → linkUp t p l = false) ∧ (bit v.toNat 8 = false → t = { s with fields := t.fields, resp := {} })))
    ∧ (∀ p v, mfind s.io.inv p = some v → gives (.rcxCtxInvDone p) s fun t => mfind t.io.inv p = none ∧ rdF t (rcx p) RCX.CTX_INV.BUSY = 0
        ∧ (∀ e, e ∈ mget [] t.io.ctx p ↔ e ∈ mget [] s.io.ctx p ∧ ∃ k, v = some k ∧ bits e.w1 57 44 ≠ k)
        ∧ (∀ e, e ∈ mget [] t.io.tlb p ↔ e ∈ mget [] s.io.tlb p ∧ ∃ k, v = some k ∧ e.vmid ≠ k)
        ∧ t = { s with fields := t.fields, io := { s.io with inv := t.io.inv, ctx := t.io.ctx, tlb := t.io.tlb } })
    ∧ (portOpen s sep →
      (∀ w (v : BitVec 32), w < 32 → (whoOf s m).mach = true →
        let u := wrF s sep SEP.WIN_CTRL.BAR (bits v.toNat 4 4) w
        (winEn s w = true ∨ winBad u w = false → gives (.sepWinEnable m w v) s fun t => winEn t w = true ∧ rdF t sep SEP.WIN_CTRL.BAR w = bits v.toNat 4 4
          ∧ rdF t sep SEP.WIN_CTRL.W w = bits v.toNat 1 1 ∧ rdF t sep SEP.WIN_CTRL.R w = bits v.toNat 0 0 ∧ rdF t sep SEP.WIN_CTRL.SEC w = bits v.toNat 29 29
          ∧ (winEn s w = false → rdF t sep SEP.WIN_CTRL.REFUSED w = 0 ∧ t.io.romSeq = (s.io.romSeq + 1) % 65536))
        ∧ (winEn s w = false → winBad u w = true → gives (.sepWinEnable m w v) s fun t => winEn t w = false ∧ rdF t sep SEP.WIN_CTRL.REFUSED w = 1
          ∧ t = { s with fields := t.fields, resp := {} }))
      ∧ (∀ n, let k := n % 32
        (k ≠ 0 → sepCan s = true → vecMasked s k = false → gives (.hostIrqVector m n) s fun t => t = { s with
          tx := s.tx ++ [⟨.host, 4, [k, readBytes s.io.msix (16 * k) 8, readBytes s.io.msix (16 * k + 8) 4]⟩], io := { s.io with pend := sDel s.io.pend k }, resp := {} })
        ∧ (k ≠ 0 → sepCan s = false ∨ vecMasked s k = true → gives (.hostIrqVector m n) s fun t => t = { s with io := { s.io with pend := sIns s.io.pend k }, resp := {} })
        ∧ (k = 0 → gives (.hostIrqVector m n) s fun t => t = { s with resp := {} }))
      ∧ gives (.hostIrqPme m) s fun t =>
        t.tx = s.tx ++ (if rdF s sep SEP.STAT.DSTATE = 3 then [⟨.host, 5, []⟩] else []) ++ (if rdF s sep SEP.STAT.PERST = 1 then [⟨.pin, 1, [0]⟩] else [])
          ∧ t = { s with tx := t.tx, io := { s.io with wake := s.io.wake || rdF s sep SEP.STAT.PERST = 1 }, resp := {} })

/-- Registers behind an address register (R56, R243, R260, R267): a descriptor written is queued in order, or dropped with QFULL set; a read gives the
descriptor in effect; the task store takes and gives whole words, an enabled task's descriptor words are denied and status words are not written; INC
moves on. A histogram is copied by a read of HIST_SEQ, subtracted by its acknowledgement, cleared by a new width. -/
def Obligations.IndexedRegisters : Prop :=
  ∀ (s : State) (m : Master),
    (portOpen s spl →
      let i := rdF s spl SPL.DESC_ADDR.INDEX
      let step := fun (t : State) => rdF t spl SPL.DESC_ADDR.INDEX = if rdF s spl SPL.DESC_ADDR.INC = 1 then (i + 1) % 2 ^ 19 else i
      (∀ (v : BitVec 32), let x := v.toNat % 65536 - if bit v.toNat 12 then 4096 else 0
        (bits x 15 14 < 3 → s.spl.dq.length < 256 → gives (.descWrite m v) s fun t => t.spl.dq = s.spl.dq ++ [(i, x)] ∧ step t ∧ t.spl.arr = s.spl.arr
          ∧ t = { s with fields := t.fields, spl := t.spl, bar := t.bar, tx := t.tx, bw := t.bw, resp := {} })
        ∧ (bits x 15 14 < 3 → 256 ≤ s.spl.dq.length → gives (.descWrite m v) s fun t => rdF t spl SPL.DESC_ADDR.QFULL = 1 ∧ raised t spl 4 ∧ t.spl = s.spl ∧ step t)
        ∧ (bits x 15 14 = 3 → gives (.descWrite m v) s fun t => (hdrOf t spl).badWrite = true ∧ t.spl = s.spl ∧ step t))
      ∧ gives (.descRead m) s fun t => t.resp = ⟨false, descOf s i⟩ ∧ step t ∧ t = { s with fields := t.fields, resp := t.resp })
    ∧ (portOpen s scn → (whoOf s m).mach = true →
      let o := rdF s scn SCN.TS_ADDR.OFFSET * 8
      let on := taskOn s (o / 64) || taskOnSh s (o / 64)
      let step := fun (t : State) => rdF t scn SCN.TS_ADDR.OFFSET = if rdF s scn SCN.TS_ADDR.INC = 1 then (o / 8 + 1) % 2 ^ 16 else o / 8
      (∀ v : BitVec 64, gives (.tsDataWrite m v) s fun t => step t ∧ t = { s with fields := t.fields, scan := { s.scan with ts := t.scan.ts, tsBad := t.scan.tsBad, tsLo := t.scan.tsLo }, resp := {} }
        ∧ (o < 0x40000 ∧ on = true → rdF t scn SCN.TS_ADDR.DENIED = 1)
        ∧ (o < 0x40000 ∧ (on = true ∨ 48 ≤ o % 64) → t.scan.ts = s.scan.ts)
        ∧ (0x40000 ≤ o ∨ (on = false ∧ o % 64 < 48) → tsWord t o = v.toNat ∧ ∀ a, a < o ∨ o + 8 ≤ a → byteAt t.scan.ts a = byteAt s.scan.ts a))
      ∧ gives (.tsDataRead m) s fun t => t.resp = ⟨false, tsWord s o⟩ ∧ step t ∧ t = { s with fields := t.fields, scan := { s.scan with tsHi := t.scan.tsHi }, resp := t.resp })
    ∧ (portOpen s scn →
      let c := rdF s scn SCN.HIST_SEL.CLASS
      (gives (.histSeqRead m) s fun t =>
        let q := (rdF s scn SCN.HIST_SEQ.SEQ 0 (1 + c) + 1) % 256
        t.resp = ⟨false, q⟩ ∧ rdF t scn SCN.HIST_SEQ.SEQ 0 (1 + c) = q ∧ (∀ j, j < 32 → rdF t scn SCN.HIST_BIN.COUNT j (1 + c) = mget 0 s.scan.hist (c * 32 + j) % 2 ^ 32)
          ∧ t = { s with fields := t.fields, resp := t.resp })
      ∧ (∀ v : BitVec 32,
        (v.toNat % 256 = rdF s scn SCN.HIST_SEQ.SEQ 0 (1 + c) → gives (.histAck m v) s fun t => t = { s with fields := t.fields, scan := { s.scan with hist := t.scan.hist }, resp := {} }
          ∧ ∀ j, j < 32 → rdF t scn SCN.HIST_BIN.COUNT j (1 + c) = 0
            ∧ mget 0 t.scan.hist (c * 32 + j) = (let v := mget 0 s.scan.hist (c * 32 + j); if v = 0xFFFFFFFF then v else v - rdF s scn SCN.HIST_BIN.COUNT j (1 + c)))
        ∧ (v.toNat % 256 ≠ rdF s scn SCN.HIST_SEQ.SEQ 0 (1 + c) → gives (.histAck m v) s fun t => (hdrOf t scn).staleAck = true ∧ t = { s with hdrs := t.hdrs, resp := {} })
        ∧ ((whoOf s m).mach = true → v.toNat % 32 ≤ 24 → gives (.histCfgWrite m v) s fun t => rdF t scn SCN.HIST_CFG.SHIFT 0 (1 + c) = v.toNat % 32
          ∧ (∀ j, j < 32 → rdF t scn SCN.HIST_BIN.COUNT j (1 + c) = 0) ∧ (∀ k, mget 0 t.scan.hist k = if k / 32 = c then 0 else mget 0 s.scan.hist k)
          ∧ t = { s with fields := t.fields, scan := { s.scan with hist := t.scan.hist }, resp := {} })
        ∧ ((whoOf s m).mach = true → 24 < v.toNat % 32 → gives (.histCfgWrite m v) s fun t => (hdrOf t scn).badWrite = true ∧ t.fields = s.fields ∧ t.scan = s.scan)))

/-- Commit points (R57, R58, R59, R60, R204, R233, R238, R261, R267, R390): an armed commit that passes its block's checks is applied, every shadowed
field taking its shadow value, and one that does not is refused with the reason of the first failed check, or as SECURE; either way ARM clears, CSEQ
rises and CMT_DONE is captured. Nothing armed, nothing happens. Queued descriptors of unassigned segments take effect in order; a prepared check of
TASK_EN leaves the queue. Where it rests on a choice of the model: assumption logs 62 and 63. -/
def Obligations.CommitPoints : Prop :=
  (∀ (s : State) (b : Blk), (hdrOf s b).arm = true → canCommit s b = true → hasBoundary s b = false →
    let u := if !(hdrOf s b).enable || typeOf b = 5 then runTo s ((s.gtime / 32 + 1) * 32) else s
    let done := fun (t : State) (r : Nat) => (hdrOf t b).arm = false ∧ (hdrOf t b).cseq = (hdrOf s b).cseq + 1 ∧ (hdrOf t b).reason = r
      ∧ (hdrOf t b).applied = decide (r = 0) ∧ (hdrOf t b).refused = decide (r ≠ 0) ∧ raised t b 23 ∧ t.gtime = u.gtime
    (typeOf b ∈ [5, 13, 25] →
      (taintOf u b = none → ownCheck u b = 0 → (u.shadow.map (·.1)).Nodup → gives (.commitPoint b) s fun t => done t 0 ∧ cmtPend t b = false
        ∧ ∀ k, keyInBlock b k = true → mfind t.fields k = (match mfind u.shadow k with
          | some e => some e.val
          | none => mfind u.fields k))
      ∧ (taintOf u b = none → ownCheck u b ≠ 0 → gives (.commitPoint b) s fun t => done t (ownCheck u b) ∧ t.shadow = u.shadow ∧ regFrame [b] u t)
      ∧ (taintOf u b ≠ none → gives (.commitPoint b) s fun t => done t 5 ∧ t.shadow = u.shadow ∧ counted u t hub HUB.SEV_CNT.COUNT
        ∧ ∀ k, keyInBlock b k = true → mfind t.fields k = mfind u.fields k))
    ∧ (b = bwr → taintOf u b = none → gives (.commitPoint b) s fun t => done t (bwrCheck u).1))
  ∧ (∀ (s : State) (b : Blk), (hdrOf s b).arm = false → gives (.commitPoint b) s fun t => t = s)
  ∧ (∀ (s : State), gives .taskCheckPrepDone s fun t => t = { s with chkBusy := s.chkBusy.drop 1 })
  ∧ (∀ (s : State) (e : Nat × Nat), e ∈ s.spl.dq → segClass s (e.1 / 1024) = none → (∀ e ∈ s.spl.dq, e.2 < 65536) →
    let u := runTo s ((s.gtime / 32 + 1) * 32)
    gives .descQueueApply s fun t => t = { u with spl := t.spl } ∧ t.spl.dq = u.spl.dq.filter (fun e => (segClass u (e.1 / 1024)).isSome)
      ∧ (∀ i, i < 524288 → segClass u (i / 1024) = none → descOf t i = descNext u i) ∧ ∀ i, i < 524288 → segClass u (i / 1024) ≠ none → descOf t i = descOf u i)

/-- The instants of the scans (R228, R239, R241, R246, R247, R251, R252, R256, R257, R298): GTIME reaches the earliest one and never falls back. At a
boundary the index of each class that runs on advances; at a regulation window the meters are read and cleared; a release starts the hart that waits
in SCAN.WAIT, is delayed by push lines still to move, or is a skip where the hart takes no part; a deadline without a usable report is a miss; the
pre-send of a class runs. Where it rests on a choice of the model: assumption logs 4, 11 and 34. -/
def Obligations.ScanInstants : Prop :=
  ∀ (s : State),
    (∀ at0, nextBoundary s = some at0 →
      (4 ≤ modeOf s → modeOf s ≤ 6 → (hdrOf s scn).arm = false → (hdrOf s spl).arm = false → gives .classBoundary s fun t => t.gtime = max s.gtime at0
        ∧ ∀ c, c < 8 → (clsOf s c).on = true →
          (clsNext s c = at0 → (clsOf s c).last = false → (clsOf t c).next = (clsOf s c).next + 1 ∧ (clsOf t c).begun = true ∧ (clsOf t c).on = true)
          ∧ (clsNext s c ≠ at0 → clsOf t c = clsOf s c))
      ∧ (modeOf s = 7 → s.bar.ldHold.isSome = true → gives .classBoundary s fun t => t.gtime = max s.gtime at0
        ∧ ∀ c, c < 8 → (clsOf s c).on = true → clsNext s c = at0 → (clsOf t c).next = (clsOf s c).next + 1))
    ∧ (powered s = true → gives .regulationWindowStart s fun t => t.gtime = (s.gtime / 4096 + 1) * 4096
        ∧ (s.scan.push = [] → s.scan.pull = [] → s.io.held = [] → (hdrOf s bwr).arm = false → (∀ k, k < 4 → (hdrOf s (l3c (1 + k))).arm = false) →
          t.bw.meter = [] ∧ t.scan.used = [] ∧ t.spl.used = 0
            ∧ rdF t bwr BWR.MON_USED.UNITS = min (mget 0 s.bw.meter (rdF s bwr BWR.MON_SEL.MASTER * 32 + rdF s bwr BWR.MON_SEL.RES)) 0xFFFFF))
    ∧ (scanOn s = true → ∀ k r, soonest (s.scan.runs.filter (fun e => !e.2.relDone)) relAt = some (k, r) →
      let u := runTo s (relAt r)
      let h := dHart r.w0
      let x := hartOf s h
      let seq := tsWord s (64 * k + 48) % 2 ^ 32
      let o : Owe := ⟨h, k, r.cls, seq, dlAt r⟩
      let clear := s.scan.push.any (fun l => l.task = k) = false
      let able := x.active = true ∧ x.rst = none ∧ hartDieUp u h = true
      (gives .taskRelease s fun t => t.gtime = max s.gtime (relAt r) ∧ mfind t.scan.runs k = some { r with relDone := true })
      ∧ (¬clear → gives .taskRelease s fun t => t.scan.late = s.scan.late ++ [o] ∧ t.harts = s.harts)
      ∧ (clear → able → x.run = .scanWait → gives .taskRelease s fun t => t.scan.owes = s.scan.owes ++ [o] ∧ (∀ j, j ≠ h → hartOf t j = hartOf s j)
        ∧ hartOf t h = { setCsr x 0x7C2 (BitVec.ofNat 64 (seq * 2 ^ 32 + 2 ^ 31 + r.cls * 2 ^ 12 + k)) with
            done := false, wakePend := false, swait := false, run := .running, pc := x.pc + 4 })
      ∧ (clear → able → x.run = .running → x.wakePend = false → gives .taskRelease s fun t => t.scan.owes = s.scan.owes ++ [o] ∧ bit (taskFlags t k) 5 = true
        ∧ (hartOf t h).wakePend = true ∧ (hartOf t h).pc = x.pc ∧ (hartOf t h).run = .running)
      ∧ (clear → x.active = false ∨ x.run = .parked → gives .taskRelease s fun t => t.scan.owes = s.scan.owes ∧ bit (taskFlags t k) 2 = true ∧ (r.cls < 8 → raised t scn r.cls)
        ∧ missRun t k = satInc 255 (missRun s k)))
    ∧ (scanOn s = true → ∀ o, s.scan.late.find? (fun o => !s.scan.push.any (fun l => l.task = o.task)) = some o → gives .delayedRelease s fun t =>
        t.scan.late = s.scan.late.erase o ∧ bit (taskFlags t o.task) 5 = true ∧ raised t scn 8)
    ∧ (scanOn s = true → ∀ k r, soonest (s.scan.runs.filter (fun e => !e.2.dlDone)) dlAt = some (k, r) →
      (gives .taskDeadline s fun t => t.gtime = max s.gtime (dlAt r) ∧ mfind t.scan.runs k = some { r with dlDone := true })
      ∧ (r.part = true → bit (taskFlags s k) 2 = false → (bit (taskFlags s k) 0 = false ∨ bit (taskFlags s k) 3 = true ∨ bit (taskFlags s k) 4 = true) → gives .taskDeadline s fun t =>
        bit (taskFlags t k) 1 = true ∧ (r.cls < 8 → raised t scn r.cls) ∧ missRun t k = satInc 255 (missRun s k))
      ∧ (r.part = true → outSlices r.w2 = [] → bit (taskFlags s k) 0 = true → bit (taskFlags s k) 2 = false → bit (taskFlags s k) 3 = false → bit (taskFlags s k) 4 = false →
        gives .taskDeadline s fun t => missRun t k = 0 ∧ taskFlags t k = taskFlags s k))
    ∧ (∀ c, (clsOf s c).on = true → (clsOf s c).begun = true → modeOf s ≠ 5 → scanOn s = true → gives (.presend c) s fun t =>
        t.gtime = max s.gtime (presendAt s c) ∧ c ∈ t.bar.presend ∧ mfind t.bar.marked c = none)

/-- The controls of a view and its window (R265, R267, R274, R275, R281, R282, R283): RESET advances the generation and empties the log; RESUME and a
cleared LOG_OVF let DMA and log go on; LOG_CONS takes a count within the log. A window read gives each slot the view may read and 0 for a denied one,
which is counted; a write puts each slot wholly covered and not denied into the image its region names, and no other byte of the array changes. -/
def Obligations.ViewsAndWindows : Prop :=
  ∀ (s : State) (m : Master),
    (portOpen s spl →
      let v := rdF s spl SPL.VIEW_SEL.VIEW
      (((whoOf s m).sec = true ∨ (vw s SPL.VIEW_CFG.SECURE v = 0 ∧ vwSh s SPL.VIEW_CFG.SECURE v = 0)) →
        (gives (.viewReset m) s fun t => vw t SPL.VIEW_CTRL.GEN v = (vw s SPL.VIEW_CTRL.GEN v + 1) % 256 ∧ vw t SPL.VIEW_CTRL.LOG_OVF v = 0 ∧ vw t SPL.VIEW_CTRL.DMA_SUSP v = 0
          ∧ vw t SPL.LOG_PROD.COUNT v = 0 ∧ vw t SPL.LOG_CONS.COUNT v = 0 ∧ mfind t.spl.dma v = none ∧ t = { s with fields := t.fields, spl := { s.spl with dma := t.spl.dma }, resp := {} })
        ∧ (gives (.viewResume m) s fun t => vw t SPL.VIEW_CTRL.DMA_SUSP v = 0 ∧ vw t SPL.VIEW_CTRL.LOG_OVF v = vw s SPL.VIEW_CTRL.LOG_OVF v ∧ t = { s with fields := t.fields, resp := {} })
        ∧ (gives (.logOvfClear m) s fun t => vw t SPL.VIEW_CTRL.LOG_OVF v = 0 ∧ vw t SPL.VIEW_CTRL.DMA_SUSP v = vw s SPL.VIEW_CTRL.DMA_SUSP v ∧ t = { s with fields := t.fields, resp := {} })
        ∧ (∀ x : BitVec 32,
          let inLog := (vw s SPL.LOG_PROD.COUNT v + 2 ^ 32 - x.toNat) % 2 ^ 32 ≤ 2 ^ vw s SPL.LOG_BASE_LO.LOG_EXP v
          (inLog → gives (.logConsWrite m x) s fun t => vw t SPL.LOG_CONS.COUNT v = x.toNat ∧ t = { s with fields := t.fields, resp := {} })
          ∧ (¬inLog → gives (.logConsWrite m x) s fun t => (hdrOf t spl).badWrite = true ∧ t = { s with hdrs := t.hdrs, resp := {} }))))
    ∧ (∀ v o size, v < 64 → o < 0x400_0000 → size ∈ [1, 2, 4, 8] → o % size = 0 → s.ddrExp ≤ 42 →
      let w := whoOf s m
      let o0 := o / 2 * 2
      let n := (size + 1) / 2
      let lost := fun (wr : Bool) => ((List.range n).filter (fun j => viewDenied s w v (o0 + 2 * j) wr)).length
      let counts := fun (t : State) (k : Nat) => vw t SPL.VIEW_DENY.COUNT v = min (2 ^ 32 - 1) (vw s SPL.VIEW_DENY.COUNT v + k)
      (size = 1 → w.hart ≠ 0xFF → gives (.viewWindowRead m v o size) s fun t => t = { s with resp := ⟨true, 0⟩ })
      ∧ (size ≠ 1 ∨ w.hart = 0xFF →
        ((∀ j, j < n → viewDenied s w v (o0 + 2 * j) false = true ∨ (viewSlot s v (o0 + 2 * j)).2 = false) → gives (.viewWindowRead m v o size) s fun t =>
          t.resp.err = false ∧ counts t (lost false) ∧ t.spl = s.spl ∧ t.bar = s.bar
            ∧ (2 ≤ size → ∀ j, j < n → bits t.resp.val (16 * j + 15) (16 * j) = if viewDenied s w v (o0 + 2 * j) false then 0 else (viewSlot s v (o0 + 2 * j)).1)
            ∧ (size = 1 → t.resp.val = (if viewDenied s w v o0 false then 0 else (viewSlot s v o0).1) / 2 ^ (8 * (o % 2)) % 256))
        ∧ ((∃ j, j < n ∧ viewDenied s w v (o0 + 2 * j) false = false ∧ (viewSlot s v (o0 + 2 * j)).2 = true) → gives (.viewWindowRead m v o size) s fun t =>
          t.resp = ⟨true, 0⟩ ∧ raised t spl 3 ∧ t.spl = s.spl)
        ∧ (∀ (x : BitVec 64) (e : BitVec 8),
          let be := if w.hart ≠ 0xFF then 2 ^ size - 1 else e.toNat % 2 ^ size
          let i := vw s SPL.VIEW_BASE.VALUE v + o % 0x100000 / 2
          let whole := fun (j : Nat) => j < size / 2 ∧ bits be (2 * j + 1) (2 * j) = 3 ∧ viewDenied s w v (o + 2 * j) true = false
          let at_ := fun (j : Nat) => if o / 0x100000 = 2 then pendOff s true (i + j) else if o / 0x100000 = 3 then safeOff (i + j) else forceOff (i + j)
          i + size / 2 ≤ 524288 → gives (.viewWindowWrite m v o size x e) s fun t =>
            (∀ j, whole j → slotAt t (at_ j) = if o / 0x100000 = 2 then mkSlot s (descOf s (i + j)) (bits x.toNat (16 * j + 15) (16 * j)) false false else bits x.toNat (16 * j + 15) (16 * j))
              ∧ (∀ j, whole j → o / 0x100000 = 2 → i + j ∈ t.spl.refOut)
              ∧ (∀ a, (∀ j, whole j → a ≠ at_ j ∧ a ≠ at_ j + 1) → byteAt t.spl.arr a = byteAt s.spl.arr a)
              ∧ t.harts = s.harts ∧ sameMemory s t)))

/-- The view DMA engine (R277, R278, R280, R281, R283): while the window has units, the lowest view with work sends its header, a due log entry, or its
next line; a buffer all of whose lines are accepted is completed and leaves the engine; a write that does not translate stops the view's DMA and is
recorded. Where it rests on a choice of the model: assumption logs 37 and 69. -/
def Obligations.ViewDmaEngine : Prop :=
  ∀ (s : State),
    (∀ v d, dmaView s = some (v, d) → dmaRoom s = true →
      (∀ pa u, gTrans s (viewWho s v) (viewHgatp s v) (dmaNext s v d) needWrite = (.ok pa, u) →
        let due : Bool := vw u SPL.VIEW_CFG.LOG_EN v = 1 && !d.pages.contains (dmaNext u v d / 4096)
        gives .viewDmaLineIssue s fun t =>
          (due = true → mfind t.spl.dma v = some { d with pages := dmaNext u v d / 4096 :: d.pages })
          ∧ (due = false → t.spl.used = u.spl.used + 1 ∧ ∃ e, mfind t.spl.dma v = some e ∧ e.seq = d.seq ∧ e.hdr = true ∧ e.line = d.line + b2n d.hdr)
          ∧ ∀ k, k ≠ v → mfind t.spl.dma k = mfind u.spl.dma k)
      ∧ (∀ e u i, i ∈ [Instr.viewDmaLineIssue, .viewDmaFault] → gTrans s (viewWho s v) (viewHgatp s v) (dmaNext s v d) needWrite = (.error e, u) → gives i s fun t =>
        mfind t.spl.dma v = none ∧ vw t SPL.VIEW_CTRL.DMA_SUSP v = 1 ∧ raised t spl 1
          ∧ (d.hdr = false → rdF u spl SPL.FAULT_INFO.VALID = 0 → rdF t spl SPL.FAULT_INFO.VALID = 1 ∧ rdF t spl SPL.FAULT_INFO.REASON = e.1 % 4 ∧ rdF t spl SPL.FAULT_INFO.VIEW = v % 64
            ∧ rdF t spl SPL.FAULT_GPA_LO.ADDR = dmaNext u v d / 4096 * 4096 % 2 ^ 32)))
    ∧ (∀ v d pa u, s.spl.dma.find? (fun e => e.2.hdr && decide (dmaLines e.2 ≤ e.2.line)) = some (v, d) → dmaRoom s = true →
      gTrans s (viewWho s v) (viewHgatp s v) (dmaAddr s v d) needWrite = (.ok pa, u) → gives .viewDmaComplete s fun t =>
        mfind t.spl.dma v = none ∧ vw t SPL.DMA_LAST.SEQ v = d.seq % 2 ^ 32 ∧ t.spl.used = u.spl.used + 1 ∧ ∀ k, k ≠ v → mfind t.spl.dma k = mfind u.spl.dma k)

/-- A request at its home bank (R160, R166, R168, R172, R313, R318), with no change of the secure regions under way and no write-back of the line from the
same cluster on its way: a read of a line no L2 holds installs E, of a line that others share S; a read of a line in an owner's L2 snoops the owner;
an ownership request installs M where no other holds the line, else it snoops all that do. A busy entry makes it wait; a normal request for a secure
address has no effect but a secure event; a sleeping slice is woken. Where it rests on a choice of the model: assumption logs 7 and 76. -/
def Obligations.HomeRequests : Prop :=
  ∀ (s : State) (r : CohReq) (ecc : EccFind),
    let d := 1 + homeDie s (r.line * 64)
    let sec := (isSecure s (r.line * 64)).1
    let kept := fun (t : State) => t.fields = s.fields ∧ t.hdrs = s.hdrs ∧ t.dram = s.dram ∧ t.poison = s.poison ∧ ∀ k, k ≠ r.line → mfind t.l3 k = mfind s.l3 k
    (domState s d 0 ≠ 0 → gives (.homeRequest r ecc) s fun t => (mget {} t.doms (domKey d 0)).waking = true
      ∧ (mget {} t.doms (domKey d 0)).held = (mget {} s.doms (domKey d 0)).held ++ [.homeRequest r ecc] ∧ t.l2 = s.l2 ∧ t.l3 = s.l3)
    ∧ (domState s d 0 = 0 → s.sregPrev = [] → wbAhead s r.cl r.line = false →
      (sec = true → r.sec = false → gives (.homeRequest r ecc) s fun t => counted s t hub HUB.SEV_CNT.COUNT ∧ t.l2 = s.l2 ∧ t.l3 = s.l3 ∧ t.snps = s.snps ∧ sameMemory s t)
      ∧ ((sec = true → r.sec = true) → ∀ e, mfind s.l3 r.line = some e →
        (e.busy.isSome = true → (s.pendq.filter (fun q => homeDie s (q.1 * 64) = homeDie s (r.line * 64) && homeBank (q.1 * 64) = homeBank (r.line * 64))).length < 64 →
          gives (.homeRequest r ecc) s fun t => t.pendq = s.pendq ++ [(r.line, r)] ∧ t.l2 = s.l2 ∧ t.l3 = s.l3 ∧ sameMemory s t)
        ∧ (e.busy = none →
          (r.kind = .read → e.dst = .uncached → gives (.homeRequest r ecc) s fun t => kept t
            ∧ (∃ l, l2Of t r.cl r.line = some l ∧ l.st = .e ∧ l.data = e.data ∧ l.poison = e.poison) ∧ mfind t.l3 r.line = some { e with dst := .exclusive, owner := r.cl, vec := [] })
          ∧ (r.kind = .read → e.dst = .shared → e.vec.filter (· ≠ r.cl) ≠ [] → gives (.homeRequest r ecc) s fun t => kept t
            ∧ (∃ l, l2Of t r.cl r.line = some l ∧ l.st = .s ∧ l.data = e.data ∧ l.poison = e.poison)
            ∧ mfind t.l3 r.line = some { e with dst := .shared, owner := 0, vec := sIns (e.vec.filter (· ≠ r.cl)) r.cl })
          ∧ (r.kind = .read → (e.dst = .exclusive ∨ e.dst = .owned) → e.owner ≠ r.cl → gives (.homeRequest r ecc) s fun t => kept t
            ∧ t.snps = s.snps ++ [⟨e.owner, r.line, false⟩] ∧ t.l2 = s.l2 ∧ mfind t.l3 r.line = some { e with busy := some { what := .req r, wait := [e.owner] } })
          ∧ (r.kind = .own → (named e).filter (· ≠ r.cl) = [] → gives (.homeRequest r ecc) s fun t => kept t
            ∧ (∃ l, l2Of t r.cl r.line = some l ∧ l.st = .m ∧ l.data = ((l2Of s r.cl r.line).map (·.data)).getD e.data) ∧ mfind t.l3 r.line = some { e with dst := .exclusive, owner := r.cl, vec := [] })
          ∧ (r.kind = .own → (named e).filter (· ≠ r.cl) ≠ [] → gives (.homeRequest r ecc) s fun t => kept t
            ∧ t.snps = s.snps ++ ((named e).filter (· ≠ r.cl)).map (fun c => ⟨c, r.line, true⟩) ∧ t.l2 = s.l2
            ∧ ∃ x, mfind t.l3 r.line = some { e with busy := some x } ∧ x.what = .req r ∧ x.wait = (named e).filter (· ≠ r.cl)))))

/-- An I/O-coherent request at the home (R51, R160, R167, R318): outside main memory it is an error; a read is answered from the L3 or from memory, or
snoops the owner; a write goes into the L3 and invalidates every L2 copy first. A normal access to a secure address reads zero and writes nothing.
Where it rests on a choice of the model: assumption log 7. -/
def Obligations.IoCoherentRequests : Prop :=
  ∀ (s : State) (m : Master) (ln : Nat) (op : IoOp) (pclass : Nat),
    let d := 1 + homeDie s (ln * 64)
    let sec := (isSecure s (ln * 64)).1
    let run := fun (P : State → Prop) => gives (.ioRequest m ln op pclass) s P
    (isMem (zoneOf s (ln * 64)) = false → run fun t => t.resp.err = true ∧ sameMemory s t)
    ∧ (isMem (zoneOf s (ln * 64)) = true → domState s d 0 = 0 → s.sregPrev = [] →
      (sec = true → (whoOf s m).sec = false → run fun t => t.resp = {} ∧ counted s t hub HUB.SEV_CNT.COUNT ∧ sameMemory s t)
      ∧ ((sec = true → (whoOf s m).sec = true) →
        (mfind s.l3 ln = none → op = .read → run fun t => t.resp = ⟨false, (memLine s ln).1.toNat⟩ ∧ sameMemory s t ∧ t.fields = s.fields)
        ∧ ∀ e, mfind s.l3 ln = some e → e.busy = none →
          (op = .read → (e.dst = .uncached ∨ e.dst = .shared) → run fun t => t.resp = ⟨false, e.data.toNat⟩ ∧ sameMemory s t ∧ t.fields = s.fields)
          ∧ (op = .read → (e.dst = .exclusive ∨ e.dst = .owned) → run fun t => t.snps = s.snps ++ [⟨e.owner, ln, false⟩] ∧ t.l2 = s.l2 ∧ t.dram = s.dram)
          ∧ (op ≠ .read → named e ≠ [] → run fun t => t.snps = s.snps ++ (named e).map (fun c => ⟨c, ln, true⟩) ∧ t.l2 = s.l2 ∧ t.dram = s.dram)
          ∧ (∀ v, op = .full v → named e = [] → run fun t => (∃ x, mfind t.l3 ln = some x ∧ x.data = v ∧ x.dirty = true ∧ x.dst = .uncached ∧ x.poison = 0) ∧ t.l2 = s.l2 ∧ t.dram = s.dram)
          ∧ (∀ k v, op = .part k v → named e = [] → run fun t => (∃ x, mfind t.l3 ln = some x ∧ x.data = mergeLine e.data v k ∧ x.dirty = true ∧ x.dst = .uncached) ∧ t.l2 = s.l2 ∧ t.dram = s.dram)))

/-- Snoops at a cluster (R166, R169, R173, R175): one that finds no copy is answered so; one that meets a write-back under way is answered from it; one
that would end a write permission inside the latch window is held until its end; any other is honoured at once, with the data of an M or O line. -/
def Obligations.Snoops : Prop :=
  ∀ (s : State) (cl ln : Nat),
    (∀ p, s.snps.find? (fun p => p.cl = cl && p.line = ln) = some p →
      let wb := s.wbs.find? (fun w => w.cl = cl && w.line = ln && !w.answered)
      (∀ w, wb = some w → gives (.snoop cl ln) s fun t => t.snps = s.snps.erase p ∧ t.rsps = s.rsps ++ [⟨cl, ln, false, some (w.data, w.poison)⟩] ∧ t.l2 = s.l2 ∧ t.l3 = s.l3 ∧ t.dram = s.dram)
      ∧ (wb = none →
        (l2Of s cl ln = none → gives (.snoop cl ln) s fun t => t.snps = s.snps.erase p ∧ t.rsps = s.rsps ++ [⟨cl, ln, false, none⟩] ∧ t.l2 = s.l2 ∧ t.l3 = s.l3 ∧ t.dram = s.dram)
        ∧ ∀ l, l2Of s cl ln = some l →
          let data := if l.st = .m ∨ l.st = .o then some (l.data, l.poison) else none
          ((l.st = .m ∨ l.st = .e) → 2 * s.gtime < l.latchEnd → gives (.snoop cl ln) s fun t => t.snps = s.snps.erase p ∧ t.rsps = s.rsps ∧ l2Of t cl ln = some { l with held := some p.inval } ∧ t.l3 = s.l3 ∧ t.dram = s.dram)
          ∧ (l.st = .o ∨ l.st = .s ∨ l.latchEnd ≤ 2 * s.gtime → gives (.snoop cl ln) s fun t => t.snps = s.snps.erase p ∧ t.rsps = s.rsps ++ [⟨cl, ln, true, data⟩] ∧ t.l3 = s.l3 ∧ t.dram = s.dram
              ∧ (p.inval = true → l2Of t cl ln = none)
              ∧ (p.inval = false → ∃ k, l2Of t cl ln = some k ∧ k.data = l.data ∧ k.st = (if l.st = .m ∨ l.st = .o then .o else .s)))))
    ∧ ∀ l inval, l2Of s cl ln = some l → l.held = some inval → gives (.latchWindowEnd cl ln) s fun t => t.gtime = max s.gtime ((l.latchEnd + 1) / 2)
        ∧ t.rsps = s.rsps ++ [⟨cl, ln, true, if l.st = .m ∨ l.st = .o then some (l.data, l.poison) else none⟩] ∧ t.l3 = s.l3 ∧ t.dram = s.dram ∧ (inval = true → l2Of t cl ln = none)

/-- The answers of snoops, retries, waiting requests (neither behind a write-back of the same cluster) and write-backs at the home (R166, R169, R171,
R172, R175, R318). A directory probe reads the entry of the line once it is not busy (R168): DONE, the state and the L3's copy, NOT_HOME for a line
homed elsewhere. Where it rests on a choice of the model: assumption log 76. -/
def Obligations.HomeAnswers : Prop :=
  (∀ (s : State) (cl ln : Nat) (ecc : EccFind),
    (∀ p e x, s.rsps.find? (fun p => p.cl = cl && p.line = ln) = some p → mfind s.l3 ln = some e → e.busy = some x →
      (sDel x.wait cl ≠ [] → gives (.snoopResponse cl ln) s fun t => t.rsps = s.rsps.erase p ∧ t.l2 = s.l2 ∧ t.dram = s.dram
        ∧ (p.present = false → p.data = none → counted s t (dirOf s ln) DIR.STALE_SNP.COUNT)
        ∧ ∃ e' x', mfind t.l3 ln = some e' ∧ e'.busy = some x' ∧ x'.wait = sDel x.wait cl ∧ x'.what = x.what)
      ∧ (∀ r d, sDel x.wait cl = [] → x.what = .req r → r.line = ln → r.kind = .own → p.data = some d → gives (.snoopResponse cl ln) s fun t => t.rsps = s.rsps.erase p ∧ t.dram = s.dram
        ∧ (∃ l, l2Of t r.cl ln = some l ∧ l.st = .m ∧ l.data = d.1 ∧ l.poison = d.2)
        ∧ ∃ e', mfind t.l3 ln = some e' ∧ e'.busy = none ∧ e'.dst = .exclusive ∧ e'.owner = r.cl ∧ e'.vec = [])
      ∧ (∀ w d, sDel x.wait cl = [] → x.what = .io w .read → p.data = some d → gives (.snoopResponse cl ln) s fun t => t.resp = ⟨false, d.1.toNat⟩ ∧ t.rsps = s.rsps.erase p ∧ t.dram = s.dram ∧ t.l2 = s.l2))
    ∧ (∀ r, s.retries.find? (fun r => r.req.cl = cl && r.req.line = ln) = some r → wbAhead s cl ln = false → gives (.retryBackoffExpire cl ln ecc) s fun t =>
        t = homeServe { s with retries := s.retries.erase r } r.req ecc (2 * r.backoff))
    ∧ (∀ q, s.pendq.find? (fun q => q.1 = ln) = some q → (mfind s.l3 ln = none ∨ ∃ e, mfind s.l3 ln = some e ∧ e.busy = none) → wbAhead s q.2.cl q.2.line = false → gives (.pendingServe ln ecc) s fun t =>
        t = homeServe { s with pendq := s.pendq.erase q } q.2 ecc 16)
    ∧ ∀ w, s.wbs.find? (fun w => w.cl = cl && w.line = ln) = some w → s.sregPrev = [] →
      let sec := (isSecure s (ln * 64)).1
      (w.answered = true → gives (.writeBack cl ln) s fun t => t.wbs = s.wbs.erase w ∧ t.l3 = s.l3 ∧ sameMemory s t)
      ∧ (w.answered = false → sec = true → w.sec = false → gives (.writeBack cl ln) s fun t => t.wbs = s.wbs.erase w ∧ counted s t hub HUB.SEV_CNT.COUNT ∧ sameMemory s t)
      ∧ (w.answered = false → (sec = true → w.sec = true) →
        (mfind s.l3 ln = none → gives (.writeBack cl ln) s fun t => t.wbs = s.wbs.erase w ∧ memLine t ln = (w.data, w.poison) ∧ t.l2 = s.l2 ∧ t.l3 = s.l3)
        ∧ ∀ e, mfind s.l3 ln = some e → gives (.writeBack cl ln) s fun t => t.wbs = s.wbs.erase w ∧ t.l2 = s.l2 ∧ t.dram = s.dram
          ∧ mfind t.l3 ln = some { e with data := w.data, poison := w.poison, valid := true, dirty := true, vec := sDel e.vec cl, owner := 0, dst := if (sDel e.vec cl).isEmpty then .uncached else .shared }))
  ∧ (∀ (s : State) (d : Nat) (w : Who), mfind s.probes d = some w → s.sregPrev = [] → d ≠ 24 →
    let b := dirB d
    let a := rdF s b DIR.PROBE_LO.ADDR * 64 + rdF s b DIR.PROBE_HI.ADDR * 2 ^ 32
    let sec := (isSecure s a).1
    let there := fun (t : State) => rdF t b DIR.PROBE_CTRL.DONE = 1 ∧ raised t b 4 ∧ mfind t.probes d = none ∧ regFrame [b] { s with probes := t.probes } t
    (mfind s.l3 (a / 64) = none → 1 + homeDie s a = d → gives (.dirProbeDone d) s fun t => there t ∧ rdF t b DIR.PROBE_CTRL.NOT_HOME = 0 ∧ rdF t b DIR.PROBE_STATE.STATE = 0 ∧ rdF t b DIR.PROBE_STATE.L3_VALID = 0)
    ∧ (∀ e, mfind s.l3 (a / 64) = some e → e.busy = none →
      (1 + homeDie s a ≠ d → gives (.dirProbeDone d) s fun t => there t ∧ rdF t b DIR.PROBE_CTRL.NOT_HOME = 1 ∧ rdF t b DIR.PROBE_STATE.STATE = 0)
      ∧ (1 + homeDie s a = d → sec = true → w.sec = false → gives (.dirProbeDone d) s fun t => there t ∧ rdF t b DIR.PROBE_CTRL.DENIED = 1 ∧ rdF t b DIR.PROBE_STATE.STATE = 0 ∧ rdF t b DIR.PROBE_STATE.OWNER = 0)
      ∧ (1 + homeDie s a = d → (sec = true → w.sec = true) → gives (.dirProbeDone d) s fun t => there t ∧ rdF t b DIR.PROBE_CTRL.NOT_HOME = 0 ∧ rdF t b DIR.PROBE_CTRL.DENIED = 0
          ∧ rdF t b DIR.PROBE_STATE.L3_VALID = b2n e.valid ∧ rdF t b DIR.PROBE_STATE.L3_DIRTY = b2n e.dirty ∧ rdF t b DIR.PROBE_STATE.OWNER = e.owner % 128 ∧ rdF t b DIR.PROBE_STATE.WAY = e.way % 16
          ∧ rdF t b DIR.PROBE_STATE.STATE = (match e.dst with
            | .uncached => 0
            | .shared => 1
            | .exclusive => 2
            | .owned => 3))))

/-- What the Warden answers from what it keeps: INFO, LIFE_READ, LBX_READ and SEAL_READ return their words in the channel's result buffer and end
ACCEPTED, or REFUSED for a record that is not held; SEAL_CLEAR empties the sealed slots. Nothing else differs (R400, R409, R411, R412). Configuration
copies and fuses (R325, R400, R405): CFG_READ writes the bytes asked for into memory; CFG_STAGE puts new content into the copy not in use, not valid
yet; CFG_COMMIT completes it with the hart map and the next SEQ and puts it into use; FUSE blows the fuses of the mask and no other. Where it rests on
a choice of the model: assumption log 59. -/
def Obligations.MailboxReads : Prop :=
  (∀ (s : State) (c tag : Nat),
    (asked s c 0x01 tag → gives (.info c) s fun t => answered t c 1 ∧ mailOnly s t
      ∧ rdF t wdn (chRspF c) 0 = (bankOfW s s.wd.run).ver % 2 ^ 32 ∧ rdF t wdn (chRspF c) 1 = (s.wd.run + 256 * s.wd.copy) % 2 ^ 32
      ∧ rdF t wdn (chRspF c) 2 = cfgSeq s s.wd.copy % 2 ^ 32
      ∧ rdF t wdn (chRspF c) 3 = (if fitted s.variant 24 then (bankOfF s s.wd.fdRun).ver % 2 ^ 32 else 0)
      ∧ rdF t wdn (chRspF c) 4 = mget 0 s.life (7 * 4096) % 2 ^ 32)
    ∧ (asked s c 0x70 tag → 0 < argByte s c 2 → argByte s c 2 ≤ 30 → 4096 ≤ argNum s c 0 2 → argNum s c 0 2 + argByte s c 2 ≤ 9 * 4096 →
      gives (.lifeRead c) s fun t => answered t c 1 ∧ mailOnly s t
        ∧ rdF t wdn (chRspF c) 0 = argNum s c 0 2 + 65536 * argByte s c 2 ∧ rdF t wdn (chRspF c) 2 = s.gtime % 2 ^ 32
        ∧ rdF t wdn (chRspF c) 3 = s.gtime / 2 ^ 32 % 2 ^ 32
        ∧ ∀ j, j < argByte s c 2 → rdF t wdn (chRspF c) (4 + 2 * j) = mget 0 s.life (argNum s c 0 2 + j) % 2 ^ 32
          ∧ rdF t wdn (chRspF c) (5 + 2 * j) = mget 0 s.life (argNum s c 0 2 + j) / 2 ^ 32 % 2 ^ 32)
    ∧ (asked s c 0x60 tag →
      let q := if argNum s c 0 4 = 0xFFFFFFFF then s.wd.seq else argNum s c 0 4
      (∀ r, ringRec s q = some r → r.length = 256 → gives (.lbxRead c) s fun t => answered t c 1 ∧ mailOnly s t
        ∧ ∀ j, j < 64 → rdF t wdn (chRspF c) j = ((wordsOf (recordFor c r))[j]?).getD 0 % 2 ^ 32)
      ∧ (ringRec s q = none → gives (.lbxRead c) s fun t => answered t c 7 ∧ mailOnly s t))
    ∧ (asked s c 0x61 tag → argByte s c 0 < 64 →
      (∀ r, mfind s.wd.seals (argByte s c 0) = some r → r.length = 256 → gives (.sealRead c) s fun t => answered t c 1 ∧ mailOnly s t
        ∧ ∀ j, j < 64 → rdF t wdn (chRspF c) j = ((wordsOf (recordFor c r))[j]?).getD 0 % 2 ^ 32)
      ∧ (mfind s.wd.seals (argByte s c 0) = none → gives (.sealRead c) s fun t => answered t c 7 ∧ mailOnly s t))
    ∧ (asked s 0 0x62 tag → gives (.sealClear 0) s fun t => answered t 0 1 ∧ t.wd.seals = [] ∧ rdF t lbx LBX.SEAL_STAT.LOST = 0
        ∧ mailOnly { s with wd := { s.wd with seals := [] } } t))
  ∧ (∀ (s : State) (tag : Nat),
    let k := argByte s 0 0
    let o := argNum s 0 4 4
    let a := argNum s 0 8 8
    let n := argNum s 0 16 4
    (asked s 0 0x50 tag → k < 2 → o + n ≤ 0x400000 → memRange s a n = true → gives (.cfgRead 0) s fun t => answered t 0 1
      ∧ t = answer (ioWriteBytes (takenUp s 0 0x50 tag []) (whoOf s .warden) a ((List.range n).map (fun j => cfgByte (cfgCopy s k) (o + j)))) 0 1)
    ∧ (∀ bs s2, asked s 0 0x51 tag → n ≤ 0x400000 → memRange s a n = true →
      ioReadBytes (takenUp s 0 0x51 tag []) (whoOf s .warden) a n = ((bs, false), s2) → gives (.cfgStage 0) s fun t => answered t 0 1 ∧ t.wd.staged = true
        ∧ cfgCopy t (1 - s2.wd.copy) = { bytes := writeBytes [] 0 n (leNum bs), ok := false } ∧ t.wd.copy = s2.wd.copy)
    ∧ (asked s 0 0x52 tag →
      let q := (cfgSeq s s.wd.copy + 1) % 2 ^ 32
      let new : CfgCopy := { bytes := cfgWithMap s (cfgCopy s (if s.wd.staged then 1 - s.wd.copy else s.wd.copy)).bytes q, ok := true }
      cfgValid new = true → gives (.cfgCommit 0) s fun t => answered t 0 1 ∧ cfgCopy t (1 - s.wd.copy) = new ∧ t.wd.copy = 1 - s.wd.copy ∧ t.wd.staged = false
        ∧ rdF t wdn (chRspF 0) 0 = q ∧ (s.lbq.length < 256 → t.lbq = s.lbq ++ [⟨0x80, false, 0, 0xFF, s.gtime, modeOf s, [1 - s.wd.copy, 0, 0, 0] ++ leBytes q 4, false⟩])
        ∧ t.harts = s.harts ∧ sameMemory s t)
    ∧ (asked s 0 0x80 tag → argNum s 0 4 4 = 0x46555345 → k < 16 → (∀ h, (hartOf s h).run ≠ .halted) → gives (.fuse 0) s fun t => answered t 0 1 ∧ mailOnly s t
        ∧ rdF t hub HUB.DBG_FUSE.SID = (if bit k 0 then 1 else rdF s hub HUB.DBG_FUSE.SID) ∧ rdF t hub HUB.DBG_FUSE.SNID = (if bit k 1 then 1 else rdF s hub HUB.DBG_FUSE.SNID)
        ∧ rdF t hub HUB.DBG_FUSE.NID = (if bit k 2 then 1 else rdF s hub HUB.DBG_FUSE.NID) ∧ rdF t hub HUB.DBG_FUSE.NNID = (if bit k 3 then 1 else rdF s hub HUB.DBG_FUSE.NNID)))

/-- Only channel 0 carries HART_START, FW_STAGE, FW_SWITCH, CFG_READ, CFG_STAGE, CFG_COMMIT, SEAL_CLEAR and FUSE: on another channel each is answered
DENIED with none of its effect. (R398, R400). The commands about units (R27, R75, R79, R182, R377, R400): FENCE of a die already fenced is ACCEPTED
and changes nothing; of one that may be fenced, the die is out of service with REASON 5. DIE_RESET of a fenced die that can return, and WARM_RESET,
stay PENDING until they are over; the warm reset keeps main memory, counts itself and begins Boot, whether asked by the mailbox or through JTAG. Where
it rests on a choice of the model: assumption logs 57 and 59. -/
def Obligations.MailboxUnits : Prop :=
  (∀ (s : State) (c tag : Nat), c ≠ 0 → ∀ (code : Nat) (i : Instr),
    (code, i) ∈ [(0x20, Instr.hartStart c), (0x40, .fwStage c), (0x41, .fwSwitch c), (0x50, .cfgRead c), (0x51, .cfgStage c), (0x52, .cfgCommit c),
      (0x62, .sealClear c), (0x80, .fuse c)] →
    asked s c code tag → gives i s fun t => answered t c 3 ∧ mailOnly s t)
  ∧ (∀ (s : State) (c tag : Nat),
    let d := argByte s c 0
    (asked s c 0x30 tag → running s = true → argByte s c 0 = 0 → hasDie s (argByte s c 1) = true →
      (dieUp s (argByte s c 1) = false → gives (.fenceCommand c) s fun t => answered t c 1 ∧ mailOnly s t)
      ∧ (∀ b, dieUp s (argByte s c 1) = true → heldAmong s (withDie (argByte s c 1)) = some b → c ≠ 0 → gives (.fenceCommand c) s fun t => answered t c 3 ∧ t.dies = s.dies)
      ∧ (dieUp s (argByte s c 1) = true → (c = 0 ∨ heldAmong s (withDie (argByte s c 1)) = none) →
          dieAllowed (takenUp s c 0x30 tag (dieNames (argByte s c 1))) (argByte s c 1) = true → gives (.fenceCommand c) s fun t => answered t c 1
            ∧ (mget {} t.dies (argByte s c 1)).st = 2 ∧ (mget {} t.dies (argByte s c 1)).reason = 5 ∧ t.gtime = s.gtime))
    ∧ (asked s c 0x31 tag → running s = true → hasDie s d = true → dieUp s d = false → canReturn s d = true → gives (.dieReset c) s fun t =>
        pendingOn t c 0x31 ∧ (chanOfW t c).arg = d ∧ t = { s with fields := t.fields, wd := t.wd, dies := mput s.dies d { mget {} s.dies d with resetting := true } })
    ∧ (let after := fun (t : State) (rst : Nat) => modeOf t = 3 ∧ rdF t (pwr 0) PWR.MODE.CAUSE = 1 ∧ rdF t (clk 0) CLK.RST_CAUSE.CAUSE = (if modeOf s = 7 then 4 else rst)
          ∧ rdF t (clk 0) CLK.RST_CAUSE.WARM_CNT = min (2 ^ (CLK.RST_CAUSE.WARM_CNT.hi + 1 - CLK.RST_CAUSE.WARM_CNT.lo) - 1) (rdF s (clk 0) CLK.RST_CAUSE.WARM_CNT + 1)
          ∧ t.dram = s.dram ∧ t.poison = s.poison ∧ t.l2 = [] ∧ t.l3 = [] ∧ t.gtime = s.gtime ∧ t.wd.warm = true ∧ t.wd.bootStep = 0
          ∧ ∀ h, hartOf t h = { core := (hartOf t h).core }
      (asked s c 0x32 tag → warmOk s = true → (c = 0 ∨ s.hdrs.any (fun e => e.2.secHold) = false) → gives (.warmReset c) s fun t => pendingOn t c 0x32 ∧ after t 2)
      ∧ (warmOk s = true → gives .jtagWarmReset s fun t => after t 3)))

/-- The commands about harts (R75, R109, R312, R323, R324, R400): HART_START of a parked hart starts it in M-mode at the address given; HART_PARK of one
at an instruction boundary parks it; HART_RESET stops it and stays PENDING until HART_RESET_DONE, which leaves it parked in its reset state; SWAP with
a spare to be had stays PENDING with that spare. A swap (R109-R111): the hart is parked when it is calm, and not in deterministic mode; after 1 s
without a park window the swap is REFUSED; once parked, the hart goes on on the spare with its registers and local store, its reservation, TLBs and L1
empty, and the core it left is out of service. Where it rests on a choice of the model: assumption log 73. -/
def Obligations.MailboxHarts : Prop :=
  (∀ (s : State) (c tag : Nat),
    let h := argByte s c 0
    let x := hartOf s h
    let free : Prop := (c ≠ 0 → secHeld s (hartHcl s h) = false) ∧ atBoundary x = true ∧ (x.run = .parked ∨ c = 0 ∨ secureHart x = false)
    (h < hartCount s → running s = true → dieUp s (coreDie x.core) = true →
      (asked s 0 0x20 tag → c = 0 → x.run = .parked → x.rst = none → gives (.hartStart 0) s fun t => answered t 0 1
        ∧ hartOf t h = startHart x (BitVec.ofNat 64 (argNum s 0 8 8)) ∧ (∀ j, j ≠ h → hartOf t j = hartOf s j) ∧ sameMemory s t)
      ∧ (asked s c 0x21 tag → free → gives (.hartPark c) s fun t => answered t c 1
        ∧ hartOf t h = { x with run := .parked } ∧ (∀ j, j ≠ h → hartOf t j = hartOf s j) ∧ sameMemory s t)
      ∧ (asked s c 0x22 tag → free → gives (.hartReset c) s fun t => pendingOn t c 0x22
        ∧ (hartOf t h).run = .parked ∧ (hartOf t h).rst = some (x.rst.getD [] ++ [c]) ∧ (hartOf t h).x = x.x
        ∧ (∀ j, j ≠ h → hartOf t j = hartOf s j) ∧ sameMemory s t)
      ∧ (asked s c 0x23 tag → argByte s c 1 = 0 → capEff s 25 = true → ∀ p, p < 65536 →
        (if argNum s c 2 2 = 0xFFFF then chooseSpare s x.core = some p else argNum s c 2 2 = p ∧ p ∈ freeSpares s (coreDie x.core)) →
        gives (.swap c) s fun t => pendingOn t c 0x23 ∧ swapOf t h = some c ∧ swapCore t c = p ∧ swapAt t c = s.gtime ∧ t.harts = s.harts ∧ sameMemory s t))
    ∧ ∀ (g : Nat) (chs : List Nat), (hartOf s g).rst = some chs → sbEmpty (hartOf s g) = true → gives (.hartResetDone g) s fun t =>
        hartOf t g = resetHart (hartOf s g) ∧ (∀ j, j ≠ g → hartOf t j = hartOf s j) ∧ sameMemory s t
          ∧ ∀ k, k ∈ chs → k < 3 → (chanOfW s k).code = 0x22 → rdF t wdn (chBusyF k) = 0 ∧ rdF t wdn (chStatF k) = 1 ∧ raised t wdn k)
  ∧ (∀ (s : State) (h c : Nat), swapOf s h = some c → c < 3 →
    let x := hartOf s h
    (detHart s h = false → x.run ≠ .swapping → x.cur = none → x.trapWait = none → x.syncing = false → x.walk = none → x.miss = none → x.ioTag = none →
      sbEmpty x = true → x.rst = none → gives (.swapPark h) s fun t => t = setHart s h { x with before := x.run, run := .swapping })
    ∧ (detHart s h = true → x.run ≠ .swapping → gives (.swapParkTimeout h) s fun t => rdF t wdn (chBusyF c) = 0 ∧ rdF t wdn (chStatF c) = 7 ∧ raised t wdn c
        ∧ t.gtime = max s.gtime (swapAt s c + 3200000000) ∧ t.harts = s.harts ∧ sameMemory s t)
    ∧ (x.run = .swapping → x.deferred = [] → x.haltReq = false → x.stepping = false → gives (.swapComplete h) s fun t =>
        let y := if x.before = .scanWait ∧ x.wakePend = true then { scanWake x x.wakeInfo with before := .running } else x
        hartOf t h = { y with core := swapCore s c, run := y.before, resv := none, itlb := [], dtlb := [], l2tlb := [], l1d := [], vc := [], l1i := [], strm := {} }
          ∧ (∀ j, j ≠ h → hartOf t j = hartOf s j) ∧ x.core ∈ t.wd.withdrawn ∧ t.dram = s.dram ∧ t.l2 = s.l2
          ∧ (memWf s.lstore = true → ∀ k, k < 2 ^ 17 → byteAt t.lstore (swapCore s c * 2 ^ 17 + k) = byteAt s.lstore (x.core * 2 ^ 17 + k))
          ∧ rdF t wdn (chStatF c) = 1 ∧ rdF t wdn (chBusyF c) = 0 ∧ rdF t wdn (chRspF c) 0 = swapCore s c))

/-- Firmware (R413, R415, R416): FW_STAGE of the Warden writes a good image to the bank not running with the next sequence number; FW_SWITCH starts it,
with a management pause; FW_HEALTHY ends the switch ACCEPTED; without it, after a second, the bank is given up and the old one runs again. Firmware of
the field die (R310, R415, R416): each FW_ACK without an error counts down the blocks outstanding, one with an error ends the staging REFUSED, and the
last completes the bank; the restart ends with the new bank running, or the old one and the new one invalid. Where it rests on a choice of the model:
assumption logs 4 and 58. -/
def Obligations.Firmware : Prop :=
  (∀ (s : State) (tag : Nat),
    let a := argNum s 0 8 8
    let n := argNum s 0 16 4
    let nb := 1 - s.wd.run
    (∀ bs s2, asked s 0 0x40 tag → argByte s 0 0 = 0 → n ≤ 0x100000 → memRange s a n = true →
      ioReadBytes (takenUp s 0 0x40 tag [unitFw 0]) (whoOf s .warden) a n = ((bs, false), s2) → imageOk bs 0x100000 = true → gives (.fwStage 0) s fun t =>
        answered t 0 1 ∧ t.wd.run = s2.wd.run
          ∧ bankOfW t (1 - s2.wd.run) = ⟨((bankOfW s2 s2.wd.run).seq + 1) % 2 ^ 32, leNum ((bs.drop 4).take 4), leNum ((bs.drop 12).take 4), true⟩)
    ∧ (asked s 0 0x41 tag → argByte s 0 0 = 0 → (bankOfW s nb).ok = true → gives (.fwSwitch 0) s fun t => pendingOn t 0 0x41
        ∧ t.wd.pause = true ∧ t.wd.run = nb ∧ t.wd.switching = some nb ∧ t.wd.lifeCk = s.life ∧ t.harts = s.harts ∧ sameMemory s t
        ∧ (s.lbq.length < 256 → t.lbq = s.lbq ++ [⟨0x70, false, 0, 0xFF, s.gtime, modeOf s, [0, nb, 0, 0] ++ leBytes (bankOfW s nb).ver 4, false⟩]))
    ∧ (s.wd.switching.isSome = true → gives .fwHealthy s fun t => t.wd.switching = none ∧ raised t wdn 3 ∧ t.wd.run = s.wd.run ∧ t.harts = s.harts ∧ sameMemory s t
        ∧ ∀ c, switchCmd s 0 = some c → rdF t wdn (chBusyF c) = 0 ∧ rdF t wdn (chStatF c) = 1 ∧ raised t wdn c)
    ∧ (∀ m, s.wd.switching = some m → gives .fwHealthTimeout s fun t => t.wd.run = 1 - m ∧ (bankOfW t m).ok = false ∧ t.wd.switching = none ∧ t.wd.pause = true
        ∧ (∀ c, switchCmd s 0 = some c → t.gtime = max s.gtime ((chanOfW s c).arg / 2 + 3200000000)) ∧ t.harts = s.harts ∧ sameMemory s t)
    ∧ (s.wd.pause = true → s.wd.latched = [] → s.wd.railsOk = true → (∀ c, c < 3 → (chanOfW s c).asked = none) → gives .managementPauseEnd s fun t => t.wd.pause = false
        ∧ t.wd.run = s.wd.run ∧ (s.wd.rstEvt = true → raised t wdn 4) ∧ t.harts = s.harts ∧ sameMemory s t)
    ∧ ∀ ver crc, modeOf s ≠ 0 → (gives (.jtagImageWritten false ver crc) s fun t => t = { s with wd := { s.wd with jtag := true } })
        ∧ (chooseBank s.wd.banks = none → gives (.jtagImageWritten true ver crc) s fun t =>
            t = { s with wd := { s.wd with banks := mput s.wd.banks 0 ⟨1, ver, crc, true⟩, run := 0 } }))
  ∧ (∀ (s : State),
    (∀ f s1 c, arrive s false [0x602] = (some f, s1) → (List.range 3).find? (fun c => (chanOfW s1 c).code = 0x40) = some c →
      let x := chanOfW s1 c
      (bit f.tag 16 = true → gives .fwAck s fun t => rdF t wdn (chBusyF c) = 0 ∧ rdF t wdn (chStatF c) = 7 ∧ raised t wdn c ∧ t.wd.fdBanks = s1.wd.fdBanks)
      ∧ (bit f.tag 16 = false → x.arg % 65536 ≠ 1 → gives .fwAck s fun t => t = setChan s1 c { x with arg := x.arg - 1 })
      ∧ (bit f.tag 16 = false → x.arg % 65536 = 1 → gives .fwAck s fun t => rdF t wdn (chBusyF c) = 0 ∧ rdF t wdn (chStatF c) = 1 ∧ raised t wdn c
          ∧ bankOfF t (1 - s1.wd.fdRun) = ⟨((bankOfF s1 s1.wd.fdRun).seq + 1) % 2 ^ 32, x.arg / 2 ^ 48, x.arg / 2 ^ 16 % 2 ^ 32, true⟩))
    ∧ ∀ nb, s.fld.switching = some nb → s.fld.waiting = [] →
      (gives (.fieldFwRestartDone true) s fun t => t.fld.switching = none ∧ t.wd.fdRun = nb ∧ raised t (fld 0) 4 ∧ t.wd.fdBanks = s.wd.fdBanks ∧ t.fld.sess = s.fld.sess ∧ sameMemory s t)
      ∧ gives (.fieldFwRestartDone false) s fun t => t.fld.switching = none ∧ t.wd.fdRun = s.wd.fdRun ∧ (bankOfF t nb).ok = false ∧ t.fld.sess = s.fld.sess ∧ sameMemory s t)

/-- A fault inside the Warden (R396, R413): the restart is counted and recorded with its cause, commands in progress end FAILED, and a management pause
begins. The Lockbox (R406, R408, R411, R412): the oldest queued record takes the next SEQ and its slot of the ring, and where records were lost a
record with their number follows the last; a checkpoint saves the lifetime counters; a finished load shows the record's words, or that it is gone.
Where it rests on a choice of the model: assumption log 58. -/
def Obligations.WardenRecords : Prop :=
  (∀ (s : State) (i : Instr) (cause : Nat), (i, cause) ∈ [(Instr.lockstepMismatch, 0), (.wardenSramUe, 1), (.watchdogExpire, 2)] →
    modeOf s ≠ 0 → s.wd.switching = none → gives i s fun t => t.wd.pause = true ∧ t.wd.restart = some s.gtime
      ∧ mget 0 t.life (7 * 4096 + 4) = mget 0 s.life (7 * 4096 + 4) + 1
      ∧ (s.lbq.length < 256 → t.lbq = s.lbq ++ [⟨0x72, false, 0, 0xFF, s.gtime, modeOf s, [cause], false⟩])
      ∧ (∀ c, c < 3 → (chanOfW s c).code ≠ 0 → rdF t wdn (chBusyF c) = 0 ∧ rdF t wdn (chStatF c) = 8 ∧ (chanOfW t c).code = 0)
      ∧ (∀ u, s.wd.restart = some u → s.gtime ≤ u + 60000 * 3200000 → Latched.fatal 8 [] ∈ t.wd.latched)
      ∧ t.harts = s.harts ∧ sameMemory s t)
  ∧ (∀ (s : State),
    (∀ r q, s.lbq = r :: q → gives .lockboxRecordWrite s fun t =>
      let n := (s.wd.seq + 1) % 2 ^ 32
      t.wd.seq = n ∧ mfind t.wd.ring (n % 16384) = some (recBytes s n r 0) ∧ (∀ k, k ≠ n % 16384 → mfind t.wd.ring k = mfind s.wd.ring k)
        ∧ (q ≠ [] ∨ s.lbDrop = 0 → t.lbq = q ∧ t.lbDrop = s.lbDrop)
        ∧ (q = [] → s.lbDrop ≠ 0 → t.lbDrop = 0 ∧ t.lbq = [⟨0xFE, false, 0, 0xFF, s.gtime, modeOf s, leBytes s.lbDrop 4, false⟩])
        ∧ t = { s with lbq := t.lbq, lbDrop := t.lbDrop, wd := { s.wd with seq := t.wd.seq, ring := t.wd.ring } })
    ∧ (modeOf s ≠ 0 → s.wd.pause = false → gives .lifetimeCheckpoint s fun t => t = { s with wd := { s.wd with lifeCk := s.life } })
    ∧ ∀ k, s.wd.loadWait = some k →
      let held := if k % 2 = 0 then ringRec s (k / 2) else mfind s.wd.seals (k / 2)
      (∀ r, held = some r → r.length = 256 → gives .lbxLoadDone s fun t => rdF t lbx LBX.RD_STAT.BUSY = 0 ∧ rdF t lbx LBX.RD_STAT.VALID = 1
        ∧ (∀ j, j < 64 → rdF t lbx LBX.REC.DATA j = ((wordsOf r)[j]?).getD 0 % 2 ^ 32) ∧ t = { s with fields := t.fields, wd := { s.wd with loadWait := none } })
      ∧ (held = none → gives .lbxLoadDone s fun t => rdF t lbx LBX.RD_STAT.BUSY = 0 ∧ rdF t lbx LBX.RD_STAT.GONE = 1
        ∧ t = { s with fields := t.fields, wd := { s.wd with loadWait := none } }))

/-- Mode transitions by request (R377, R379, R380, R383): Run to Hold and back, Run to Shadow, Run to Standby or Watch; a Hold with classes enabled is
left only once they are, and shows TRANS meanwhile. A transition the table does not list is answered REFUSED. Wake sources (R101, R308, R385, R413,
R436): in Standby or Watch an enabled one that finds WAKE# not driven is recorded and drives it low. WATCH_WAKE during a management pause is latched.
Where it rests on a choice of the model: assumption logs 45 and 55. -/
def Obligations.ModesByRequestAndWake : Prop :=
  (∀ (s : State) (c tag : Nat), asked s c 0x10 tag → rdF s (pwr 0) PWR.MODE.TRANS = 0 →
    let m := modeOf s
    let dest := argByte s c 0
    (m = 4 → dest = 6 → pairState s = 0 → clsOn s ≠ [] → gives (.mode c) s fun t => answered t c 1 ∧ nowMode t 6 1 ∧ rdF t (pwr 0) PWR.MODE.PREV = 4 ∧ t.harts = s.harts ∧ sameMemory s t)
    ∧ (m = 6 → dest = 4 → clsOn s = [] → gives (.mode c) s fun t => answered t c 1 ∧ nowMode t 4 1 ∧ rdF t (pwr 0) PWR.MODE.PREV = 6 ∧ t.harts = s.harts ∧ sameMemory s t)
    ∧ (m = 6 → dest = 4 → clsOn s ≠ [] → gives (.mode c) s fun t => pendingOn t c 0x10 ∧ modeOf t = 6 ∧ rdF t (pwr 0) PWR.MODE.TRANS = 1 ∧ t.wd.leaving = clsOn s
        ∧ t.harts = s.harts ∧ sameMemory s t)
    ∧ (m = 4 → dest = 5 → s.variant ≠ .n240 → mgrSel s = true → joinOf s = 2 → clRole s ≠ 1 → gives (.mode c) s fun t => answered t c 1 ∧ nowMode t 5 1 ∧ t.harts = s.harts ∧ sameMemory s t)
    ∧ (m = 5 → dest = 4 → pairState s ≠ 2 → (joinOf s ≠ 2 ∨ clRole s = 1) → gives (.mode c) s fun t => answered t c 1 ∧ nowMode t 4 1 ∧ pairState t = 0 ∧ t.harts = s.harts ∧ sameMemory s t)
    ∧ (m = 4 → dest = 1 → clsOn s = [] → pairState s = 0 → heldMain s = none → gives (.mode c) s fun t => answered t c 1 ∧ nowMode t 1 1 ∧ dark t ∧ t.dram = [] ∧ t.wd.lifeCk = s.life)
    ∧ (m = 4 → dest = 2 → s.variant ≠ .n240 → fldUp s = true → rdF s (fld 9) FLD.WATCH_CFG.EN = 1 → clsOn s = [] → pairState s = 0 → heldMain s = none → gives (.mode c) s fun t =>
        answered t c 1 ∧ nowMode t 2 1 ∧ dark t ∧ t.dram = [] ∧ t.wd.lifeCk = s.life)
    ∧ (dest < 8 → (m, dest) ∉ [(4, 6), (6, 4), (4, 5), (5, 4), (4, 1), (4, 2)] → gives (.mode c) s fun t => answered t c 7 ∧ mailOnly s t))
  ∧ (∀ (s : State),
    let woken := fun (src : Nat) (t : State) => rdF t (pwr 0) PWR.WAKE_STAT.VALID = 1 ∧ rdF t (pwr 0) PWR.WAKE_STAT.SOURCE = src ∧ t.wd.wakeAt = some s.gtime
      ∧ t.tx = s.tx ++ [⟨.pin, 1, [0]⟩] ∧ modeOf t = modeOf s ∧ t.harts = s.harts ∧ sameMemory s t
    (lowMode s = true → s.wd.wakeAt = none →
      (∀ f s1, arrive s false [0x501] = (some f, s1) → s.wd.pause = false → rdF s (pwr 0) PWR.WAKE_CFG.WATCH = 1 → gives .watchWake s (woken 0))
      ∧ (rdF s (pwr 0) PWR.WAKE_CFG.I3C = 1 → gives .i3cWake s fun t => woken 1 t ∧ regsOnly { s with tx := t.tx, wd := t.wd } t)
      ∧ (rdF s (pwr 0) PWR.WAKE_CFG.GPIO0 = 1 → gives .gpio0WakeEdge s fun t => woken 2 t ∧ 20 ∉ t.wires))
    ∧ ∀ f s1, arrive s false [0x501] = (some f, s1) → s.wd.pause = true → gives .watchWake s fun t => t = { s1 with wd := { s1.wd with latched := s1.wd.latched ++ [.watchWake] } })

/-- The supplies (R76, R377, R378, R410, R429, R431, R432, R443): what POWER_FAIL# and the rails bring about. Where it rests on a choice of the model:
assumption log 56. -/
def Obligations.SuppliesAndModes : Prop :=
  ∀ (s : State),
    let cause := if s.wd.wakeAt.isSome then 7 else if rdF s (pwr 0) PWR.MODE.CAUSE = 0 then 0 else 2
    let low := modeOf s = 1 ∨ modeOf s = 2
    (s.wd.pwrFail = false → 3 ≤ modeOf s → gives .powerFailAssert s fun t => t.wd.pwrFail = true ∧ t.wd.pfAt = some s.gtime ∧ 19 ∈ t.wires ∧ modeOf t = modeOf s
      ∧ t.wd.lifeCk = (if s.wd.pause then s.wd.lifeCk else s.life) ∧ t.wd.leaving = [] ∧ rdF t (pwr 0) PWR.MODE.TRANS = 0
      ∧ (s.lbq.length < 256 → t.lbq = s.lbq ++ [⟨0x02, false, 0, 0xFF, s.gtime, modeOf s, [modeOf s], s.wd.pause⟩])
      ∧ (∀ c, c < 3 → (chanOfW s c).code ≠ 0 → rdF t wdn (chBusyF c) = 0 ∧ rdF t wdn (chStatF c) = 8 ∧ raised t wdn c)
      ∧ (∀ d, (mget {} t.dies d).resetting = false) ∧ (∀ h, hartOf t h = { hartOf s h with rst := none }) ∧ sameMemory s t)
    ∧ (∀ u, s.wd.pfAt = some u → 3 ≤ modeOf s → s.wd.pwrFail = true → gives .powerFailTimeout s fun t => nowMode t 1 8 ∧ dark t ∧ t.dram = [] ∧ t.gtime = max s.gtime (u + 320000000))
    ∧ (s.wd.pwrFail = true → low → s.wd.railsOk = true → (chooseBank s.wd.banks).isSome = true → gives .powerFailDeassert s fun t => t.wd.pwrFail = false ∧ 19 ∉ t.wires
        ∧ nowMode t 3 cause ∧ t.wd.bootAt = s.gtime ∧ t.wd.wakeAt = none)
    ∧ (s.wd.pwrFail = true → 3 ≤ modeOf s → gives .powerFailDeassert s fun t => t.wd.pwrFail = false ∧ 19 ∉ t.wires ∧ modeOf t = modeOf s ∧ t.harts = s.harts ∧ sameMemory s t)
    ∧ (s.wd.railsOk = false → modeOf s ≠ 0 → s.wd.pwrFail = true → gives .mainRailsInRange s fun t => t = { s with wd := { s.wd with railsOk := true } })
    ∧ (s.wd.railsOk = false → low → s.wd.pwrFail = false → (chooseBank s.wd.banks).isSome = true → gives .mainRailsInRange s fun t => t.wd.railsOk = true ∧ nowMode t 3 cause ∧ t.wd.bootAt = s.gtime)
    ∧ (s.wd.railsOk = true → powered s = true → s.wd.pwrFail = true → gives .mainRailOutOfRange s fun t => t.wd.railsOk = false ∧ nowMode t 1 8 ∧ dark t ∧ t.dram = [])
    ∧ (s.wd.railsOk = true → powered s = true → s.wd.pwrFail = false → s.wd.pause = false → gives .mainRailOutOfRange s fun t => t.wd.railsOk = false ∧ nowMode t 1 2
        ∧ rdF t (pwr 0) PWR.MODE.PREV = 7 ∧ dark t ∧ t.dram = [])
    ∧ (modeOf s ≠ 0 → gives .vstbyOutOfRange s fun t => modeOf t = 0 ∧ dark t ∧ t.lbq = [] ∧ t.dram = [] ∧ t.wd.railsOk = false ∧ t.wd.brown = (s.wd.brown || s.wd.railsOk))
    ∧ ∀ r, r < 9 → 0 < modeOf s → gives (.supplyDroop r) s fun t => t = { s with life := mput s.life (2 * 4096 + r) (mget 0 s.life (2 * 4096 + r) + 1) }

/-- Power-on reset of the always-on domain (R70, R74, R377, R386, R395, R408, R412, R434, R435): GTIME starts at 0, the package is in Standby, the straps
are sampled and the power cycle counted, durably; what MRAM holds stands. A brown-out in Standby or Watch, and the loss of the reference there, lead
to it. -/
def Obligations.PowerOnReset : Prop :=
  ∀ (s : State) (brown : Bool) (st : Straps),
    let after := fun (b : Bool) (t : State) => t.gtime = 0 ∧ modeOf t = 1 ∧ raised t (pwr 0) 0 ∧ t.harts = [] ∧ t.l2 = [] ∧ t.l3 = [] ∧ t.dram = [] ∧ t.lstore = [] ∧ t.dies = s.dies.filter (fun e => e.1 = 24)
      ∧ mget 0 t.life (7 * 4096) = mget 0 s.wd.lifeCk (7 * 4096) + 1 ∧ t.wd.lifeCk = t.life
      ∧ mget 0 t.life (7 * 4096 + 2) = mget 0 s.wd.lifeCk (7 * 4096 + 2) + b2n b ∧ t.wd.ring = s.wd.ring ∧ t.wd.seals = s.wd.seals ∧ t.wd.copies = s.wd.copies ∧ t.wd.banks = s.wd.banks
      ∧ t.wd.brown = b ∧ t.wd.bootSrc = st.bootSrc ∧ rdF t y0 YLK.CL_CFG.POS = st.clPos % 16 ∧ rdF t y0 YLK.CL_CFG.MGR_SEL = b2n st.mgrSel
    (modeOf s = 0 → gives (.powerOnReset brown st) s (after (brown || s.wd.brown)))
    ∧ (modeOf s = 1 ∨ modeOf s = 2 → gives (.brownout st) s (after true) ∧ gives (.refclkAbsent st) s (after true))

/-- The fatal conditions (R63, R178, R206, R378, R382, R409, R434): loss of the reference or of a root's lock, a flit header that cannot be corrected,
loss of a DDR5 channel. From Boot, Run, Shadow and Hold each leads to Lockdown with a record of the condition; during a management pause it is
latched. After the hold time of Lockdown the barrier goes down. The hold of Lockdown ends (R382). -/
def Obligations.FatalConditions : Prop :=
  (∀ (s : State), powered s = true →
    (s.wd.pause = false →
      (∀ d, hasRoot d = true → dieUp s d = true → gives (.refLoss d) s fun t => lockedDown s t 0 4)
      ∧ (∀ d, present s (xfb d) = true → gives (.flitHeaderUe d) s fun t => lockedDown s t 1 4 ∧ raised t (xfb d) 3)
      ∧ (∀ c, c < ddrChans s → gives (.ddrChannelLoss c) s fun t => lockedDown s t 2 4)
      ∧ (∀ st, gives (.refclkAbsent st) s fun t => lockedDown s t 0 4))
    ∧ (s.wd.pause = true → ∀ d, hasRoot d = true → dieUp s d = true → gives (.refLoss d) s fun t => t = { s with wd := { s.wd with latched := s.wd.latched ++ [.fatal 0 []] } }))
  ∧ (∀ (s : State) (u : Nat), s.bar.ldHold = some u → gives .lockdownHoldExpire s fun t =>
    t.bar.ldHold = none ∧ rdF t bar BAR.LINK_STAT.STATE = 0 ∧ t.gtime = max s.gtime u ∧ sameMemory s t)

/-- Clocks and operating points (R61, R66-R68, R72): a root that locks shows LOCK and its time; a synchronisation check measures the deviation of each die
in service and starts a slew at two units; a change of operating point raises the voltage first, switches at a multiple of 32 or 96 units, and lowers
it last. Where it rests on a choice of the model: assumption log 4. -/
def Obligations.ClocksAndOperatingPoints : Prop :=
  ∀ (s : State),
    (∀ d us, hasRoot d = true → fitted s.variant d = true → powered s = true → us ≤ 50 → gives (.rootLock d us) s fun t =>
      rdF t (clk d) CLK.PLL_STAT.LOCK = 1 ∧ rdF t (clk d) CLK.PLL_STAT.LOCK_US = us ∧ (mget {} t.dies d).locked = true ∧ t = { s with fields := t.fields, dies := t.dies })
    ∧ (∀ devs, powered s = true → gives (.syncPulse devs) s fun t => t.gtime = (s.gtime + 0xFFFFF) / 0x100000 * 0x100000 ∧ t.harts = s.harts ∧ sameMemory s t
      ∧ ∀ d v, d < 20 → d ≠ 0 → hasRoot d = true → dieUp s d = true → devs.find? (fun e => e.1 = d) = some (d, v) →
        (mget {} t.dies d).dev = v ∧ rdF t (clk d) CLK.SYNC_STAT.DEV = dev8 v
          ∧ (2 ≤ v.natAbs → (mget {} t.dies d).slew = true ∧ raised t (clk d) 0
              ∧ rdF t (clk d) CLK.SYNC_STAT.SLEW_CNT = min 65535 (rdF s (clk d) CLK.SYNC_STAT.SLEW_CNT + 1)))
    ∧ ∀ d n, clusterThere s d n = true →
      let lev := rdF s (clk d) CLK.CLU_STAT.VLEVEL n
      let div := rdF s (clk d) CLK.CLU_CFG.DIV n
      let step := if div = 1 then 96 else 32
      (lev < volTarget s d n → gives (.dvfsRaiseDone d n) s fun t => rdF t (clk d) CLK.CLU_STAT.VLEVEL n = volTarget s d n
        ∧ mfind t.dvfs (domKey d n) = (if mfind s.dvfs (domKey d n) = some 1 then some 2 else mfind s.dvfs (domKey d n)) ∧ t = { s with fields := t.fields, dvfs := t.dvfs })
      ∧ (mfind s.dvfs (domKey d n) = some 2 → gives (.dvfsSwitch d n) s fun t => t.gtime = (s.gtime + step - 1) / step * step ∧ t.harts = s.harts ∧ sameMemory s t
        ∧ (volTarget s d n < lev → mfind t.dvfs (domKey d n) = some 3
            ∧ rdF t (clk d) CLK.CLU_STAT.DIV n = if rdF s (clk d) CLK.CLU_STAT.THROTTLED n = 1 then rdF s (clk d) CLK.CLU_STAT.DIV n else div % 4)
        ∧ (lev ≤ volTarget s d n → mfind t.dvfs (domKey d n) = none ∧ rdF t (clk d) CLK.CLU_STAT.TRANS n = 0 ∧ raised t (clk d) 1))
      ∧ (mfind s.dvfs (domKey d n) = some 3 → gives (.dvfsLowerDone d n) s fun t => rdF t (clk d) CLK.CLU_STAT.VLEVEL n = volTarget s d n
        ∧ mfind t.dvfs (domKey d n) = none ∧ rdF t (clk d) CLK.CLU_STAT.TRANS n = 0 ∧ raised t (clk d) 1 ∧ regsOnly { s with dvfs := t.dvfs } t)

/-- Heat and power (R390-R393): a reading at THROT throttles from then until it is below THROT - HYST; the tenth reading in a row at the critical
temperature is fatal. The package is limited above 850 W, or 700 W averaged over 10 ms, until the average is below 680 W. Power domains (R160, R384):
a domain that reaches the state it was on its way to shows it, and captures it; one that wakes, by request or by a packet, is awake and sends what it
held. -/
def Obligations.HeatAndPower : Prop :=
  (∀ (s : State), powered s = true →
    (∀ d (v : Int), hasRoot d = true → dieUp s d = true → (s.wd.pause = false ∨ 8 ≤ d) → -40 ≤ v →
      let b := pwr d
      let th : Int := (rdF s b PWR.THERM_CFG.THROT : Int)
      let hy : Int := (rdF s b PWR.THERM_CFG.HYST : Int)
      (v < 108 → gives (.thermalSample [(d, v)]) s fun t => rdF t b PWR.TEMP.NOW = (BitVec.ofInt 8 v).toNat ∧ mget 0 t.wd.crit d = 0 ∧ t.harts = s.harts ∧ sameMemory s t
        ∧ mget 0 t.life (4096 + d * 64 + tempBin v) = mget 0 s.life (4096 + d * 64 + tempBin v) + 1
        ∧ (rdF s b PWR.THERM_STAT.CAUSING ≠ 1 → th ≤ v → rdF t b PWR.THERM_STAT.CAUSING = 1 ∧ raised t b 1
            ∧ rdF t b PWR.THERM_STAT.COUNT = min 65535 (rdF s b PWR.THERM_STAT.COUNT + 1))
        ∧ (rdF s b PWR.THERM_STAT.CAUSING = 1 → v < th - hy → rdF t b PWR.THERM_STAT.CAUSING = 0 ∧ raised t b 1)
        ∧ (rdF s b PWR.THERM_STAT.CAUSING = 1 → th - hy ≤ v → rdF t b PWR.THERM_STAT.CAUSING = 1))
      ∧ (108 ≤ v → mget 0 s.wd.crit d < 9 → gives (.thermalSample [(d, v)]) s fun t => mget 0 t.wd.crit d = mget 0 s.wd.crit d + 1 ∧ modeOf t = modeOf s)
      ∧ (108 ≤ v → mget 0 s.wd.crit d = 9 → s.wd.pause = false → gives (.thermalSample [(d, v)]) s fun t => nowMode t 7 9 ∧ dark t))
    ∧ (s.wd.pause = false → ∀ w, w < 65536 →
      let l := (w :: s.wd.samples).take 100
      let sum := l.foldl (· + ·) 0
      gives (.powerSample w) s fun t => t.wd.samples = l ∧ rdF t (pwr 0) PWR.PKG_PWR.AVG_W = sum / 100 % 65536
        ∧ rdF t (pwr 0) PWR.PKG_PWR.PEAK_W = max (rdF s (pwr 0) PWR.PKG_PWR.PEAK_W) w ∧ t.harts = s.harts ∧ sameMemory s t
        ∧ (s.wd.limiting = false → 850 < w ∨ 70000 < sum → t.wd.limiting = true ∧ raised t (pwr 0) 3)
        ∧ (s.wd.limiting = true → sum < 68000 → t.wd.limiting = false)
        ∧ (s.wd.limiting = true → 68000 ≤ sum → t.wd.limiting = true) ∧ (s.wd.limiting = false → w ≤ 850 → sum ≤ 70000 → t.wd.limiting = false)))
  ∧ (∀ (s : State) (d n : Nat),
    let dm := mget ({} : Dom) s.doms (domKey d n)
    (∀ g, dm.goal = some g → g < 4 → (g = 1 ∨ (g ≠ 0 ∧ d < 8)) → gives (.domainStateReached d n) s fun t => domState t d n = g ∧ rdF t (pwr d) PWR.DOM_CTRL.STATUS n = 1
      ∧ raised t (pwr d) 2 ∧ (mget {} t.doms (domKey d n)).goal = none ∧ t.harts = s.harts ∧ sameMemory s t)
    ∧ (dm.goal = some 2 → 8 ≤ d → gives (.domainStateReached d n) s fun t => domState t d n = 2 ∧ rdF t (pwr d) PWR.DOM_CTRL.STATUS n = 1 ∧ raised t (pwr d) 2)
    ∧ (dm.goal = some 0 → dm.held = [] → d ≠ 24 → gives (.domainStateReached d n) s fun t => domState t d n = 0 ∧ rdF t (pwr d) PWR.DOM_CTRL.STATUS n = 1 ∧ raised t (pwr d) 2
      ∧ (mget {} t.doms (domKey d n)).waking = false ∧ t.tx = s.tx ++ dm.heldTx ∧ t.harts = s.harts ∧ sameMemory s t)
    ∧ (dm.waking = true → dm.held = [] → gives (.domainWakeDone d n) s fun t => domState t d n = 0 ∧ (mget {} t.doms (domKey d n)).waking = false
      ∧ (mget {} t.doms (domKey d n)).heldTx = [] ∧ t = { s with fields := t.fields, doms := t.doms, tx := s.tx ++ dm.heldTx }))

/-- Boot (R20, R77-R79, R206, R395, R402-R404): without a valid configuration copy the boot is fatal; with one, the copy chosen is in use. The stacks that
trained and whose base dies are in service, and the DDR5 channels found alike, come into use. The image is written where hart 0 starts, the hart map
is built unless the boot is warm, logical hart 0 runs in M-mode and the package is in Run. The end of a die's reset (R75, R182, R186, R203, R215): a
die that does not come up, or whose revision or capabilities do not fit, stays fenced with the reason; a compute die that fits is back in service with
its local stores cleared, a stack starts to resynchronise, the field die is held no longer. Where it rests on a choice of the model: assumption logs
13 and 24. -/
def Obligations.BootAndReturns : Prop :=
  (∀ (s : State), modeOf s = 3 → s.wd.pfAt = none →
    (∀ f : BootFind, s.wd.bootStep = 0 →
      let pick := chooseOf (f.copyA && cfgValid (cfgCopy s 0)) (f.copyB && cfgValid (cfgCopy s 1)) (cfgSeq s 0) (cfgSeq s 1)
      (pick = none → s.wd.pause = false → gives (.bootStart f) s fun t => lockedDown s t 5 4)
      ∧ (∀ c, pick = some c → gives (.bootStart f) s fun t => t.wd.copy = c ∧ t.wd.bootStep = 1 ∧ t.wd.brown = false ∧ t.wd.spares = f.spares
          ∧ t.wd.copies = s.wd.copies ∧ t.wd.withdrawn = (if s.wd.warm then s.wd.withdrawn else cfgWithdrawn (cfgCopy s c))))
    ∧ (∀ f : MemFind, s.wd.bootStep = 1 → gives (.bootMemoryReady f) s fun t => t.wd.bootStep = 2
        ∧ t.hbmOn = (List.range 8).any (fun k => f.stks.contains k && dieUp s (1 + k / 2))
        ∧ t.ddrExp = if ddrUsed f.dimms = 0 then 0 else ((f.dimms[0]?).map (·.exp)).getD 0 + Nat.log2 (ddrUsed f.dimms))
    ∧ ∀ img : List Byte, s.wd.bootStep = 2 → img.length ≤ 0x100000 → (s.wd.bootSrc = 1 → s.wd.jtag = true) →
        let start := if s.hbmOn then 0 else 0x0100_0000_0000
        gives (.bootImageLoaded img) s fun t => nowMode t 4 (rdF s (pwr 0) PWR.MODE.CAUSE % 16) ∧ t.wd.bootStep = 0 ∧ t.wd.warm = false
          ∧ (hartOf t 0).run = .running ∧ (hartOf t 0).priv = .m ∧ (hartOf t 0).pc = BitVec.ofNat 64 start
          ∧ (s.wd.warm = false → t.dram = putBytes s.dram start img ∧ t.wd.image = some (start, img.length, crc32 (img.map (·.toNat)))
              ∧ ∀ h, 0 < h → h < hartCount s → hartOf t h = { core := mapCore s h })
          ∧ (s.wd.warm = true → ∀ h, 0 < h → hartOf t h = hartOf s h)
          ∧ ∀ c, c < 3 → (chanOfW s c).code = 0x32 → rdF t wdn (chBusyF c) = 0 ∧ rdF t wdn (chStatF c) = 1 ∧ raised t wdn c)
  ∧ (∀ (s : State) (d : Nat) (f : ReadmitFind), (mget ({} : Die) s.dies d).resetting = true → powered s = true → s.wd.pfAt = none →
    let fenced := fun (reason : Nat) (t : State) => (mget {} t.dies d).st = 2 ∧ (mget {} t.dies d).reason = reason ∧ (mget {} t.dies d).resetting = false ∧ t.harts = s.harts ∧ sameMemory s t
    (f.ok = false → gives (.dieReadmit d f) s (fenced 6))
    ∧ (f.ok = true →
      (d = 24 → gives (.dieReadmit d f) s fun t => dieUp t 24 = true ∧ t.fld.held = false ∧ (mget {} t.dies 24).rev = f.rev ∧ t.harts = s.harts ∧ sameMemory s t)
      ∧ (d = 28 → profileBad f.profile.toNat = true → gives (.dieReadmit d f) s (fenced 9))
      ∧ (32 ≤ d → d < 40 → gives (.dieReadmit d f) s fun t => dieUp t d = true ∧ rdF t (mch (d - 32)) MCH.RESYNC.BUSY = 1 ∧ rdF t (mch (d - 32)) MCH.RESYNC.PTR = 0 ∧ t.harts = s.harts ∧ sameMemory s t)
      ∧ (isComp d = true →
        (compRevOk (mget ({} : Die) s.dies (baseOf d)).rev f.rev = false → gives (.dieReadmit d f) s (fenced 2))
        ∧ (compRevOk (mget ({} : Die) s.dies (baseOf d)).rev f.rev = true → coversEff s d f.cap = false → gives (.dieReadmit d f) s (fenced 4))
        ∧ (compRevOk (mget ({} : Die) s.dies (baseOf d)).rev f.rev = true → coversEff s d f.cap = true → gives (.dieReadmit d f) s fun t =>
            dieUp t d = true ∧ (mget {} t.dies d).rev = f.rev ∧ (mget {} t.dies d).cap = f.cap ∧ (mget {} t.dies d).resetting = false ∧ t.harts = s.harts ∧ t.dram = s.dram
              ∧ ∀ k, mfind t.lstore k = if 8 + k / 2 ^ 17 / 24 = d then none else mfind s.lstore k))))

/-- Hinge training (R177, R184-R187, R444): a successful attempt brings both ends up with the modules that are good at both, their number and the next
epoch, and captures it at both; a failed one counts, a further one starts, and a third failure of a hub Hinge fences it. The open site's link comes up
with its modules. Modules of a Hinge (R188-R190, R444): a recalibration starts where the rules allow and is refused with RESULT 2 at a width of 1; it
ends with the module returned or dropped; replays are counted, too many of one module recalibrate it, eight in a row drop it. A dropped module is out
of the mask at both ends, with the next epoch. Where it rests on a choice of the model: assumption log 51. -/
def Obligations.HingeLinks : Prop :=
  (∀ (s : State) (d i : Nat) (f : TrainFind),
    let b := hng d i
    let p := hng (farEnd d i).1 (farEnd d i).2
    let both := fun (t : State) (g : Field) (v : Nat) => rdF t b g = v ∧ rdF t p g = v
    let up := fun (t : State) => both t HNG.TRAIN_STAT.STATE 2 ∧ both t HNG.TRAIN_STAT.MASK (goodMask s f) ∧ both t HNG.TRAIN_STAT.WIDTH (popCount (goodMask s f))
      ∧ both t HNG.TRAIN_STAT.EPOCH ((rdF s b HNG.TRAIN_STAT.EPOCH + 1) % 16) ∧ both t HNG.TRAIN_STAT.ATTEMPTS 0 ∧ raised t b 0 ∧ raised t p 0
      ∧ mget 0 t.life (3 * 4096 + d * 16 + 2 * i) = mget 0 s.life (3 * 4096 + d * 16 + 2 * i) + 1 ∧ t.harts = s.harts ∧ sameMemory s t
    let down := fun (t : State) => both t HNG.TRAIN_STAT.STATE 0 ∧ rdF t b HNG.TRAIN_STAT.ATTEMPTS = min 3 (rdF s b HNG.TRAIN_STAT.ATTEMPTS + 1) ∧ t.harts = s.harts ∧ sameMemory s t
    (hingeThere s d i = true → rdF s b HNG.TRAIN_STAT.STATE = 1 →
      (f.ok = true → goodMask s f ≠ 0 → gives (.hingeTrainAttempt d i f) s up ∧ gives (.retrainRequest d i f) s fun t => up t ∧ (rdF s b HNG.RECAL.BUSY = 1 → rdF t b HNG.RECAL.BUSY = 0 ∧ rdF t b HNG.RECAL.RESULT = 2))
      ∧ (f.ok = false ∨ goodMask s f = 0 → gives (.hingeTrainAttempt d i f) s down ∧ gives (.retrainRequest d i f) s down))
    ∧ (hingeThere s d i = true → rdF s b HNG.TRAIN_STAT.STATE = 0 → 0 < rdF s b HNG.TRAIN_STAT.ATTEMPTS →
      (rdF s b HNG.TRAIN_STAT.ATTEMPTS < 3 → gives (.hingeAttemptRetry d i) s fun t => both t HNG.TRAIN_STAT.STATE 1 ∧ t = { s with fields := t.fields })
      ∧ (3 ≤ rdF s b HNG.TRAIN_STAT.ATTEMPTS → d = 0 → gives (.hingeAttemptRetry d i) s fun t => rdF t b HNG.TRAIN_STAT.STATE = 3 ∧ raised t b 2))
    ∧ (present s (hng 0 4) = true → fitted s.variant 28 = true → rdF s (hng 0 4) HNG.TRAIN_STAT.STATE ≠ 2 → f.ok = true → f.mask % 4 ≠ 0 → gives (.hingeTrainAttempt 0 4 f) s fun t =>
        rdF t (hng 0 4) HNG.TRAIN_STAT.STATE = 2 ∧ rdF t (hng 0 4) HNG.TRAIN_STAT.MASK = f.mask % 4 ∧ t = { s with fields := t.fields }))
  ∧ (∀ (s : State) (d i md : Nat),
    let b := hng d i
    let p := hng (farEnd d i).1 (farEnd d i).2
    let w := rdF s b HNG.TRAIN_STAT.WIDTH
    let left := rdF s b HNG.TRAIN_STAT.MASK - 2 ^ md
    let dropped := fun (t : State) => rdF t b HNG.TRAIN_STAT.MASK = left % 256 ∧ rdF t p HNG.TRAIN_STAT.MASK = left % 256 ∧ rdF t b HNG.TRAIN_STAT.WIDTH = popCount left
      ∧ rdF t b HNG.TRAIN_STAT.EPOCH = (rdF s b HNG.TRAIN_STAT.EPOCH + 1) % 16 ∧ raised t b 1 ∧ raised t p 1
      ∧ mget 0 t.life (3 * 4096 + d * 16 + 2 * i + 1) = mget 0 s.life (3 * 4096 + d * 16 + 2 * i + 1) + 1 ∧ t.harts = s.harts ∧ sameMemory s t
    (hingeThere s d i = true → rdF s b HNG.RECAL.BUSY ≠ 1 →
      (rdF s b HNG.TRAIN_STAT.STATE = 2 → 1 < w → (∀ r, r ∈ hingeRes d i → guarSum s r false ≤ rdF s bwr BWR.CAPACITY.CAP r * (w - 1) / 8) → bit (rdF s b HNG.TRAIN_STAT.MASK) md = true →
          capEff s 3 = true →
        (gives (.hingeReplayRate d i md) s fun t => rdF t b HNG.RECAL.BUSY = 1 ∧ mfind t.recal (d * 8 + i) = some md ∧ t = { s with fields := t.fields, recal := t.recal })
        ∧ (rdF s b HNG.RECAL.AUTO_MS ≠ 0 → gives (.recalAuto d i md) s fun t => rdF t b HNG.RECAL.BUSY = 1 ∧ mfind t.recal (d * 8 + i) = some md ∧ t = { s with fields := t.fields, recal := t.recal }))
      ∧ (w ≤ 1 → gives (.hingeReplayRate d i md) s fun t => rdF t b HNG.RECAL.RESULT = 2 ∧ t = { s with fields := t.fields }))
    ∧ (mfind s.recal (d * 8 + i) = some md → d ≠ 24 →
      (gives (.recalDone d i true) s fun t => rdF t b HNG.RECAL.BUSY = 0 ∧ rdF t b HNG.RECAL.RESULT = 1 ∧ raised t b 3 ∧ mfind t.recal (d * 8 + i) = none ∧ regFrame [b] { s with recal := t.recal } t)
      ∧ (hingeThere s d i = true → bit (rdF s b HNG.TRAIN_STAT.MASK) md = true → left ≠ 0 → gives (.recalDone d i false) s fun t => dropped t ∧ rdF t b HNG.RECAL.RESULT = 3 ∧ raised t b 3))
    ∧ (present s b = true → gives (.hingeCrcFail d i) s fun t => counted s t b HNG.CRC_CNT.COUNT ∧ counted s t b HNG.REPLAY_CNT.COUNT ∧ t.harts = s.harts ∧ sameMemory s t)
    ∧ (hingeThere s d i = true → hingeUp s d i = true → bit (rdF s b HNG.TRAIN_STAT.MASK) md = true → left ≠ 0 → gives (.hingeReplayExhausted d i md) s dropped))

/-- Dies, stacks and the open site (R181, R192, R197, R200, R215): a failed vertical port fences its compute die, whose harts stop; a site's profile
admits it or fences it; a site that needs time is sent it at a multiple of 2^20 units; a resynchronised stack shows it. The Ward (R198, R199,
R201-R203): a transaction that is malformed, in no window, or not permitted by its window is recorded and fences the site; one beyond its window's
ceiling, and all that come behind one that is held, wait; an interrupt of the site's range is sent. Where it rests on a choice of the model:
assumption logs 4 and 70. -/
def Obligations.SiteAndWard : Prop :=
  (∀ (s : State),
    (∀ d, isComp d = true → dieUp s d = true → gives (.verticalPortFail d) s fun t => (mget {} t.dies d).st = 2 ∧ (mget {} t.dies d).reason = 6
      ∧ ∀ h, coreDie (hartOf s h).core = d → (hartOf t h).run = .parked)
    ∧ (∀ p : BitVec 512, rdF s (hng 0 4) HNG.TRAIN_STAT.STATE = 2 → dieUp s 28 = false → fitted s.variant 28 = true →
      (profileBad p.toNat = true → gives (.openSiteProfileRead p) s fun t => (mget {} t.dies 28).st = 2 ∧ (mget {} t.dies 28).reason = 9 ∧ rdF t (hng 0 4) HNG.TRAIN_STAT.STATE = 3 ∧ sameMemory s t)
      ∧ (profileBad p.toNat = false → gives (.openSiteProfileRead p) s fun t => dieUp t 28 = true ∧ t.profile = p.toNat ∧ (mget {} t.dies 28).rev = profByte p.toNat 4
          ∧ t = { s with fields := t.fields, profile := p.toNat, dies := t.dies }))
    ∧ (dieUp s 28 = true → bit (profByte s.profile 6) 4 = true → gives .openSiteTime s fun t =>
        let g := (s.gtime + 0xFFFFF) / 0x100000 * 0x100000
        t.gtime = g ∧ t.tx = s.tx ++ [⟨.site, 2, [g]⟩] ∧ t.harts = s.harts ∧ sameMemory s t)
    ∧ ∀ k, k < 8 → rdF s (mch k) MCH.RESYNC.BUSY ≠ 0 → gives (.resyncDone k) s fun t => rdF t (mch k) MCH.RESYNC.BUSY = 0 ∧ rdF t (mch k) MCH.RESYNC.PTR = 0x18000000 ∧ raised t (mch k) 3)
  ∧ (∀ (s : State) (hdr : BitVec 128) (data : BitVec 2048), dieUp s 28 = true → present s wrd = true →
    let h := hdr.toNat
    let violated := fun (k : Nat) (t : State) => rdF t wrd WRD.VIOL_INFO.KIND = k ∧ rdF t wrd WRD.VIOL_INFO.VALID = 1 ∧ rdF t wrd WRD.VIOL_INFO.OP = wOp h ∧ rdF t wrd WRD.VIOL_INFO.TAG = wTag h
      ∧ rdF t wrd WRD.VIOL_ADDR_LO.ADDR = wAddr h % 2 ^ 32 ∧ raised t wrd 0 ∧ (mget {} t.dies 28).st = 2 ∧ (mget {} t.dies 28).reason = 8 ∧ sameMemory s t
    (s.io.heldWin.isSome = true → gives (.wardTransaction hdr data) s fun t => t.io.held = s.io.held ++ [(h, data.toNat)] ∧ t.io.heldWin = s.io.heldWin ∧ t.fields = s.fields ∧ sameMemory s t)
    ∧ (s.io.heldWin = none →
      (∀ k, wardForm h = some k → gives (.wardTransaction hdr data) s (violated k))
      ∧ (wardForm h = none → wOp h ∈ [1, 3, 4] → wardWin s (wAddr h) (wLen h) = none → gives (.wardTransaction hdr data) s (violated 2))
      ∧ (∀ w, wardForm h = none → wOp h ∈ [1, 3, 4] → wardWin s (wAddr h) (wLen h) = some w →
          rdF s wrd (if wOp h = 1 then WRD.WIN_CTRL.READ else if wOp h = 3 then WRD.WIN_CTRL.WR_FULL else WRD.WIN_CTRL.WR_PART) w = 0 → gives (.wardTransaction hdr data) s (violated 3))
      ∧ (∀ w, wardForm h = none → wOp h = 3 → wardWin s (wAddr h) (wLen h) = some w → rdF s wrd WRD.WIN_CTRL.WR_FULL w ≠ 0 → rdF s wrd WRD.WIN_RATE.CEIL w ≠ 0 →
          rdF s wrd WRD.WIN_RATE.CEIL w < mget 0 s.io.wUsed w + wUnits h → gives (.wardTransaction hdr data) s fun t =>
            t.io.held = (h, data.toNat) :: s.io.held ∧ t.io.heldWin = some w ∧ counted s t wrd WRD.HELD.COUNT ∧ sameMemory s t)
      ∧ (wardForm h = none → wOp h = 9 → wAddr h % 32 < profByte s.profile 7 → entEn (rdF s wrd WRD.IRQ.ENTRY (wAddr h % 32)) = true → gives (.wardTransaction hdr data) s fun t =>
          let e := rdF s wrd WRD.IRQ.ENTRY (wAddr h % 32)
          (∃ q, t.irqs = s.irqs ++ q ++ [⟨0x600000 + wAddr h % 32, entHart e, if entSec e then 0 else 1 + entFile e, entIdent e⟩]) ∧ sameMemory s t)))

/-- The barrier's link (R288, R291, R292, R308): LINK acknowledges frames and returns their credits, which waiting frames take in order; RETRY sends the
sender back to the SEQ named; a bad frame is discarded, counted and asked for again; more than 16 replays in a millisecond, or a channel that fails,
take the barrier down, and every channel trained brings it up. Where it rests on a choice of the model: assumption log 4. -/
def Obligations.BarrierLink : Prop :=
  ∀ (s : State),
    (∀ tf last cr r i, s.bar.links = (tf, last, cr) :: r → (dirOfBar s tf).out.findIdx? (fun f => f.seq = last) = some i → gives .link s fun t =>
      let d := dirOfBar s tf
      let e := dirOfBar t tf
      t.bar.links = r ∧ e.got = d.got - (i + 1) ∧ dirOfBar t (!tf) = dirOfBar s (!tf) ∧ t = { s with bar := t.bar }
        ∧ ∃ k, e.wait = d.wait.drop k ∧ e.credits = d.credits + min cr (i + 1) - k ∧ e.out.take (d.out.length - (i + 1)) = d.out.drop (i + 1)
          ∧ e.out.length = d.out.length - (i + 1) + k ∧ (k = d.wait.length ∨ e.credits = 0))
    ∧ (∀ tf q r i, s.bar.retries = (tf, q) :: r → (dirOfBar s tf).out.findIdx? (fun f => f.seq = q) = some i → gives .retry s fun t =>
      dirOfBar t tf = { dirOfBar s tf with got := i, retry := false } ∧ t.bar.retries = r ∧ s.gtime ∈ t.bar.replays ∧ counted s t bar BAR.REPLAY_CNT.COUNT)
    ∧ (let ack := fun (tf : Bool) => match ((dirOfBar s tf).out.take (dirOfBar s tf).got).getLast? with
        | some f => [(tf, f.seq, (dirOfBar s tf).got)]
        | none => []
      gives .barrierLinkTimer s fun t => t = { s with bar := { s.bar with links := s.bar.links ++ ack true ++ ack false } })
    ∧ (barUp s = true → ∀ th,
      (gives (.badBarrierFrame th true) s fun t => (th = true → counted s t bar BAR.CRC_CNT.COUNT) ∧ (∃ q, t.bar.retries = s.bar.retries ++ [(!th, q)])
        ∧ (dirOfBar t (!th)).out = (dirOfBar s (!th)).out ∧ (dirOfBar t (!th)).got = (dirOfBar s (!th)).got
        ∧ (dirOfBar t (!th)).retry = decide ((dirOfBar s (!th)).got < (dirOfBar s (!th)).out.length) ∧ t = { s with fields := t.fields, bar := t.bar })
      ∧ (gives (.badBarrierFrame th false) s fun t => (if th then counted s t bar BAR.BAD_TYPE.TYPE else counted s t (fld 0) FLD.DROP_CNT.FRAME)
        ∧ t = { s with fields := t.fields }))
    ∧ (rdF s bar BAR.LINK_STAT.STATE ≠ 0 →
      (16 < (s.bar.replays.filter (fun t => s.gtime < t + 3200000)).length → gives .barrierReplayLimit s fun t => barrierLost s t)
      ∧ gives .barrierChannelFail s fun t => barrierLost s t)
    ∧ ((s.bar.replays.filter (fun t => s.gtime < t + 3200000)).length ≤ 16 → gives .barrierReplayLimit s fun t => t = s)
    ∧ (fldUp s = true → rdF s bar BAR.LINK_STAT.STATE = 0 → ∀ mask, mask < 2 ^ 24 →
      (3 ≤ modeOf s → modeOf s ≤ 6 → mask = 2 ^ 24 - 1 → gives (.barrierTrainAttempt mask) s fun t => rdF t bar BAR.LINK_STAT.STATE = 2 ∧ rdF t bar BAR.LINK_STAT.CH_OK = 2 ^ 24 - 1
        ∧ raised t bar 1 ∧ t.bar.full = List.range 8 ∧ t.bar.downAt = none)
      ∧ (3 ≤ modeOf s → modeOf s ≤ 6 → mask ≠ 2 ^ 24 - 1 → gives (.barrierTrainAttempt mask) s fun t => rdF t bar BAR.LINK_STAT.STATE = 0 ∧ rdF t bar BAR.LINK_STAT.CH_OK = mask
        ∧ t = { s with fields := t.fields })
      ∧ ((modeOf s = 1 ∨ modeOf s = 2) → mask ≠ 0 → gives (.barrierTrainAttempt mask) s fun t => rdF t bar BAR.LINK_STAT.STATE = 3 ∧ rdF t bar BAR.LINK_STAT.CH_OK = mask
        ∧ t = { s with fields := t.fields }))
    ∧ (∀ at0 c p, s.bar.downAt = some at0 → pairedMgr s = true → rdF s bar BAR.LINK_STAT.STATE = 0 → fastest s = some c → pairPort s = some p → gives .barrierLossHandover s fun t =>
        t.gtime = max s.gtime (at0 + 3200000)
          ∧ t.tx = s.tx ++ [⟨.ylk p, 0x29, [rdF s (ylk 0) YLK.CL_CFG.POS, rdF s (ylk 0) YLK.PAIR_STAT.PARTNER, 0, c, (clsOf s c).next]⟩])

/-- What the frames of the barrier do where they arrive (R269, R289, R290, R293, R294, R298, R299, R302, R310): input lines reach the pending input image;
output lines, safe lines and the segment map are kept by the field die; OUT_FLIP makes the class's lines its current output and sends each Cyclic
session its CYC_OUT; TIME brings the field die within 3 units; registers are read and written there and the answer completes its read, unless it is
late; events and firmware blocks are taken. Where it rests on a choice of the model: assumption log 39. -/
def Obligations.BarrierFrames : Prop :=
  ∀ (s : State) (f : BFrame),
    (nextFrame s false 0x101 f → f.tag < 16384 → gives .inLine s fun t =>
      (∀ j, j < 32 → slotAt t (pendOff s false (32 * f.tag + j)) = mkSlot s (descOf s (32 * f.tag + j)) (((unpackLine f.pay)[j]?).getD 0) false false ∧ 32 * f.tag + j ∈ t.spl.refIn)
        ∧ t = { frameIn s false with spl := t.spl, bw := t.bw })
    ∧ (nextFrame s true 0x102 f → gives .outLine s fun t => t = { frameIn s true with fld := { s.fld with nxt := mput s.fld.nxt f.tag f.pay } })
    ∧ (nextFrame s true 0x103 f → gives .safeLine s fun t => t = { frameIn s true with fld := { s.fld with safe := mput s.fld.safe f.tag f.pay } })
    ∧ (nextFrame s true 0x105 f → gives .segMap s fun t => t = { frameIn s true with fld := { s.fld with segs := mput s.fld.segs f.tag (f.pay % 2 ^ 32) } })
    ∧ (nextFrame s true 0x104 f → (s.fld.nxt.map (·.1)).Nodup → gives .outFlip s fun t =>
      let c := f.tag % 8
      let mine := fun (l : Nat) => fldSegClass s (l / 32) = some c
      (∀ l, mget 0 t.fld.cur l = if mine l then (mfind s.fld.nxt l).getD (mget 0 s.fld.cur l) else mget 0 s.fld.cur l) ∧ (∀ l, mine l → mfind t.fld.nxt l = none)
        ∧ mfind t.fld.flips c = some (f.pay % 2 ^ 64, (clsOf s c).period)
        ∧ ∀ n, n ∈ sessOfClass s c → (sessOf s n).st = 3 → portOn s (se s FLD.SESS_CFG0.PORT n) = true → modeOf s ≠ 5 →
          ∃ m, m ∈ t.tx ∧ m.dest = .field (se s FLD.SESS_CFG0.PORT n) ∧ m.kind = 4 ∧ m.args.take 3 = [n, (sessOf s n).gen, f.pay / 2 ^ 64 % 2 ^ 32])
    ∧ (∀ dev, barUp s = true → -3 ≤ dev → dev ≤ 3 → gives (.barrierTime dev) s fun t => t.gtime = max s.gtime ((s.gtime + 0xFFFFF) / 0x100000 * 0x100000)
        ∧ (mget {} t.dies 24).dev = dev ∧ (mget {} t.dies 24).st = (mget {} s.dies 24).st)
    ∧ (nextFrame s true 0x301 f →
      let r := regReadGo (frameIn s true) f.who (frameBlk f.pay) (frameView f.pay) (bits f.pay 27 16) (bits f.pay 39 32) (frameAddr f.pay)
      barUp r.2 = true → gives .regRd s fun t => onWay t false 0x303 f.tag r.1 ∧ t = { r.2 with bar := t.bar })
    ∧ (nextFrame s true 0x302 f → ∀ (fd : Field) n,
      let b := frameBlk f.pay
      let off := bits f.pay 27 16
      let x := bits f.pay 127 64 % 2 ^ 32
      let y := newVal s b fd n .base x
      frameView f.pay = .base → off % 4 = 0 → 0x40 ≤ off → bits f.pay 39 32 = 4 → bits f.pay 135 128 = 15 → regFields b off = [(fd, n)] → fd.acc = .rw → fd.cm = false →
      denied s b fd n f.who true = false → ignoredVal s b fd y = false → reservedVal s b fd n y = false → gives .regWr s fun t =>
        rdF t b fd n (bankOf s b fd) = y % 2 ^ (fd.hi + 1 - fd.lo) ∧ t = { frameIn s true with fields := t.fields })
    ∧ (nextFrame s false 0x303 f →
      let g := f.tag % 1024
      let late : Prop := mfind s.bar.regs g = none ∨ f.tag / 2048 ≠ mget 0 s.ioGen (fldTag g)
      (late → gives .regRsp s fun t => counted s t bar BAR.BAD_TYPE.LATE ∧ t = { frameIn s false with fields := t.fields })
      ∧ (¬late → ∀ r, mfind s.bar.regs g = some r → r.hart = 0xFF → r.back = [] → gives .regRsp s fun t =>
        t.resp = (if bit f.tag 10 then ⟨true, 0⟩ else ⟨false, regValue r f.pay⟩) ∧ mfind t.bar.regs g = none ∧ t = { frameIn s false with bar := t.bar, resp := t.resp }))
    ∧ (∀ g r, mfind s.bar.regs g = some r → gives (.fldRegTimeout g) s fun t => mfind t.bar.regs g = none ∧ counted s t bar BAR.REG_ERR.COUNT
        ∧ t.gtime = max s.gtime (r.since + 320000) ∧ mget 0 t.ioGen (fldTag g) = (mget 0 s.ioGen (fldTag g) + 1) % 256 ∧ (r.hart = 0xFF → r.back = [] → t.resp = ⟨true, 0⟩))
    ∧ (nextFrame s false 0x401 f →
      (f.pay % 2 ^ 32 = 0 → gives .fldEvent s fun t => t = { frameIn s false with bar := { (frameIn s false).bar with evt := mput s.bar.evt f.tag false } })
      ∧ (f.pay % 2 ^ 32 ≠ 0 → gives .fldEvent s fun t => mget false t.bar.evt f.tag = true
        ∧ (entEn (routeOf s (fld f.tag)) = true → ∃ m, t.irqs = s.irqs ++ [m] ∧ m.hart = entHart (routeOf s (fld f.tag)) ∧ m.ident = entIdent (routeOf s (fld f.tag)))))
    ∧ (nextFrame s true 0x601 f → barUp s = true → ∀ err, gives (.fwData err) s fun t => onWay t false 0x602 (f.tag % 65536 + 65536 * b2n err) 0
        ∧ t.fld.img = (if err then s.fld.img else mput s.fld.img (f.pay / 2 ^ 384 % 2 ^ 32) (f.pay % 2 ^ 384)))

/-- Sessions of field nodes (R300, R301, R302, R303, R310): a matching HELLO admits its node with a new generation, an unmatched one is announced for a
second; CYC_IN of the current generation makes the session Cyclic and goes on as IN_LINE frames, any other is dropped and counted; BYE, or the loss
time in Lost, removes a session, which then ends. With the barrier down the field die counts boundaries by itself. Where it rests on a choice of the
model: assumption logs 4 and 43. -/
def Obligations.FieldSessions : Prop :=
  (∀ (s : State) (p node req inL outL boot : Nat), portOn s p = true → modeOf s ≠ 5 → req < 4096 →
    let c := Instr.fieldHello p node req inL outL boot
    let x := sessOf s req
    (s.fld.switching ≠ none → gives c s fun t => t = { s with fld := { s.fld with waiting := s.fld.waiting ++ [[p, node, req, inL, outL, boot]] } })
    ∧ (s.fld.switching = none → helloMatch s p node req inL outL = true →
      let fresh := x.st ≤ 1 ∨ (x.st ≠ 5 ∧ x.boot ≠ boot)
      (fresh → gives c s fun t => sessOf t req = { x with st := 2, gen := (x.gen + 1) % 256, miss := 0, node := some node, boot := boot, got := false }
        ∧ ∃ m, m ∈ t.tx ∧ m.dest = .field p ∧ m.kind = 2 ∧ m.args.take 2 = [req, (x.gen + 1) % 256])
      ∧ (¬fresh → gives c s fun t => sessOf t req = x ∧ ∀ i a, mfind t.fld.anns i = some a → ¬(a.node = node ∧ a.req = req)))
    ∧ (s.fld.switching = none → helloMatch s p node req inL outL = false → gives c s fun t =>
      (∃ i, mfind t.fld.anns i = some ⟨node, p, inL, outL, req, s.gtime⟩) ∧ (sessOf t req).st = (if x.st = 0 then 1 else x.st) ∧ (sessOf t req).gen = x.gen
        ∧ (x.st = 0 ∨ (2 ≤ x.st ∧ x.st ≤ 4) → raised t (fld 0) 0)))
  ∧ (∀ (s : State) (p n gen lines : Nat) (slots : List Nat), portOn s p = true → n < 4096 →
    let c := Instr.cycIn p n gen lines slots
    let x := sessOf s n
    let current := 2 ≤ x.st ∧ x.st ≤ 4 ∧ x.gen = gen
    (¬current → gives c s fun t => counted s t (fld 0) FLD.DROP_CNT.GEN ∧ t = { s with fields := t.fields })
    ∧ (current → lines ≠ se s FLD.SESS_CFG1.CNT n → gives c s fun t => counted s t (fld 0) FLD.DROP_CNT.FRAME ∧ t = { s with fields := t.fields })
    ∧ (current → lines = se s FLD.SESS_CFG1.CNT n → gives c s fun t => sessOf t n = { x with st := 3, miss := 0, got := true } ∧ (x.st ≠ 3 → raised t (fld 0) 1)
      ∧ (barUp s = true → ∀ j, j < lines → onWay t false 0x101 (se s FLD.SESS_CFG1.LINE n + j) (packLine ((slots.drop (32 * j)).take 32))))
    ∧ (x.st = 5 ∨ x.st = 1 ∨ current → gives (.bye p n gen) s fun t => (sessOf t n).st = 5 ∧ (sessOf t n).gen = x.gen)
    ∧ (x.st = 0 ∨ (2 ≤ x.st ∧ x.st ≤ 4 ∧ x.gen ≠ gen) → gives (.bye p n gen) s fun t => counted s t (fld 0) FLD.DROP_CNT.GEN ∧ t = { s with fields := t.fields }))
  ∧ (∀ (s : State) (n : Nat),
    ((sessOf s n).st = 4 → 2 ≤ rdF s bar BAR.LINK_STAT.STATE → gives (.sessionLostTimeout n) s fun t => (sessOf t n).st = 5
      ∧ t.gtime = max s.gtime ((sessOf s n).lost + 3200000 * rdF s (fld 0) FLD.LOST_TMO.MS))
    ∧ ((sessOf s n).st = 5 → fldUp s = true → gives (.sessionRemovedCleanup n) s fun t => sessOf t n = { gen := (sessOf s n).gen } ∧ raised t (fld 0) 3
      ∧ (barUp s = true → ∀ j, j < se s FLD.SESS_CFG1.CNT n → onWay t false 0x101 (se s FLD.SESS_CFG1.LINE n + j) 0))
    ∧ (∀ a, mfind s.fld.anns n = some a → gives (.announceExpire n) s fun t => mfind t.fld.anns n = none ∧ t.gtime = max s.gtime (a.at_ + 3200000000)
      ∧ ((sessOf s a.req).st = 1 → (∀ i b, mfind s.fld.anns i = some b → b.req = a.req → i = n) → (s.fld.anns.map (·.1)).Nodup → (sessOf t a.req).st = 0))
    ∧ (∀ at0 per, mfind s.fld.flips n = some (at0, per) → rdF s bar BAR.LINK_STAT.STATE = 0 → fldUp s = true → (s.fld.sess.map (·.1)).Nodup → gives (.fieldLocalBoundary n) s fun t =>
      t.gtime = max s.gtime (at0 + 32000 * per) ∧ mfind t.fld.flips n = some (at0 + 32000 * per, per)
        ∧ (∀ k, k ∈ sessOfClass s n → (sessOf s k).st = 3 → (sessOf s k).got = false → 2 ≤ (sessOf s k).miss → (sessOf t k).st = 4 ∧ raised t (fld 0) 2)
        ∧ (∀ k, k ∈ sessOfClass s n → (sessOf s k).st = 3 → (sessOf s k).got = true → (sessOf t k).st = 3 ∧ (sessOf t k).miss = 0 ∧ (sessOf t k).got = false)
        ∧ (∀ k, k ∉ sessOfClass s n → sessOf t k = sessOf s k)))

/-- The field ports' clock and the watch engine (R286, R295, R296, R306, R307, R308, R309): a better grandmaster makes a port passive until it is heard no
more; a master port sends the field die's time; a port's role follows its link; the watch engine polls the sessions of its enabled points, and 2 ms
later the lowest crossing is recorded and reported over the barrier; out of range, the field supply holds the die in reset, which keeps nothing, and
in range the die starts. Where it rests on a choice of the model: assumption logs 43 and 44. -/
def Obligations.FieldPortsAndWatch : Prop :=
  ∀ (s : State),
    (∀ p, portOn s p = true → s.fld.switching = none →
      (∀ prio tie, let better := prio < prio1 s p ∨ (prio = prio1 s p ∧ tie = true)
        (better → rdF s (fld (1 + p)) FLD.PORT_STAT.ROLE ≠ 3 → gives (.gmAnnounce p prio tie) s fun t => rdF t (fld (1 + p)) FLD.PORT_STAT.ROLE = 3 ∧ raised t (fld (1 + p)) 0)
        ∧ (¬better ∨ rdF s (fld (1 + p)) FLD.PORT_STAT.ROLE = 3 → gives (.gmAnnounce p prio tie) s fun t => t = s))
      ∧ (rdF s (fld (1 + p)) FLD.PORT_STAT.ROLE = 1 → gives (.ptpSyncSend p) s fun t =>
        t = { s with tx := s.tx ++ [⟨.field p, 0x101, [((s.gtime : Int) + (mget {} s.dies 24).dev).toNat, prio1 s p]⟩] }))
    ∧ (∀ p, rdF s (fld (1 + p)) FLD.PORT_STAT.ROLE = 3 → gives (.announcementsStop p) s fun t => rdF t (fld (1 + p)) FLD.PORT_STAT.ROLE = 1 ∧ t = { s with fields := t.fields })
    ∧ (∀ p up, fldUp s = true → p < 8 → gives (.fieldPortLinkChange p up) s fun t => rdF t (fld (1 + p)) FLD.PORT_STAT.LINK = b2n up ∧ t = { s with fields := t.fields }
        ∧ rdF t (fld (1 + p)) FLD.PORT_STAT.ROLE = (if up && rdF s (fld (1 + p)) FLD.PORT_CFG.EN = 1 then (if rdF s (fld (1 + p)) FLD.PORT_STAT.ROLE = 0 then 1 else rdF s (fld (1 + p)) FLD.PORT_STAT.ROLE) else 0))
    ∧ (∀ at0, s.fld.wakeAt = some at0 → modeOf s = 2 → rdF s (fld 9) FLD.WATCH_CFG.EN ≠ 0 → fldUp s = true → gives .watchWakeTimer s fun t =>
      t.gtime = max s.gtime at0 ∧ t.fld.wakeAt = some (at0 + 3200000 * rdF s (fld 9) FLD.WATCH_CFG.PERIOD_MS) ∧ t.fld.pollAt = some (at0 + 6400000) ∧ t.fld.polled = []
        ∧ ∀ n, n ∈ watchPoints s → let k := wp s FLD.WP_CFG.SESSION n
          portOn s (se s FLD.SESS_CFG0.PORT k) = true → ∃ m, m ∈ t.tx ∧ m.dest = .field (se s FLD.SESS_CFG0.PORT k) ∧ m.kind = 6 ∧ m.args = [k, (sessOf s k).gen, 0])
    ∧ (∀ at0, s.fld.pollAt = some at0 →
      (watchPoints s = [] → gives .watchPollTimeout s fun t => t.gtime = max s.gtime at0 ∧ t.fld = { s.fld with pollAt := none })
      ∧ (∀ n slots, watchPoints s = [n] → mfind s.fld.polled (wp s FLD.WP_CFG.SESSION n) = some slots →
        let v := (slots[wp s FLD.WP_CFG.SLOT n]?).getD 0
        let g := fun (x : Nat) => if wp s FLD.WP_CFG.SIGNED n = 1 then toSigned12 x else (x : Int)
        let high := g (wp s FLD.WP_LIM.HI n) < g (v % 4096)
        let low := g (v % 4096) < g (wp s FLD.WP_LIM.LO n)
        (bit v 15 = true → high ∨ low → gives .watchPollTimeout s fun t => rdF t (fld 9) FLD.WAKE_INFO.VALID = 1 ∧ rdF t (fld 9) FLD.WAKE_INFO.CAUSE = (if g (wp s FLD.WP_LIM.HI n) < g (v % 4096) then 0 else 1)
          ∧ rdF t (fld 9) FLD.WAKE_INFO.POINT = n % 256 ∧ rdF t (fld 9) FLD.WAKE_INFO.VALUE = v % 4096 ∧ t.fld.wakeAt = none ∧ t.fld.pollAt = none ∧ mfind t.fld.prev n = some (v % 4096))
        ∧ (bit v 15 = false → gives .watchPollTimeout s fun t => t.fld.pollAt = none ∧ t.fld.wakeAt = s.fld.wakeAt ∧ t.bar = s.bar)))
    ∧ (s.fld.held = false → gives .vfldOutOfRange s fun t => t.fld = { held := true } ∧ (∀ k, k / (32 * 4096 * 65536) % 64 = 24 → mfind t.fields k = none)
        ∧ rdF t bar BAR.LINK_STAT.STATE = 0 ∧ (modeOf s = 2 → modeOf t = 1 ∧ rdF t (pwr 0) PWR.MODE.CAUSE = 2))
    ∧ (s.fld.held = true → gives .vfldInRange s fun t => t = { s with fld := { held := false } })

/-- The host's side of the Service Endpoint (R329, R330, R331, R332, R334, R337, R341, R343, R344): configuration requests are answered with Request Retry
until the endpoint is enabled; a doorbell is latched; a window read or write reaches its target, and what no window takes is an Unsupported Request;
the function's resets and its lost link advance its generation and end its reads as ABORTED. The answers to what the hub asked (R157, R159, R338,
R339, R340, R345, R347, R348): a completion of the generation held gives its reader the data or an error, any other is discarded and counted; a
request that has waited its time ends in an error and its tag advances; a pending MSI-X vector is sent once it may be. Where it rests on a choice of
the model: assumption logs 47, 48 and 78. -/
def Obligations.HostAndCompletions : Prop :=
  (∀ (s : State),
    (rdF s sep SEP.STAT.LINK_UP ≠ 0 → ∀ tag q,
      let cpl := fun (st : Nat) (vs : List Nat) => (⟨.host, 2, [tag, 0, st, 0] ++ vs⟩ : Tx)
      ((hdrOf s sep).enable = false ∨ s.io.flr = true → gives (.hostConfigRequest tag q) s fun t => t = { s with tx := s.tx ++ [cpl 2 []] })
      ∧ ((hdrOf s sep).enable = true → s.io.flr = false →
        (∀ dw v, q = .read dw → cfgDword s dw = some v → gives (.hostConfigRequest tag q) s fun t => t = { s with tx := s.tx ++ [cpl 0 [v]] })
        ∧ (∀ bme mse, q = .command bme mse → gives (.hostConfigRequest tag q) s fun t => rdF t sep SEP.STAT.BME = b2n bme ∧ rdF t sep SEP.STAT.MSE = b2n mse ∧ cpl 0 [] ∈ t.tx
          ∧ (bme = false → rdF s sep SEP.STAT.BME = 1 → rdF t sep SEP.STAT.GEN = (rdF s sep SEP.STAT.GEN + 1) % 256 ∧ raised t sep 1))
        ∧ (∀ n v, q = .bar n v → gives (.hostConfigRequest tag q) s fun t => t = { s with tx := s.tx ++ [cpl 0 []], io := { s.io with bars := t.io.bars } }
          ∧ ((4 ≤ n ∧ n ≤ 9) ∨ n = 12 → mget 0 t.io.bars n = v.toNat))
        ∧ (∀ en mask, q = .msix en mask → gives (.hostConfigRequest tag q) s fun t => t = { s with tx := s.tx ++ [cpl 0 []], io := { s.io with msixEn := en, msixMask := mask } })
        ∧ (∀ us, q = .timeout us → gives (.hostConfigRequest tag q) s fun t => t = { s with tx := s.tx ++ [cpl 0 []], io := { s.io with cto := us } })))
    ∧ (∀ n, n < 32 → hostReach s = true → gives (.doorbellWrite n) s fun t => rdF t sep SEP.DB_PEND.PEND = (rdF s sep SEP.DB_PEND.PEND ||| 2 ^ n) % 2 ^ 32 ∧ raised t sep 3 ∧ regFrame [sep] s t)
    ∧ (∀ tag off len, hostReach s = true → 0 < len →
      (off + len ≤ 0x10000 → bit (mget 0 s.io.bars 12) 0 = true → ∀ ep, gives (.hostWindowRequest tag 6 off len none ep) s fun t =>
        t = { s with tx := s.tx ++ [⟨.host, 2, [tag, 0, 0, 0] ++ (List.range len).map (fun j => ((romTable s)[off + j]?).getD 0)⟩] })
      ∧ (∀ n b ep, n < 32 → gives (.hostWindowRequest tag 0 (4 * n) len (some [b]) ep) s fun t => rdF t sep SEP.DB_PEND.PEND = (rdF s sep SEP.DB_PEND.PEND ||| 2 ^ n) % 2 ^ 32 ∧ raised t sep 3)
      ∧ (∀ bar_ ep, bar_ = 2 ∨ bar_ = 4 → (∀ w, w < 32 → winEn s w = true → 2 + 2 * rdF s sep SEP.WIN_CTRL.BAR w = bar_ → off < winOfs s w ∨ winOfs s w + 2 ^ winExp s w < off + len) →
        gives (.hostWindowRequest tag bar_ off len none ep) s fun t => counted s t sep SEP.UR_CNT.COUNT ∧ t.tx = s.tx ++ [⟨.host, 3, [0]⟩, ⟨.host, 2, [tag, 0, 1, 0]⟩] ∧ t = { s with fields := t.fields, tx := t.tx })
      ∧ (∀ bar_ w, bar_ = 2 ∨ bar_ = 4 → (List.range 32).find? (fun w => winEn s w && 2 + 2 * rdF s sep SEP.WIN_CTRL.BAR w = bar_ && decide (winOfs s w ≤ off) && decide (off + len ≤ winOfs s w + 2 ^ winExp s w)) = some w →
        let who : Who := { num := 77, sec := decide (rdF s sep SEP.WIN_CTRL.SEC w = 1) }
        let pa := winTgt s w + (off - winOfs s w)
        (rdF s sep SEP.WIN_CTRL.R w ≠ 0 → isMem (zoneOf s pa) = true → ∀ ep, gives (.hostWindowRequest tag bar_ off len none ep) s fun t =>
          let r := ioReadBytes s who pa len
          t = { r.2 with tx := r.2.tx ++ [⟨.host, 2, [tag, 0, 0, b2n r.1.2] ++ r.1.1⟩] })
        ∧ (rdF s sep SEP.WIN_CTRL.W w ≠ 0 → isMem (zoneOf s pa) = true → ∀ bs, bs.length = len → gives (.hostWindowRequest tag bar_ off len (some bs) false) s fun t =>
          t = ioWriteBytes s who pa (bs.map (·.toNat)))))
    ∧ (∀ tag bar_ off len data ep, hostReach s = false → rdF s sep SEP.STAT.LINK_UP ≠ 0 → s.io.flr = false → (match data with
        | some bs => bs.length
        | none => len) ≠ 0 → gives (.hostWindowRequest tag bar_ off len data ep) s fun t => t = if data.isSome then s else { s with tx := s.tx ++ [⟨.host, 2, [tag, 0, 1, 0]⟩] })
    ∧ (let gen1 := fun (t : State) => rdF t sep SEP.STAT.GEN = (rdF s sep SEP.STAT.GEN + 1) % 256
      let noReads := fun (t : State) => ∀ k x, mfind t.iot k = some x → x.port ≠ 4
      let reset := fun (t : State) => gen1 t ∧ noReads t ∧ rdF t sep SEP.DB_PEND.PEND = 0 ∧ rdF t sep SEP.STAT.BME = 0 ∧ rdF t sep SEP.STAT.MSE = 0 ∧ rdF t sep SEP.STAT.DSTATE = 0
        ∧ t.io.bars = [] ∧ t.io.msix = ({} : Io).msix ∧ t.io.msixEn = false ∧ t.io.msixMask = false ∧ t.io.pend = [] ∧ sameMemory s t
      (rdF s sep SEP.STAT.BME ≠ 0 → gives .bmeClear s fun t => gen1 t ∧ noReads t ∧ rdF t sep SEP.STAT.BME = 0 ∧ raised t sep 1 ∧ sameMemory s t)
      ∧ (rdF s sep SEP.STAT.LINK_UP ≠ 0 →
        (gives .flr s fun t => reset t ∧ t.io.flr = true ∧ t.io.bar2 = s.io.bar2 ∧ t.io.bar4 = s.io.bar4)
        ∧ (gives .hotReset s fun t => reset t ∧ t.io.flr = false ∧ t.io.bar2 = rdF s sep SEP.BAR_CFG.BAR2_EXP ∧ t.io.bar4 = rdF s sep SEP.BAR_CFG.BAR4_EXP ∧ raised t sep 0)
        ∧ (gives .sepLinkDown s fun t => gen1 t ∧ rdF t sep SEP.STAT.LINK_UP = 0 ∧ rdF t sep SEP.STAT.SPEED = 0 ∧ rdF t sep SEP.STAT.WIDTH = 0 ∧ t = { s with fields := t.fields })
        ∧ (∀ d3, rdF s sep SEP.STAT.DSTATE ≠ (if d3 then 3 else 0) → gives (.dstateChange d3) s fun t => rdF t sep SEP.STAT.DSTATE = (if d3 then 3 else 0) ∧ raised t sep 2 ∧ regFrame [sep] s t))
      ∧ (s.io.flr = true → gives .flrDone s fun t => t.io.flr = false ∧ raised t sep 0 ∧ regFrame [sep] { s with io := t.io } t)
      ∧ (fitsBlock s.variant sep = true → rdF s sep SEP.STAT.PERST ≠ 1 →
        (gives .perstAssert s fun t => reset t ∧ t.io.flr = false ∧ rdF t sep SEP.STAT.LINK_UP = 0 ∧ rdF t sep SEP.STAT.PERST = 1 ∧ t.io.bar2 = rdF s sep SEP.BAR_CFG.BAR2_EXP ∧ raised t sep 0 ∧ raised t sep 4)
        ∧ (∀ speed width, speed < 16 → width < 32 → 3 ≤ modeOf s → gives (.sepLinkUp speed width) s fun t => rdF t sep SEP.STAT.LINK_UP = 1 ∧ rdF t sep SEP.STAT.SPEED = speed
          ∧ rdF t sep SEP.STAT.WIDTH = width ∧ t = { s with fields := t.fields }))
      ∧ (rdF s sep SEP.STAT.PERST ≠ 0 → gives .perstDeassert s fun t => rdF t sep SEP.STAT.PERST = 0 ∧ t.io.wake = false
        ∧ t.tx = s.tx ++ (if s.io.wake && s.wd.wakeAt.isNone then [⟨.pin, 1, [1]⟩] else []) ∧ t = { s with fields := t.fields, tx := t.tx, io := { s.io with wake := false } })))
  ∧ (∀ (s : State),
    (∀ tag x gen (v : BitVec 64), mfind s.iot tag = some x → x.hart = 0xFF →
      let data := fun (t : State) (r : Nat) => mfind t.iot tag = none ∧ t.resp = ⟨false, r % 2 ^ (8 * x.size)⟩ ∧ t = { s with iot := t.iot, resp := t.resp }
      let error := fun (t : State) => mfind t.iot tag = none ∧ t.resp = ⟨true, 0⟩
      (x.gen = gen → gives (.hubCompletion tag gen v false) s fun t => data t v.toNat)
      ∧ (x.gen = gen → gives (.hubCompletion tag gen v true) s fun t => error t ∧ t = { s with iot := t.iot, resp := t.resp })
      ∧ (x.port = 4 → x.gen = gen → gen % 256 = rdF s sep SEP.STAT.GEN →
        (gives (.hostCompletion tag gen 0 v false) s fun t => data t v.toNat)
        ∧ ∀ st ep, st ≠ 0 ∨ ep = true → gives (.hostCompletion tag gen st v ep) s fun t => error t ∧ t = { s with iot := t.iot, resp := t.resp })
      ∧ (x.port < 4 → x.gen = gen →
        (gives (.rcxCompletion x.port tag gen 0 v false) s fun t => data t v.toNat)
        ∧ (gives (.rcxCompletion x.port tag gen 0 v true) s fun t => error t)
        ∧ (x.cfg = true → gives (.rcxCompletion x.port tag gen 1 v false) s fun t => data t (2 ^ 64 - 1))
        ∧ (x.cfg = false → ∀ st, st ≠ 0 → gives (.rcxCompletion x.port tag gen st v false) s fun t => error t ∧ counted s t (rcx x.port) RCX.UR_CNT.COUNT))
      ∧ (x.port ≠ 4 → gives (.ioTimeout tag) s fun t => error t ∧ raised t (xfb 0) 4 ∧ t.gtime = max s.gtime (x.since + 2 ^ rdF s (xfb 0) XFB.IO_TMO.EXP * 3200)
        ∧ mget 0 t.ioGen tag = (mget 0 s.ioGen tag + 1) % 256)
      ∧ (x.port = 4 → gives (.sepReadTimeout tag) s fun t => error t ∧ raised t sep 5 ∧ counted s t sep SEP.TMO_CNT.COUNT ∧ ⟨.host, 3, [1]⟩ ∈ t.tx
        ∧ t.gtime = max s.gtime (x.since + min (2 ^ rdF s (xfb 0) XFB.IO_TMO.EXP) s.io.cto * 3200)))
    ∧ (∀ tag gen (v : BitVec 64) err,
      ((∀ x, mfind s.iot tag = some x → x.gen ≠ gen) → gives (.hubCompletion tag gen v err) s fun t => counted s t (xfb 0) XFB.LATE_CPL.COUNT ∧ t = { s with fields := t.fields })
      ∧ (∀ st, (∀ x, mfind s.iot tag = some x → x.port ≠ 4 ∨ x.gen ≠ gen ∨ gen % 256 ≠ rdF s sep SEP.STAT.GEN) → gives (.hostCompletion tag gen st v err) s fun t =>
        counted s t sep SEP.LATE_CPL.COUNT ∧ t.iot = s.iot ∧ t.resp = s.resp)
      ∧ (∀ p st, p < 4 → (∀ x, mfind s.iot tag = some x → x.port ≠ p ∨ x.gen ≠ gen) → gives (.rcxCompletion p tag gen st v err) s fun t =>
        counted s t (rcx p) RCX.LATE_CPL.COUNT ∧ t.iot = s.iot ∧ t.resp = s.resp))
    ∧ (∀ tag x (v : BitVec 64), mfind s.iot tag = some x → (hartOf s x.hart).ioTag = some tag → x.hart < 0xFF →
      ∀ h c rd rs1 imm k, (hartOf s x.hart).cur = some (.load h c rd rs1 imm x.size k) → gives (.hubCompletion tag x.gen v false) s fun t =>
        mfind t.iot tag = none ∧ (hartOf t x.hart).ioTag = none ∧ (hartOf t x.hart).cur = none ∧ (∀ j, j ≠ x.hart → hartOf t j = hartOf s j)
          ∧ ∀ j, xr (hartOf t x.hart) j = xr (loadResult (hartOf s x.hart) rd x.size (v.toNat % 2 ^ (8 * x.size)) k) j)
    ∧ (∀ n, s.io.pend.find? (fun n => sepCan s && !vecMasked s n) = some n → gives .msixPendingSend s fun t => t = { s with
        tx := s.tx ++ [⟨.host, 4, [n, readBytes s.io.msix (16 * n) 8, readBytes s.io.msix (16 * n + 8) 4]⟩], io := { s.io with pend := sDel s.io.pend n } }))

/-- The root ports (R346, R347, R348, R349, R350, R351): a link comes up unless held, and going down ends its reads in errors under a new generation; a
device's access by a valid context in bare mode reaches memory, one without a valid context fails and is recorded; its interrupt message is delivered
by its context or refused; INTx drives the port's wired source, and an error message is captured. Where it rests on a choice of the model: assumption
log 50. -/
def Obligations.RootPorts : Prop :=
  ∀ (s : State) (p l : Nat), p < 4 →
    (3 ≤ modeOf s → l ∈ portLinks s p → l < 4 → linkUp s p l = false → rdF s (rcx p) RCX.LINK_CFG.HOLD ≠ 1 → rdF s (rcx p) RCX.LINK_CFG.UP < 16 → gives (.rcxLinkUp p l) s fun t =>
      linkUp t p l = true ∧ (∀ k, k < 4 → k ≠ l → linkUp t p k = linkUp s p k) ∧ raised t (rcx p) 1 ∧ regFrame [rcx p] s t)
    ∧ (l < 4 → linkUp s p l = true → rdF s (rcx p) RCX.LINK_CFG.UP < 16 → gives (.rcxLinkDown p l) s fun t => linkUp t p l = false ∧ (∀ k, k < 4 → k ≠ l → linkUp t p k = linkUp s p k) ∧ raised t (rcx p) 1
      ∧ mget 0 t.io.lgen (p * 4 + l) = mget 0 s.io.lgen (p * 4 + l) + 1 ∧ (∀ k x, mfind t.iot k = some x → ¬(x.port = p ∧ x.link = l)) ∧ sameMemory s t)
    ∧ (linkUp s p l = false → ∀ i, i ∈ [Instr.deviceErrorMessage p l, .deviceRequest p l 0 0 1 none false, .deviceMsi p l 0 1] → gives i s fun t => t = s)
    ∧ (linkUp s p l = true →
      (gives (.deviceErrorMessage p l) s fun t => raised t (rcx p) 0 ∧ regFrame [rcx p] s t)
      ∧ (∀ rid e u, devCtx s p rid = (e, u) →
        let who : Who := { num := 78 + p, sec := bit e.w0 1 }
        let noted := fun (t : State) (reason : Nat) (wr : Bool) (a : Nat) => raised t (rcx p) 2 ∧ (rdF u (rcx p) RCX.FAULT_INFO.VALID = 0 → rdF t (rcx p) RCX.FAULT_INFO.VALID = 1
          ∧ rdF t (rcx p) RCX.FAULT_INFO.REASON = reason ∧ rdF t (rcx p) RCX.FAULT_INFO.WRITE = b2n wr ∧ rdF t (rcx p) RCX.FAULT_INFO.LINK = l % 4 ∧ rdF t (rcx p) RCX.FAULT_INFO.RID = rid % 2 ^ 16
          ∧ rdF t (rcx p) RCX.FAULT_ADDR_LO.ADDR = a % 2 ^ 32)
        (∀ a len ep, ctxOk u p e = false → gives (.deviceRequest p l rid a len none ep) s fun t => noted t 4 false a ∧ (domState s 0 p = 0 → ⟨.rcx p, 2, [rid, 1]⟩ ∈ t.tx))
        ∧ (∀ a bs ep, a ≠ msiAddr s p → ctxOk u p e = false → gives (.deviceRequest p l rid a 0 (some bs) ep) s fun t => noted t 4 true a ∧ t.tx = u.tx ∧ sameMemory u t)
        ∧ (∀ a len ep, ctxOk u p e = true → e.w1 / 2 ^ 60 = 0 → isMem (zoneOf u a) = true → domState s 0 p = 0 → gives (.deviceRequest p l rid a len none ep) s fun t =>
          ∃ v, (ioReadBytes v who a len).2.tx ++ [⟨.rcx p, 2, [rid, 0, b2n (ioReadBytes v who a len).1.2] ++ (ioReadBytes v who a len).1.1⟩] = t.tx ∧ sameMemory u v)
        ∧ (∀ a bs, a ≠ msiAddr s p → ctxOk u p e = true → e.w1 / 2 ^ 60 = 0 → isMem (zoneOf u a) = true → gives (.deviceRequest p l rid a 0 (some bs) false) s fun t =>
          ∃ v, t = ioWriteBytes v who a (bs.map (·.toNat)) ∧ sameMemory u v)
        ∧ (∀ data, ctxOk u p e = false → gives (.deviceMsi p l rid data) s fun t => noted t 4 true (msiAddr s p))
        ∧ (∀ data, ctxOk u p e = true → (bit e.w0 2 = false ∨ data % 2 ^ 11 = 0) → gives (.deviceMsi p l rid data) s fun t => noted t 5 true (msiAddr s p))
        ∧ (∀ data, ctxOk u p e = true → bit e.w0 2 = true → data % 2 ^ 11 ≠ 0 → gives (.deviceMsi p l rid data) s fun t =>
          t.irqs = u.irqs ++ [⟨0x200000 + p, bits data 23 16, if bit e.w0 1 then 0 else 1 + bits e.w0 7 4, data % 2 ^ 11⟩])))
    ∧ (rdF s (rcx p) RCX.LINK_CFG.UP ≠ 0 → ∀ x on, x < 4 → gives (.intxMessage p x on) s fun t =>
      let k := 3 + 4 * p + x
      (k ∈ t.wires ↔ on = true) ∧ (∀ j, j ≠ k → (j ∈ t.wires ↔ j ∈ s.wires))
        ∧ (s.wires.contains k = false → on = true → powered s = true → entSm (rdF s hub HUB.APL_SRC.ENTRY k) ∈ [4, 6] → entEn (rdF s hub HUB.APL_SRC.ENTRY k) = true →
          ∃ q, t.irqs = s.irqs ++ [q] ∧ q.hart = entHart (rdF s hub HUB.APL_SRC.ENTRY k) ∧ q.ident = entIdent (rdF s hub HUB.APL_SRC.ENTRY k)))

/-- Yilust links (R353, R355, R356, R364, R365, R366, R367): a trained link comes up within 1 µs at full width, else it is held down and may train again;
going down advances the generation and forgets the peer; a bad header is counted, a message for another is relayed only; an interrupt message and a
write are taken as the port permits and a write is answered; the copy engine sends its lines and ends when all are answered. Where it rests on a
choice of the model: assumption log 53. -/
def Obligations.YilustLinks : Prop :=
  ∀ (s : State),
    (∀ p, p < 4 → ylkPowered s = true → rdF s (ylk p) YLK.PORT_CFG.EN ≠ 0 → rdF s (ylk p) YLK.PORT_STAT.STATE = 1 → ∀ rtt full,
      (full = true → rtt ≤ 125 → gives (.ylkLinkUp p rtt full) s fun t => ylkUp t p = true ∧ rdF t (ylk p) YLK.PORT_STAT.RTT = rtt ∧ raised t (ylk p) 0
        ∧ t.cl.firstUp = some (s.cl.firstUp.getD s.gtime))
      ∧ (full = false ∨ 125 < rtt → gives (.ylkLinkUp p rtt full) s fun t => rdF t (ylk p) YLK.PORT_STAT.STATE = 3 ∧ rdF t (ylk p) YLK.PORT_STAT.RTT = min 255 rtt ∧ t = { s with fields := t.fields }))
    ∧ (∀ p, p < 4 → rdF s (ylk p) YLK.PORT_STAT.STATE = 3 → gives (.ylkTrainRetry p) s fun t => rdF t (ylk p) YLK.PORT_STAT.STATE = 1 ∧ t = { s with fields := t.fields })
    ∧ (∀ p, ylkUp s p = true →
      (∀ i, i ∈ [Instr.ylkLinkDown p, .ylkReplayLimit p] → gives i s fun t => ylkUp t p = false ∧ rdF t (ylk p) YLK.PORT_STAT.GEN = (rdF s (ylk p) YLK.PORT_STAT.GEN + 1) % 256
        ∧ rdF t (ylk p) YLK.PORT_STAT.PEER_POS = 0 ∧ mfind t.cl.nbr p = none ∧ mfind t.cl.copies p = none ∧ t.cl.parent ≠ some p ∧ raised t (ylk p) 0 ∧ t.harts = s.harts ∧ sameMemory s t)
      ∧ (gives (.ylkCrcFail p) s fun t => counted s t (ylk p) YLK.CRC_CNT.COUNT ∧ counted s t (ylk p) YLK.REPLAY_CNT.COUNT ∧ t = { s with fields := t.fields }))
    ∧ (joinOf s ≠ 3 → gives .ylkHelloTimer s fun t => t = { s with tx := s.tx ++ (upPorts s).map (fun p => ⟨.ylk p, 1, [myPos s, 0, 1, s.gtime, rdF s (ylk 0) YLK.CL_CFG.MGR_SEL, clRole s,
        rdF s (ylk 0) YLK.CL_STAT.MGR_POS, hop s, varCode s.variant, Config.hubSerial]⟩) })
    ∧ (∀ c tag, asked s c 0x11 tag → gives (.clLeave c) s fun t => answered t c 1 ∧ ∀ p, p ∈ upPorts s → ⟨.ylk p, 2, [myPos s, 0, 1, 0]⟩ ∈ t.tx)
    ∧ (∀ m hart file ident,
      (ylkUp s m.port = true → m.bad = true → gives (.ylkIrq m hart file ident) s fun t => counted s t (ylk m.port) YLK.BAD_MSG.COUNT ∧ t = { s with fields := t.fields })
      ∧ (ylkUp s m.port = true → m.bad = false → ¬(m.bcast = true ∨ m.dst = myPos s) → gives (.ylkIrq m hart file ident) s fun t => t = relay s m 7 [hart, file, ident] ∧ t = { s with tx := t.tx })
      ∧ (forMe s m →
        let fine := rdF s (ylk m.port) YLK.PORT_CFG.IRQ_EN = 1 ∧ hart < hartCount s ∧ file < 8 ∧ 0 < ident ∧ ident < 2048
        (fine → gives (.ylkIrq m hart file ident) s fun t => t.irqs = s.irqs ++ [⟨0x300000 + m.port, hart, 1 + file, ident⟩] ∧ t.hdrs = s.hdrs)
        ∧ (¬fine → gives (.ylkIrq m hart file ident) s fun t => counted s t (ylk m.port) YLK.BAD_MSG.COUNT ∧ t.irqs = s.irqs)))
    ∧ (∀ m gen tag o aux data, forMe s m →
      let p := m.port
      let cpl := fun (st : Nat) => (⟨.ylk p, 0x11, [myPos s, m.src, 0, gen, tag, st]⟩ : Tx)
      let fits := 1 ≤ data.length ∧ data.length ≤ 4 ∧ o % 64 = 0 ∧ o / 256 = (o + 64 * data.length - 1) / 256 ∧ gen = rdF s (ylk p) YLK.PORT_STAT.GEN
      (¬fits ∨ yWindow s p o (64 * data.length) = none → gives (.ylkWr m gen tag o aux data) s fun t => counted s t (ylk p) YLK.BAD_MSG.COUNT ∧ cpl 1 ∈ t.tx ∧ sameMemory s t)
      ∧ (∀ w d, fits → yWindow s p o (64 * data.length) = some w → data = [d] → aux % 256 = 0 → isMem (zoneOf s (yTgt s p w + (o - yOfs s p w))) = true → gives (.ylkWr m gen tag o aux data) s fun t =>
        ∃ u, t = { u with tx := u.tx ++ [cpl 0] }
          ∧ u = ioWriteBytes (relay s m 0x10 ([o, gen, tag, aux] ++ data.map (·.toNat))) { num := 83 + p, sec := decide (rdF s (ylk p) YLK.WIN_CTRL.SEC w = 1) }
            (yTgt s p w + (o - yOfs s p w)) ((List.range 64).map (fun i => d.toNat / 2 ^ (8 * i) % 256))))
    ∧ (∀ m gen tag st, forMe s m →
      (gen ≠ rdF s (ylk m.port) YLK.PORT_STAT.GEN → gives (.ylkCpl m gen tag st) s fun t => counted s t (ylk m.port) YLK.LATE_CPL.COUNT ∧ t.cl = s.cl)
      ∧ (∀ c, gen = rdF s (ylk m.port) YLK.PORT_STAT.GEN → mfind s.cl.copies m.port = some c → c.tags = [tag] → (c.left = 0 ∨ c.stop = true ∨ st ≠ 0) → gives (.ylkCpl m gen tag st) s fun t =>
        mfind t.cl.copies m.port = none ∧ rdF t (ylk m.port) YLK.COPY_CTRL.BUSY = 0 ∧ raised t (ylk m.port) 4 ∧ (st ≠ 0 → rdF t (ylk m.port) YLK.COPY_CTRL.ERR = 1)))
    ∧ (∀ (m : Master) p, (whoOf s m).mach = true → p < 4 → portOpen s (ylk p) →
      (∀ c, mfind s.cl.copies p = some c → gives (.copyGo m p) s fun t => t = { s with resp := {} })
      ∧ (mfind s.cl.copies p = none →
        (ylkUp s p = false → gives (.copyGo m p) s fun t => rdF t (ylk p) YLK.COPY_CTRL.BUSY = 0 ∧ rdF t (ylk p) YLK.COPY_CTRL.ERR = 1 ∧ raised t (ylk p) 4 ∧ regFrame [ylk p] { s with resp := {} } t)
        ∧ (ylkUp s p = true → rdF s (ylk p) YLK.COPY_LEN.LINES = 0 → gives (.copyGo m p) s fun t => rdF t (ylk p) YLK.COPY_CTRL.BUSY = 0 ∧ rdF t (ylk p) YLK.COPY_CTRL.ERR = 0 ∧ raised t (ylk p) 4)
        ∧ (ylkUp s p = true → 0 < rdF s (ylk p) YLK.COPY_LEN.LINES → gives (.copyGo m p) s fun t => ∃ c, mfind t.cl.copies p = some c ∧ c.tags = List.range (min 64 (rdF s (ylk p) YLK.COPY_LEN.LINES))
          ∧ c.left = rdF s (ylk p) YLK.COPY_LEN.LINES - min 64 (rdF s (ylk p) YLK.COPY_LEN.LINES) ∧ c.stop = false))
      ∧ (gives (.copyAbort m p) s fun t => rdF t (ylk p) YLK.PORT_STAT.GEN = (rdF s (ylk p) YLK.PORT_STAT.GEN + 1) % 256 ∧ mfind t.cl.copies p = none
        ∧ (mfind s.cl.copies p ≠ none → rdF t (ylk p) YLK.COPY_CTRL.BUSY = 0 ∧ rdF t (ylk p) YLK.COPY_CTRL.ERR = 1 ∧ raised t (ylk p) 4)))

/-- The cluster (R358, R359, R360, R361, R362, R363): a HELLO records its sender as the port's neighbour and may make that port the parent; the manager
takes a member or refuses it with a reason; a LEAVE ends a membership or refuses this package; silence makes a manager, drops a member, or orphans
this package; TIME and DELAY bring GTIME to the manager's; different SETTINGS are a mismatch. Where it rests on a choice of the model: assumption logs
4, 15 and 54. -/
def Obligations.YilustCluster : Prop :=
  ∀ (s : State),
    (∀ m gt sel role mgr dist var serial, forMe s m →
      let c := Instr.ylkHello m gt sel role mgr dist var serial
      ((∀ n, mfind s.cl.nbr m.port = some n → n.pos = m.src) → m.src < 16 → role < 4 → gives c s fun t =>
        mfind t.cl.nbr m.port = some ⟨m.src, role, mgr, dist, sel, var⟩ ∧ rdF t (ylk m.port) YLK.PORT_STAT.PEER_POS = m.src ∧ rdF t (ylk m.port) YLK.PORT_STAT.PEER_ROLE = role)
      ∧ (clRole s = 1 →
        (m.src = myPos s → serial ≠ Config.hubSerial → gives c s fun t => ⟨.ylk m.port, 2, [myPos s, m.src, 0, 1]⟩ ∈ t.tx ∧ t.cl.members = s.cl.members)
        ∧ (m.src ≠ myPos s → m.src < 16 → role ≠ 0 → dist ≤ 3 → gt ≤ s.gtime → sel = false → (∀ x, mfind s.cl.serials m.src = some x → x = serial) → mfind s.cl.members m.src = none → gives c s fun t =>
          mfind t.cl.members m.src = some s.gtime ∧ raised t (ylk 0) 1)
        ∧ (m.src ≠ myPos s → 3 < dist → dist ≠ 0xFF → gt ≤ s.gtime → sel = false → (∀ x, mfind s.cl.serials m.src = some x → x = serial) → gives c s fun t =>
          ⟨.ylk m.port, 2, [myPos s, m.src, 0, 4]⟩ ∈ t.tx ∧ t.cl.members = s.cl.members))
      ∧ (clRole s = 0 → joinOf s = 0 → dist < 0xFF → s.cl.nbr = [] → m.src < 16 → role < 4 → mgr < 16 → gives c s fun t =>
        t.cl.parent = some m.port ∧ joinOf t = 1 ∧ rdF t (ylk 0) YLK.CL_STAT.MGR_POS = mgr ∧ rdF t (ylk 0) YLK.CL_STAT.DIST = min 3 (dist + 1)))
    ∧ (∀ m reason, forMe s m →
      (m.bcast = false → 0 < reason → reason < 16 → clRole s ≠ 1 → gives (.ylkLeave m reason) s fun t => joinOf t = 3 ∧ rdF t (ylk 0) YLK.CL_STAT.REFUSE = reason ∧ clRole t = 0 ∧ t.cl.parent = none)
      ∧ (clRole s = 1 → mfind s.cl.members m.src ≠ none → gives (.ylkLeave m reason) s fun t => mfind t.cl.members m.src = none ∧ raised t (ylk 0) 1))
    ∧ (∀ at0, s.cl.firstUp = some at0 → s.cl.named = false → clRole s = 0 → mgrSel s = true → (∀ q, q ∈ s.cl.sels → myPos s ≤ q) → joinOf s ≠ 3 → gives .managerElectTimeout s fun t =>
      t.gtime = max s.gtime (at0 + 320000000) ∧ clRole t = 1 ∧ joinOf t = 2 ∧ rdF t (ylk 0) YLK.CL_STAT.MGR_POS = myPos s % 16 ∧ mfind t.cl.members (myPos s) = some t.gtime)
    ∧ (∀ n at0, mfind s.cl.members n = some at0 → clRole s = 1 → n ≠ myPos s → gives (.memberTimeout n) s fun t => t.gtime = max s.gtime (at0 + 160000000) ∧ mfind t.cl.members n = none ∧ raised t (ylk 0) 1)
    ∧ (joinOf s = 2 → clRole s ≠ 1 → pairState s ≠ 2 → gives .orphanTimeout s fun t => t.gtime = max s.gtime (s.cl.lastMgr + 320000000) ∧ t.cl.parent = none
      ∧ (mgrSel s = true → clRole t = 1 ∧ joinOf t = 2) ∧ (mgrSel s = false → joinOf t = 1 ∧ clRole t = clRole s))
    ∧ (joinOf s = 2 → gives .ylkTimeTimer s fun t => t.gtime = max s.gtime ((s.gtime + 0xFFFF) / 0x10000 * 0x10000)
      ∧ ∀ p, p ∈ upPorts s → s.cl.parent ≠ some p → ⟨.ylk p, 3, [myPos s, 0, 0, t.gtime]⟩ ∈ t.tx)
    ∧ (∀ m ref, forMe s m → fromParent s m = true →
      let d : Int := (s.gtime : Int) - ((ref + s.cl.dly : Nat) : Int)
      (joinOf s = 1 → d.natAbs ≤ 16 → gives (.ylkTime m ref) s fun t => joinOf t = 2 ∧ rdF t (ylk 0) YLK.CL_STAT.CATCHUP = 0 ∧ clRole t = (if mgrSel s then 3 else 2) ∧ t.cl.dev = d)
      ∧ (joinOf s = 1 → d < -1024 → gives (.ylkTime m ref) s fun t => t.cl.catchTo = some (ref + s.cl.dly) ∧ rdF t (ylk 0) YLK.CL_STAT.CATCHUP = 1 ∧ t.gtime = s.gtime)
      ∧ (joinOf s = 2 → 16 < d.natAbs → gives (.ylkTime m ref) s fun t => raised t (ylk 0) 3 ∧ t.cl.dev = d ∧ t.cl.slew = true)
      ∧ (joinOf s = 2 → d.natAbs ≤ 16 → gives (.ylkTime m ref) s fun t => t.cl.dev = d ∧ t.cl.slew = decide (d ≠ 0) ∧ t.hdrs = s.hdrs))
    ∧ (∀ p n, s.cl.parent = some p → ylkUp s p = true → mfind s.cl.nbr p = some n → gives .ylkDelayTimer s fun t => t.gtime = max s.gtime ((s.gtime + 0xFFFFF) / 0x100000 * 0x100000)
      ∧ t.cl.asked = some t.gtime ∧ ⟨.ylk p, 4, [myPos s, n.pos, 0, t.gtime]⟩ ∈ t.tx)
    ∧ (∀ m x, forMe s m → gives (.delayReq m x) s fun t => ⟨.ylk m.port, 5, [myPos s, m.src, 0, s.gtime, s.gtime]⟩ ∈ t.tx ∧ t = { s with tx := t.tx })
    ∧ (∀ m sent got at0, forMe s m → fromParent s m = true → s.cl.asked = some at0 → gives (.delayRsp m sent got) s fun t => t.cl.dly = ((s.gtime - at0) - (sent - got)) / 2 ∧ t.cl.asked = none)
    ∧ (∀ at0, s.cl.catchTo = some at0 → gives .catchupDone s fun t => t.cl.catchTo = none ∧ rdF t (ylk 0) YLK.CL_STAT.CATCHUP = 0 ∧ s.gtime ≤ t.gtime
      ∧ (s.gtime ≤ at0 → t.gtime ≤ at0 + (t.gtime - s.gtime) / 1024 ∧ at0 + (t.gtime - s.gtime) / 1024 ≤ t.gtime + 1024))
    ∧ (gives .settingsTimer s fun t => (clRole s ≠ 1 → t = s) ∧ (clRole s = 1 → ∀ p, p ∈ upPorts s → ∃ m, m ∈ t.tx ∧ m.dest = .ylk p ∧ m.kind = 6 ∧ m.args.take 4 = [myPos s, 0, 1, epochOf s]) ∧ t = { s with tx := t.tx })
    ∧ (∀ m epoch cfg, forMe s m → clRole s ≠ 1 →
      let same := epoch = epochOf s ∧ cfg = (List.range 8).flatMap (fun c => [rdF s scn SCN.CLASS_CFG.EN c * 2 ^ 31 + rdF s scn SCN.CLASS_CFG.PERIOD c, rdF s scn SCN.CLASS_OFS.OFFSET c])
      (same → gives (.settings m epoch cfg) s fun t => rdF t (ylk 0) YLK.CL_STAT.MISMATCH = 0 ∧ t.hdrs = s.hdrs)
      ∧ (¬same → gives (.settings m epoch cfg) s fun t => rdF t (ylk 0) YLK.CL_STAT.MISMATCH = 1 ∧ raised t (ylk 0) 2))

/-- The redundant pair (R368, R369, R370, R371, R372, R374, R376): a pair message that does not come from the partner is counted and dropped. The standby
asks, the manager replicates, PAIR_ACK pairs; the standby buffers lines, images, descriptors, session records and line counts; it grants the boundary
it holds whole and else takes over; the manager records a grant that is in time. Where it rests on a choice of the model: assumption logs 4, 16 and
52. -/
def Obligations.RedundantPair : Prop :=
  ∀ (s : State) (m : YHdr),
    (∀ i c k line force slots ds rs cnt, i ∈ [Instr.pairReq m, .pairAck m, .alive m, .replLine m c k line slots, .replImg m force line slots, .replDesc m ds, .replSess m rs, .replEnd m c k cnt, .grant m c k,
        .handover m c k, .yield m, .takeover m] → ylkUp s m.port = true → ¬fromPair s m → gives i s fun t => counted s t (ylk m.port) YLK.BAD_MSG.COUNT ∧ t = { s with fields := t.fields })
    ∧ (pairState s ≠ 0 → ∀ p, pairPort s = some p → gives .aliveTimer s fun t => t.tx = s.tx ++ [⟨.ylk p, 0x22, [myPos s, rdF s (ylk 0) YLK.PAIR_STAT.PARTNER, 0]⟩])
    ∧ (fromPair s m →
      (∀ i, i ∈ [Instr.alive m, .yield m, .takeover m] → gives i s fun t => t = pairHeard s)
      ∧ (clRole s = 1 → (modeOf s = 4 ∨ modeOf s = 6) → canPair s m.src = true → m.src < 16 → gives (.pairReq m) s fun t => rdF t (ylk 0) YLK.PAIR_STAT.PARTNER = m.src
        ∧ pairState t = (if (clsOn s).isEmpty then 2 else 1) ∧ t.cl.sync = clsOn s)
      ∧ (clRole s ≠ 1 → gives (.pairReq m) s fun t => t = pairHeard s)
      ∧ (clRole s = 3 → pairState s = 1 → gives (.pairAck m) s fun t => pairState t = 2 ∧ t = { pairHeard s with fields := t.fields })
      ∧ (∀ c b, clRole s = 1 → b = (clsOf s c).next → s.gtime < clsNext s c → gives (.grant m c b) s fun t => (c, b) ∈ t.cl.granted ∧ t = { pairHeard s with cl := { (pairHeard s).cl with granted := t.cl.granted } })
      ∧ (∀ c b, clRole s = 1 → (b ≠ (clsOf s c).next ∨ clsNext s c ≤ s.gtime) → gives (.grant m c b) s fun t => t = pairHeard s)
      ∧ (standby s = true →
        (∀ c k line slots, (clsOf s c).next ≤ k + 1 → gives (.replLine m c k line slots) s fun t => mfind t.cl.lines (line % 16384) = some slots
          ∧ mfind t.cl.rcnt c = some (k, match mfind s.cl.rcnt c with
            | some (q, n) => if q = k then n + 1 else 1
            | none => 1) ∧ t = { pairHeard s with cl := { (pairHeard s).cl with lines := t.cl.lines, rcnt := t.cl.rcnt } })
        ∧ (∀ force line slots, gives (.replImg m force line slots) s fun t => ∀ j, j < 32 →
          slotAt t ((if force then forceOff else safeOff) (32 * (line % 16384) + j)) = ((slots[j]?).getD 0) % 65536)
        ∧ (∀ i x, i < 524288 → x < 65536 → descNext s i ≠ x → s.spl.dq.length < 256 → gives (.replDesc m [(i, x)]) s fun t => t.spl.dq = s.spl.dq ++ [(i, x)])
        ∧ (∀ i x, i < 524288 → x < 65536 → descNext s i = x → gives (.replDesc m [(i, x)]) s fun t => t = pairHeard s)
        ∧ (∀ n st gen node, n < 4096 → gives (.replSess m [(n, st, gen, node)]) s fun t => sessOf t n = { st := st, gen := gen % 256, node := if node = 0 then none else some node })
        ∧ (∀ c k cnt, gives (.replEnd m c k cnt) s fun t => t = { pairHeard s with cl := { (pairHeard s).cl with rend := mput s.cl.rend c (k, cnt) } })
        ∧ (∀ c b, gives (.handover m c b) s fun t => t = { pairHeard s with cl := { (pairHeard s).cl with hand := some (c, b) } })))
    ∧ (∀ c, modeOf s = 5 → standby s = true → (clsOf s c).on = true → (clsOf s c).begun = true →
      let b := (clsOf s c).next
      let g := max s.gtime (clsNext s c - 32000)
      let whole := replWhole s c b = true ∧ g ≤ s.cl.lastPair + 64000 ∧ s.cl.hand ≠ some (c, b)
      (whole → gives (.grantCutoff c) s fun t => t.gtime = g ∧ (c, b) ∈ t.cl.gave ∧ modeOf t = 5
        ∧ ∀ p, pairPort s = some p → ⟨.ylk p, 0x28, [myPos s, rdF s (ylk 0) YLK.PAIR_STAT.PARTNER, 0, c, b]⟩ ∈ t.tx)
      ∧ (¬whole → pairState s = 2 → gives (.grantCutoff c) s fun t => t.gtime = g ∧ clRole t = 1 ∧ pairState t = 0 ∧ (modeOf t = 4 ∨ modeOf t = 6) ∧ t.cl.took = true ∧ raised t (ylk 0) 5
        ∧ rdF t (pwr 0) PWR.MODE.CAUSE = 5)
      ∧ (¬whole → pairState s ≠ 2 → gives (.grantCutoff c) s fun t => t = runTo s (clsNext s c - 32000)))

/-- The debug module (R312, R325, R326): a halt request takes hold at once at an instruction boundary where the invasive enable of the hart's world is on,
and else waits; a resumed hart goes on at dpc in the privilege of dcsr. Registers of a halted hart are read and written, and a system-bus access is
made, under the enables of their world; what is not enabled answers an error and raises a secure event of KIND 6; the PC sample reads 0. Where it
rests on a choice of the model: assumption logs 1 and 5. -/
def Obligations.DebugModule : Prop :=
  ∀ (s : State) (h : Nat),
    let x := hartOf s h
    (h < hartCount s → x.run ≠ .halted →
      (atBoundary x = true → x.deferred = [] → x.stepping = false → x.run ∈ [.running, .wfi, .scanWait] → invasiveOn s x = true → gives (.debugHaltRequest h) s fun t =>
        t = { s with harts := t.harts } ∧ (∀ j, j ≠ h → hartOf t j = hartOf s j) ∧ (hartOf t h).run = .halted ∧ csr (hartOf t h) 0x7B1 = x.pc
          ∧ wb (csr (hartOf t h) 0x7B0) 8 6 = 3 ∧ wb (csr (hartOf t h) 0x7B0) 1 0 = privCode x.priv ∧ (hartOf t h).x = x.x ∧ (hartOf t h).pc = x.pc)
      ∧ (atBoundary x = false ∨ (x.deferred = [] ∧ invasiveOn s x = false) → gives (.debugHaltRequest h) s fun t => t = { s with harts := t.harts }
        ∧ (∀ j, j ≠ h → hartOf t j = hartOf s j) ∧ hartOf t h = { x with haltReq := true }))
    ∧ (x.run = .halted → (x.priv = .m → wb (csr x 0x7B0) 1 0 ≠ 3 → x.deferred = []) → gives (.debugResume h) s fun t => t = { s with harts := t.harts } ∧ (∀ j, j ≠ h → hartOf t j = hartOf s j)
        ∧ (hartOf t h).run = .running ∧ (hartOf t h).pc = csr x 0x7B1 ∧ (hartOf t h).x = x.x
        ∧ (hartOf t h).priv = (if wb (csr x 0x7B0) 1 0 = 0 then .u else if wb (csr x 0x7B0) 1 0 = 1 then .s else .m))
    ∧ (h < hartCount s → x.run = .halted →
      (∀ n, n < 32 → invasiveOn s x = true →
        (gives (.debugAbstractAccess h (.gpr n none)) s fun t => t = { s with resp := ⟨false, (xr x n).toNat⟩ })
        ∧ ∀ v, gives (.debugAbstractAccess h (.gpr n (some v))) s fun t => hartOf t h = setX x n v ∧ (∀ j, j ≠ h → hartOf t j = hartOf s j) ∧ t = { s with harts := t.harts, resp := {} })
      ∧ (∀ n v, n < 64 → invasiveOn s x = false → gives (.debugAbstractAccess h (.gpr n v)) s fun t => t.resp = ⟨true, 0⟩ ∧ counted s t hub HUB.SEV_CNT.COUNT ∧ t.harts = s.harts
        ∧ (rdF s hub HUB.SEV_INFO.VALID = 0 → rdF t hub HUB.SEV_INFO.KIND = 6))
      ∧ (∀ n, invasiveOn s x = true → (x.priv = .m ∨ bits n 9 8 ≠ 3 ∨ dbgOn s 0 = true) → csrFault (dbgView x) n false = none → iregFault (dbgView x) n = none →
        gives (.debugAbstractAccess h (.csr n none)) s fun t => t = { s with resp := ⟨false, (csrRead s h (dbgView x) n).toNat⟩ })
      ∧ (∀ n v, x.priv ≠ .m → bits n 9 8 = 3 → (n < 0x7B0 ∨ 0x7B3 < n) → dbgOn s 0 = false → gives (.debugAbstractAccess h (.csr n v)) s fun t => t.resp = ⟨true, 0⟩ ∧ t.harts = s.harts
        ∧ counted s t hub HUB.SEV_CNT.COUNT))
    ∧ (∀ pa size sec v, dbgOn s (if sec then 0 else 2) = false → gives (.debugAbstractAccess h (.bus pa size sec v)) s fun t => t.resp = ⟨true, 0⟩ ∧ counted s t hub HUB.SEV_CNT.COUNT ∧ sameMemory s t)
    ∧ (∀ pa size sec v, dbgOn s (if sec then 0 else 2) = true → (size ∉ [1, 2, 4, 8] ∨ pa % size ≠ 0) → gives (.debugAbstractAccess h (.bus pa size sec v)) s fun t => t = { s with resp := ⟨true, 0⟩ })
    ∧ (gives (.debugAbstractAccess h .pcSample) s fun t => t = { s with resp := ⟨false, if h < hartCount s ∧ dbgOn s (if x.priv = .m then 1 else 3) = true then x.lastPc.toNat else 0⟩ })
end

