-- ==== Sys2Proof/Laws/State.lean ====
section
/-! SUPPORT. One lemma per field of the state and named update: what the update leaves as it was. -/
namespace Sys2Proof.Machine
open Sys2Proof


@[simp] theorem wrF_pending (s : State) (b : Blk) (f : Field) (v n k : Nat) : (wrF s b f v n k).pending = s.pending := rfl
@[simp] theorem wrF_free (s : State) (b : Blk) (f : Field) (v n k : Nat) : (wrF s b f v n k).free = s.free := rfl
@[simp] theorem wrF_gtime (s : State) (b : Blk) (f : Field) (v n k : Nat) : (wrF s b f v n k).gtime = s.gtime := rfl
@[simp] theorem wrF_variant (s : State) (b : Blk) (f : Field) (v n k : Nat) : (wrF s b f v n k).variant = s.variant := rfl
@[simp] theorem wrF_tx (s : State) (b : Blk) (f : Field) (v n k : Nat) : (wrF s b f v n k).tx = s.tx := rfl
@[simp] theorem wrF_lbq (s : State) (b : Blk) (f : Field) (v n k : Nat) : (wrF s b f v n k).lbq = s.lbq := rfl
@[simp] theorem wrF_lbDrop (s : State) (b : Blk) (f : Field) (v n k : Nat) : (wrF s b f v n k).lbDrop = s.lbDrop := rfl
@[simp] theorem wrF_life (s : State) (b : Blk) (f : Field) (v n k : Nat) : (wrF s b f v n k).life = s.life := rfl
@[simp] theorem wrF_doms (s : State) (b : Blk) (f : Field) (v n k : Nat) : (wrF s b f v n k).doms = s.doms := rfl
@[simp] theorem wrF_shadow (s : State) (b : Blk) (f : Field) (v n k : Nat) : (wrF s b f v n k).shadow = s.shadow := rfl
@[simp] theorem wrF_hdrs (s : State) (b : Blk) (f : Field) (v n k : Nat) : (wrF s b f v n k).hdrs = s.hdrs := rfl
@[simp] theorem wrF_resp (s : State) (b : Blk) (f : Field) (v n k : Nat) : (wrF s b f v n k).resp = s.resp := rfl
@[simp] theorem wrF_irqs (s : State) (b : Blk) (f : Field) (v n k : Nat) : (wrF s b f v n k).irqs = s.irqs := rfl
@[simp] theorem wrF_wires (s : State) (b : Blk) (f : Field) (v n k : Nat) : (wrF s b f v n k).wires = s.wires := rfl
@[simp] theorem wrF_dies (s : State) (b : Blk) (f : Field) (v n k : Nat) : (wrF s b f v n k).dies = s.dies := rfl
@[simp] theorem wrF_harts (s : State) (b : Blk) (f : Field) (v n k : Nat) : (wrF s b f v n k).harts = s.harts := rfl
@[simp] theorem wrF_l2 (s : State) (b : Blk) (f : Field) (v n k : Nat) : (wrF s b f v n k).l2 = s.l2 := rfl
@[simp] theorem wrF_l3 (s : State) (b : Blk) (f : Field) (v n k : Nat) : (wrF s b f v n k).l3 = s.l3 := rfl
@[simp] theorem wrF_dram (s : State) (b : Blk) (f : Field) (v n k : Nat) : (wrF s b f v n k).dram = s.dram := rfl
@[simp] theorem wrF_poison (s : State) (b : Blk) (f : Field) (v n k : Nat) : (wrF s b f v n k).poison = s.poison := rfl
@[simp] theorem wrF_lstore (s : State) (b : Blk) (f : Field) (v n k : Nat) : (wrF s b f v n k).lstore = s.lstore := rfl
@[simp] theorem wrF_lsBad (s : State) (b : Blk) (f : Field) (v n k : Nat) : (wrF s b f v n k).lsBad = s.lsBad := rfl
@[simp] theorem wrF_hbmOn (s : State) (b : Blk) (f : Field) (v n k : Nat) : (wrF s b f v n k).hbmOn = s.hbmOn := rfl
@[simp] theorem wrF_ddrExp (s : State) (b : Blk) (f : Field) (v n k : Nat) : (wrF s b f v n k).ddrExp = s.ddrExp := rfl
@[simp] theorem wrF_sregs (s : State) (b : Blk) (f : Field) (v n k : Nat) : (wrF s b f v n k).sregs = s.sregs := rfl
@[simp] theorem wrF_sregPrev (s : State) (b : Blk) (f : Field) (v n k : Nat) : (wrF s b f v n k).sregPrev = s.sregPrev := rfl
@[simp] theorem wrF_snps (s : State) (b : Blk) (f : Field) (v n k : Nat) : (wrF s b f v n k).snps = s.snps := rfl
@[simp] theorem wrF_rsps (s : State) (b : Blk) (f : Field) (v n k : Nat) : (wrF s b f v n k).rsps = s.rsps := rfl
@[simp] theorem wrF_wbs (s : State) (b : Blk) (f : Field) (v n k : Nat) : (wrF s b f v n k).wbs = s.wbs := rfl
@[simp] theorem wrF_retries (s : State) (b : Blk) (f : Field) (v n k : Nat) : (wrF s b f v n k).retries = s.retries := rfl
@[simp] theorem wrF_pendq (s : State) (b : Blk) (f : Field) (v n k : Nat) : (wrF s b f v n k).pendq = s.pendq := rfl
@[simp] theorem wrF_iot (s : State) (b : Blk) (f : Field) (v n k : Nat) : (wrF s b f v n k).iot = s.iot := rfl
@[simp] theorem wrF_ioGen (s : State) (b : Blk) (f : Field) (v n k : Nat) : (wrF s b f v n k).ioGen = s.ioGen := rfl
@[simp] theorem wrF_probes (s : State) (b : Blk) (f : Field) (v n k : Nat) : (wrF s b f v n k).probes = s.probes := rfl
@[simp] theorem wrF_chkBusy (s : State) (b : Blk) (f : Field) (v n k : Nat) : (wrF s b f v n k).chkBusy = s.chkBusy := rfl
@[simp] theorem wrF_wd (s : State) (b : Blk) (f : Field) (v n k : Nat) : (wrF s b f v n k).wd = s.wd := rfl
@[simp] theorem wrF_bw (s : State) (b : Blk) (f : Field) (v n k : Nat) : (wrF s b f v n k).bw = s.bw := rfl
@[simp] theorem wrF_scan (s : State) (b : Blk) (f : Field) (v n k : Nat) : (wrF s b f v n k).scan = s.scan := rfl
@[simp] theorem wrF_spl (s : State) (b : Blk) (f : Field) (v n k : Nat) : (wrF s b f v n k).spl = s.spl := rfl
@[simp] theorem wrF_bar (s : State) (b : Blk) (f : Field) (v n k : Nat) : (wrF s b f v n k).bar = s.bar := rfl
@[simp] theorem wrF_fld (s : State) (b : Blk) (f : Field) (v n k : Nat) : (wrF s b f v n k).fld = s.fld := rfl
@[simp] theorem wrF_cl (s : State) (b : Blk) (f : Field) (v n k : Nat) : (wrF s b f v n k).cl = s.cl := rfl
@[simp] theorem wrF_io (s : State) (b : Blk) (f : Field) (v n k : Nat) : (wrF s b f v n k).io = s.io := rfl
@[simp] theorem wrF_recal (s : State) (b : Blk) (f : Field) (v n k : Nat) : (wrF s b f v n k).recal = s.recal := rfl
@[simp] theorem wrF_scrubs (s : State) (b : Blk) (f : Field) (v n k : Nat) : (wrF s b f v n k).scrubs = s.scrubs := rfl
@[simp] theorem wrF_fill (s : State) (b : Blk) (f : Field) (v n k : Nat) : (wrF s b f v n k).fill = s.fill := rfl
@[simp] theorem wrF_profile (s : State) (b : Blk) (f : Field) (v n k : Nat) : (wrF s b f v n k).profile = s.profile := rfl
@[simp] theorem wrF_dvfs (s : State) (b : Blk) (f : Field) (v n k : Nat) : (wrF s b f v n k).dvfs = s.dvfs := rfl

@[simp] theorem addF_pending (s : State) (b : Blk) (f : Field) (v n k : Nat) : (addF s b f v n k).pending = s.pending := rfl
@[simp] theorem addF_free (s : State) (b : Blk) (f : Field) (v n k : Nat) : (addF s b f v n k).free = s.free := rfl
@[simp] theorem addF_gtime (s : State) (b : Blk) (f : Field) (v n k : Nat) : (addF s b f v n k).gtime = s.gtime := rfl
@[simp] theorem addF_variant (s : State) (b : Blk) (f : Field) (v n k : Nat) : (addF s b f v n k).variant = s.variant := rfl
@[simp] theorem addF_tx (s : State) (b : Blk) (f : Field) (v n k : Nat) : (addF s b f v n k).tx = s.tx := rfl
@[simp] theorem addF_lbq (s : State) (b : Blk) (f : Field) (v n k : Nat) : (addF s b f v n k).lbq = s.lbq := rfl
@[simp] theorem addF_lbDrop (s : State) (b : Blk) (f : Field) (v n k : Nat) : (addF s b f v n k).lbDrop = s.lbDrop := rfl
@[simp] theorem addF_life (s : State) (b : Blk) (f : Field) (v n k : Nat) : (addF s b f v n k).life = s.life := rfl
@[simp] theorem addF_doms (s : State) (b : Blk) (f : Field) (v n k : Nat) : (addF s b f v n k).doms = s.doms := rfl
@[simp] theorem addF_shadow (s : State) (b : Blk) (f : Field) (v n k : Nat) : (addF s b f v n k).shadow = s.shadow := rfl
@[simp] theorem addF_hdrs (s : State) (b : Blk) (f : Field) (v n k : Nat) : (addF s b f v n k).hdrs = s.hdrs := rfl
@[simp] theorem addF_resp (s : State) (b : Blk) (f : Field) (v n k : Nat) : (addF s b f v n k).resp = s.resp := rfl
@[simp] theorem addF_irqs (s : State) (b : Blk) (f : Field) (v n k : Nat) : (addF s b f v n k).irqs = s.irqs := rfl
@[simp] theorem addF_wires (s : State) (b : Blk) (f : Field) (v n k : Nat) : (addF s b f v n k).wires = s.wires := rfl
@[simp] theorem addF_dies (s : State) (b : Blk) (f : Field) (v n k : Nat) : (addF s b f v n k).dies = s.dies := rfl
@[simp] theorem addF_harts (s : State) (b : Blk) (f : Field) (v n k : Nat) : (addF s b f v n k).harts = s.harts := rfl
@[simp] theorem addF_l2 (s : State) (b : Blk) (f : Field) (v n k : Nat) : (addF s b f v n k).l2 = s.l2 := rfl
@[simp] theorem addF_l3 (s : State) (b : Blk) (f : Field) (v n k : Nat) : (addF s b f v n k).l3 = s.l3 := rfl
@[simp] theorem addF_dram (s : State) (b : Blk) (f : Field) (v n k : Nat) : (addF s b f v n k).dram = s.dram := rfl
@[simp] theorem addF_poison (s : State) (b : Blk) (f : Field) (v n k : Nat) : (addF s b f v n k).poison = s.poison := rfl
@[simp] theorem addF_lstore (s : State) (b : Blk) (f : Field) (v n k : Nat) : (addF s b f v n k).lstore = s.lstore := rfl
@[simp] theorem addF_lsBad (s : State) (b : Blk) (f : Field) (v n k : Nat) : (addF s b f v n k).lsBad = s.lsBad := rfl
@[simp] theorem addF_hbmOn (s : State) (b : Blk) (f : Field) (v n k : Nat) : (addF s b f v n k).hbmOn = s.hbmOn := rfl
@[simp] theorem addF_ddrExp (s : State) (b : Blk) (f : Field) (v n k : Nat) : (addF s b f v n k).ddrExp = s.ddrExp := rfl
@[simp] theorem addF_sregs (s : State) (b : Blk) (f : Field) (v n k : Nat) : (addF s b f v n k).sregs = s.sregs := rfl
@[simp] theorem addF_sregPrev (s : State) (b : Blk) (f : Field) (v n k : Nat) : (addF s b f v n k).sregPrev = s.sregPrev := rfl
@[simp] theorem addF_snps (s : State) (b : Blk) (f : Field) (v n k : Nat) : (addF s b f v n k).snps = s.snps := rfl
@[simp] theorem addF_rsps (s : State) (b : Blk) (f : Field) (v n k : Nat) : (addF s b f v n k).rsps = s.rsps := rfl
@[simp] theorem addF_wbs (s : State) (b : Blk) (f : Field) (v n k : Nat) : (addF s b f v n k).wbs = s.wbs := rfl
@[simp] theorem addF_retries (s : State) (b : Blk) (f : Field) (v n k : Nat) : (addF s b f v n k).retries = s.retries := rfl
@[simp] theorem addF_pendq (s : State) (b : Blk) (f : Field) (v n k : Nat) : (addF s b f v n k).pendq = s.pendq := rfl
@[simp] theorem addF_iot (s : State) (b : Blk) (f : Field) (v n k : Nat) : (addF s b f v n k).iot = s.iot := rfl
@[simp] theorem addF_ioGen (s : State) (b : Blk) (f : Field) (v n k : Nat) : (addF s b f v n k).ioGen = s.ioGen := rfl
@[simp] theorem addF_probes (s : State) (b : Blk) (f : Field) (v n k : Nat) : (addF s b f v n k).probes = s.probes := rfl
@[simp] theorem addF_chkBusy (s : State) (b : Blk) (f : Field) (v n k : Nat) : (addF s b f v n k).chkBusy = s.chkBusy := rfl
@[simp] theorem addF_wd (s : State) (b : Blk) (f : Field) (v n k : Nat) : (addF s b f v n k).wd = s.wd := rfl
@[simp] theorem addF_bw (s : State) (b : Blk) (f : Field) (v n k : Nat) : (addF s b f v n k).bw = s.bw := rfl
@[simp] theorem addF_scan (s : State) (b : Blk) (f : Field) (v n k : Nat) : (addF s b f v n k).scan = s.scan := rfl
@[simp] theorem addF_spl (s : State) (b : Blk) (f : Field) (v n k : Nat) : (addF s b f v n k).spl = s.spl := rfl
@[simp] theorem addF_bar (s : State) (b : Blk) (f : Field) (v n k : Nat) : (addF s b f v n k).bar = s.bar := rfl
@[simp] theorem addF_fld (s : State) (b : Blk) (f : Field) (v n k : Nat) : (addF s b f v n k).fld = s.fld := rfl
@[simp] theorem addF_cl (s : State) (b : Blk) (f : Field) (v n k : Nat) : (addF s b f v n k).cl = s.cl := rfl
@[simp] theorem addF_io (s : State) (b : Blk) (f : Field) (v n k : Nat) : (addF s b f v n k).io = s.io := rfl
@[simp] theorem addF_recal (s : State) (b : Blk) (f : Field) (v n k : Nat) : (addF s b f v n k).recal = s.recal := rfl
@[simp] theorem addF_scrubs (s : State) (b : Blk) (f : Field) (v n k : Nat) : (addF s b f v n k).scrubs = s.scrubs := rfl
@[simp] theorem addF_fill (s : State) (b : Blk) (f : Field) (v n k : Nat) : (addF s b f v n k).fill = s.fill := rfl
@[simp] theorem addF_profile (s : State) (b : Blk) (f : Field) (v n k : Nat) : (addF s b f v n k).profile = s.profile := rfl
@[simp] theorem addF_dvfs (s : State) (b : Blk) (f : Field) (v n k : Nat) : (addF s b f v n k).dvfs = s.dvfs := rfl

@[simp] theorem setHdr_pending (s : State) (b : Blk) (x : Hdr) : (setHdr s b x).pending = s.pending := rfl
@[simp] theorem setHdr_free (s : State) (b : Blk) (x : Hdr) : (setHdr s b x).free = s.free := rfl
@[simp] theorem setHdr_gtime (s : State) (b : Blk) (x : Hdr) : (setHdr s b x).gtime = s.gtime := rfl
@[simp] theorem setHdr_variant (s : State) (b : Blk) (x : Hdr) : (setHdr s b x).variant = s.variant := rfl
@[simp] theorem setHdr_tx (s : State) (b : Blk) (x : Hdr) : (setHdr s b x).tx = s.tx := rfl
@[simp] theorem setHdr_lbq (s : State) (b : Blk) (x : Hdr) : (setHdr s b x).lbq = s.lbq := rfl
@[simp] theorem setHdr_lbDrop (s : State) (b : Blk) (x : Hdr) : (setHdr s b x).lbDrop = s.lbDrop := rfl
@[simp] theorem setHdr_life (s : State) (b : Blk) (x : Hdr) : (setHdr s b x).life = s.life := rfl
@[simp] theorem setHdr_doms (s : State) (b : Blk) (x : Hdr) : (setHdr s b x).doms = s.doms := rfl
@[simp] theorem setHdr_fields (s : State) (b : Blk) (x : Hdr) : (setHdr s b x).fields = s.fields := rfl
@[simp] theorem setHdr_shadow (s : State) (b : Blk) (x : Hdr) : (setHdr s b x).shadow = s.shadow := rfl
@[simp] theorem setHdr_resp (s : State) (b : Blk) (x : Hdr) : (setHdr s b x).resp = s.resp := rfl
@[simp] theorem setHdr_irqs (s : State) (b : Blk) (x : Hdr) : (setHdr s b x).irqs = s.irqs := rfl
@[simp] theorem setHdr_wires (s : State) (b : Blk) (x : Hdr) : (setHdr s b x).wires = s.wires := rfl
@[simp] theorem setHdr_dies (s : State) (b : Blk) (x : Hdr) : (setHdr s b x).dies = s.dies := rfl
@[simp] theorem setHdr_harts (s : State) (b : Blk) (x : Hdr) : (setHdr s b x).harts = s.harts := rfl
@[simp] theorem setHdr_l2 (s : State) (b : Blk) (x : Hdr) : (setHdr s b x).l2 = s.l2 := rfl
@[simp] theorem setHdr_l3 (s : State) (b : Blk) (x : Hdr) : (setHdr s b x).l3 = s.l3 := rfl
@[simp] theorem setHdr_dram (s : State) (b : Blk) (x : Hdr) : (setHdr s b x).dram = s.dram := rfl
@[simp] theorem setHdr_poison (s : State) (b : Blk) (x : Hdr) : (setHdr s b x).poison = s.poison := rfl
@[simp] theorem setHdr_lstore (s : State) (b : Blk) (x : Hdr) : (setHdr s b x).lstore = s.lstore := rfl
@[simp] theorem setHdr_lsBad (s : State) (b : Blk) (x : Hdr) : (setHdr s b x).lsBad = s.lsBad := rfl
@[simp] theorem setHdr_hbmOn (s : State) (b : Blk) (x : Hdr) : (setHdr s b x).hbmOn = s.hbmOn := rfl
@[simp] theorem setHdr_ddrExp (s : State) (b : Blk) (x : Hdr) : (setHdr s b x).ddrExp = s.ddrExp := rfl
@[simp] theorem setHdr_sregs (s : State) (b : Blk) (x : Hdr) : (setHdr s b x).sregs = s.sregs := rfl
@[simp] theorem setHdr_sregPrev (s : State) (b : Blk) (x : Hdr) : (setHdr s b x).sregPrev = s.sregPrev := rfl
@[simp] theorem setHdr_snps (s : State) (b : Blk) (x : Hdr) : (setHdr s b x).snps = s.snps := rfl
@[simp] theorem setHdr_rsps (s : State) (b : Blk) (x : Hdr) : (setHdr s b x).rsps = s.rsps := rfl
@[simp] theorem setHdr_wbs (s : State) (b : Blk) (x : Hdr) : (setHdr s b x).wbs = s.wbs := rfl
@[simp] theorem setHdr_retries (s : State) (b : Blk) (x : Hdr) : (setHdr s b x).retries = s.retries := rfl
@[simp] theorem setHdr_pendq (s : State) (b : Blk) (x : Hdr) : (setHdr s b x).pendq = s.pendq := rfl
@[simp] theorem setHdr_iot (s : State) (b : Blk) (x : Hdr) : (setHdr s b x).iot = s.iot := rfl
@[simp] theorem setHdr_ioGen (s : State) (b : Blk) (x : Hdr) : (setHdr s b x).ioGen = s.ioGen := rfl
@[simp] theorem setHdr_probes (s : State) (b : Blk) (x : Hdr) : (setHdr s b x).probes = s.probes := rfl
@[simp] theorem setHdr_chkBusy (s : State) (b : Blk) (x : Hdr) : (setHdr s b x).chkBusy = s.chkBusy := rfl
@[simp] theorem setHdr_wd (s : State) (b : Blk) (x : Hdr) : (setHdr s b x).wd = s.wd := rfl
@[simp] theorem setHdr_bw (s : State) (b : Blk) (x : Hdr) : (setHdr s b x).bw = s.bw := rfl
@[simp] theorem setHdr_scan (s : State) (b : Blk) (x : Hdr) : (setHdr s b x).scan = s.scan := rfl
@[simp] theorem setHdr_spl (s : State) (b : Blk) (x : Hdr) : (setHdr s b x).spl = s.spl := rfl
@[simp] theorem setHdr_bar (s : State) (b : Blk) (x : Hdr) : (setHdr s b x).bar = s.bar := rfl
@[simp] theorem setHdr_fld (s : State) (b : Blk) (x : Hdr) : (setHdr s b x).fld = s.fld := rfl
@[simp] theorem setHdr_cl (s : State) (b : Blk) (x : Hdr) : (setHdr s b x).cl = s.cl := rfl
@[simp] theorem setHdr_io (s : State) (b : Blk) (x : Hdr) : (setHdr s b x).io = s.io := rfl
@[simp] theorem setHdr_recal (s : State) (b : Blk) (x : Hdr) : (setHdr s b x).recal = s.recal := rfl
@[simp] theorem setHdr_scrubs (s : State) (b : Blk) (x : Hdr) : (setHdr s b x).scrubs = s.scrubs := rfl
@[simp] theorem setHdr_fill (s : State) (b : Blk) (x : Hdr) : (setHdr s b x).fill = s.fill := rfl
@[simp] theorem setHdr_profile (s : State) (b : Blk) (x : Hdr) : (setHdr s b x).profile = s.profile := rfl
@[simp] theorem setHdr_dvfs (s : State) (b : Blk) (x : Hdr) : (setHdr s b x).dvfs = s.dvfs := rfl

@[simp] theorem badWrite_pending (s : State) (b : Blk) : (badWrite s b).pending = s.pending := rfl
@[simp] theorem badWrite_free (s : State) (b : Blk) : (badWrite s b).free = s.free := rfl
@[simp] theorem badWrite_gtime (s : State) (b : Blk) : (badWrite s b).gtime = s.gtime := rfl
@[simp] theorem badWrite_variant (s : State) (b : Blk) : (badWrite s b).variant = s.variant := rfl
@[simp] theorem badWrite_tx (s : State) (b : Blk) : (badWrite s b).tx = s.tx := rfl
@[simp] theorem badWrite_lbq (s : State) (b : Blk) : (badWrite s b).lbq = s.lbq := rfl
@[simp] theorem badWrite_lbDrop (s : State) (b : Blk) : (badWrite s b).lbDrop = s.lbDrop := rfl
@[simp] theorem badWrite_life (s : State) (b : Blk) : (badWrite s b).life = s.life := rfl
@[simp] theorem badWrite_doms (s : State) (b : Blk) : (badWrite s b).doms = s.doms := rfl
@[simp] theorem badWrite_fields (s : State) (b : Blk) : (badWrite s b).fields = s.fields := rfl
@[simp] theorem badWrite_shadow (s : State) (b : Blk) : (badWrite s b).shadow = s.shadow := rfl
@[simp] theorem badWrite_resp (s : State) (b : Blk) : (badWrite s b).resp = s.resp := rfl
@[simp] theorem badWrite_irqs (s : State) (b : Blk) : (badWrite s b).irqs = s.irqs := rfl
@[simp] theorem badWrite_wires (s : State) (b : Blk) : (badWrite s b).wires = s.wires := rfl
@[simp] theorem badWrite_dies (s : State) (b : Blk) : (badWrite s b).dies = s.dies := rfl
@[simp] theorem badWrite_harts (s : State) (b : Blk) : (badWrite s b).harts = s.harts := rfl
@[simp] theorem badWrite_l2 (s : State) (b : Blk) : (badWrite s b).l2 = s.l2 := rfl
@[simp] theorem badWrite_l3 (s : State) (b : Blk) : (badWrite s b).l3 = s.l3 := rfl
@[simp] theorem badWrite_dram (s : State) (b : Blk) : (badWrite s b).dram = s.dram := rfl
@[simp] theorem badWrite_poison (s : State) (b : Blk) : (badWrite s b).poison = s.poison := rfl
@[simp] theorem badWrite_lstore (s : State) (b : Blk) : (badWrite s b).lstore = s.lstore := rfl
@[simp] theorem badWrite_lsBad (s : State) (b : Blk) : (badWrite s b).lsBad = s.lsBad := rfl
@[simp] theorem badWrite_hbmOn (s : State) (b : Blk) : (badWrite s b).hbmOn = s.hbmOn := rfl
@[simp] theorem badWrite_ddrExp (s : State) (b : Blk) : (badWrite s b).ddrExp = s.ddrExp := rfl
@[simp] theorem badWrite_sregs (s : State) (b : Blk) : (badWrite s b).sregs = s.sregs := rfl
@[simp] theorem badWrite_sregPrev (s : State) (b : Blk) : (badWrite s b).sregPrev = s.sregPrev := rfl
@[simp] theorem badWrite_snps (s : State) (b : Blk) : (badWrite s b).snps = s.snps := rfl
@[simp] theorem badWrite_rsps (s : State) (b : Blk) : (badWrite s b).rsps = s.rsps := rfl
@[simp] theorem badWrite_wbs (s : State) (b : Blk) : (badWrite s b).wbs = s.wbs := rfl
@[simp] theorem badWrite_retries (s : State) (b : Blk) : (badWrite s b).retries = s.retries := rfl
@[simp] theorem badWrite_pendq (s : State) (b : Blk) : (badWrite s b).pendq = s.pendq := rfl
@[simp] theorem badWrite_iot (s : State) (b : Blk) : (badWrite s b).iot = s.iot := rfl
@[simp] theorem badWrite_ioGen (s : State) (b : Blk) : (badWrite s b).ioGen = s.ioGen := rfl
@[simp] theorem badWrite_probes (s : State) (b : Blk) : (badWrite s b).probes = s.probes := rfl
@[simp] theorem badWrite_chkBusy (s : State) (b : Blk) : (badWrite s b).chkBusy = s.chkBusy := rfl
@[simp] theorem badWrite_wd (s : State) (b : Blk) : (badWrite s b).wd = s.wd := rfl
@[simp] theorem badWrite_bw (s : State) (b : Blk) : (badWrite s b).bw = s.bw := rfl
@[simp] theorem badWrite_scan (s : State) (b : Blk) : (badWrite s b).scan = s.scan := rfl
@[simp] theorem badWrite_spl (s : State) (b : Blk) : (badWrite s b).spl = s.spl := rfl
@[simp] theorem badWrite_bar (s : State) (b : Blk) : (badWrite s b).bar = s.bar := rfl
@[simp] theorem badWrite_fld (s : State) (b : Blk) : (badWrite s b).fld = s.fld := rfl
@[simp] theorem badWrite_cl (s : State) (b : Blk) : (badWrite s b).cl = s.cl := rfl
@[simp] theorem badWrite_io (s : State) (b : Blk) : (badWrite s b).io = s.io := rfl
@[simp] theorem badWrite_recal (s : State) (b : Blk) : (badWrite s b).recal = s.recal := rfl
@[simp] theorem badWrite_scrubs (s : State) (b : Blk) : (badWrite s b).scrubs = s.scrubs := rfl
@[simp] theorem badWrite_fill (s : State) (b : Blk) : (badWrite s b).fill = s.fill := rfl
@[simp] theorem badWrite_profile (s : State) (b : Blk) : (badWrite s b).profile = s.profile := rfl
@[simp] theorem badWrite_dvfs (s : State) (b : Blk) : (badWrite s b).dvfs = s.dvfs := rfl

@[simp] theorem staleAck_pending (s : State) (b : Blk) : (staleAck s b).pending = s.pending := rfl
@[simp] theorem staleAck_free (s : State) (b : Blk) : (staleAck s b).free = s.free := rfl
@[simp] theorem staleAck_gtime (s : State) (b : Blk) : (staleAck s b).gtime = s.gtime := rfl
@[simp] theorem staleAck_variant (s : State) (b : Blk) : (staleAck s b).variant = s.variant := rfl
@[simp] theorem staleAck_tx (s : State) (b : Blk) : (staleAck s b).tx = s.tx := rfl
@[simp] theorem staleAck_lbq (s : State) (b : Blk) : (staleAck s b).lbq = s.lbq := rfl
@[simp] theorem staleAck_lbDrop (s : State) (b : Blk) : (staleAck s b).lbDrop = s.lbDrop := rfl
@[simp] theorem staleAck_life (s : State) (b : Blk) : (staleAck s b).life = s.life := rfl
@[simp] theorem staleAck_doms (s : State) (b : Blk) : (staleAck s b).doms = s.doms := rfl
@[simp] theorem staleAck_fields (s : State) (b : Blk) : (staleAck s b).fields = s.fields := rfl
@[simp] theorem staleAck_shadow (s : State) (b : Blk) : (staleAck s b).shadow = s.shadow := rfl
@[simp] theorem staleAck_resp (s : State) (b : Blk) : (staleAck s b).resp = s.resp := rfl
@[simp] theorem staleAck_irqs (s : State) (b : Blk) : (staleAck s b).irqs = s.irqs := rfl
@[simp] theorem staleAck_wires (s : State) (b : Blk) : (staleAck s b).wires = s.wires := rfl
@[simp] theorem staleAck_dies (s : State) (b : Blk) : (staleAck s b).dies = s.dies := rfl
@[simp] theorem staleAck_harts (s : State) (b : Blk) : (staleAck s b).harts = s.harts := rfl
@[simp] theorem staleAck_l2 (s : State) (b : Blk) : (staleAck s b).l2 = s.l2 := rfl
@[simp] theorem staleAck_l3 (s : State) (b : Blk) : (staleAck s b).l3 = s.l3 := rfl
@[simp] theorem staleAck_dram (s : State) (b : Blk) : (staleAck s b).dram = s.dram := rfl
@[simp] theorem staleAck_poison (s : State) (b : Blk) : (staleAck s b).poison = s.poison := rfl
@[simp] theorem staleAck_lstore (s : State) (b : Blk) : (staleAck s b).lstore = s.lstore := rfl
@[simp] theorem staleAck_lsBad (s : State) (b : Blk) : (staleAck s b).lsBad = s.lsBad := rfl
@[simp] theorem staleAck_hbmOn (s : State) (b : Blk) : (staleAck s b).hbmOn = s.hbmOn := rfl
@[simp] theorem staleAck_ddrExp (s : State) (b : Blk) : (staleAck s b).ddrExp = s.ddrExp := rfl
@[simp] theorem staleAck_sregs (s : State) (b : Blk) : (staleAck s b).sregs = s.sregs := rfl
@[simp] theorem staleAck_sregPrev (s : State) (b : Blk) : (staleAck s b).sregPrev = s.sregPrev := rfl
@[simp] theorem staleAck_snps (s : State) (b : Blk) : (staleAck s b).snps = s.snps := rfl
@[simp] theorem staleAck_rsps (s : State) (b : Blk) : (staleAck s b).rsps = s.rsps := rfl
@[simp] theorem staleAck_wbs (s : State) (b : Blk) : (staleAck s b).wbs = s.wbs := rfl
@[simp] theorem staleAck_retries (s : State) (b : Blk) : (staleAck s b).retries = s.retries := rfl
@[simp] theorem staleAck_pendq (s : State) (b : Blk) : (staleAck s b).pendq = s.pendq := rfl
@[simp] theorem staleAck_iot (s : State) (b : Blk) : (staleAck s b).iot = s.iot := rfl
@[simp] theorem staleAck_ioGen (s : State) (b : Blk) : (staleAck s b).ioGen = s.ioGen := rfl
@[simp] theorem staleAck_probes (s : State) (b : Blk) : (staleAck s b).probes = s.probes := rfl
@[simp] theorem staleAck_chkBusy (s : State) (b : Blk) : (staleAck s b).chkBusy = s.chkBusy := rfl
@[simp] theorem staleAck_wd (s : State) (b : Blk) : (staleAck s b).wd = s.wd := rfl
@[simp] theorem staleAck_bw (s : State) (b : Blk) : (staleAck s b).bw = s.bw := rfl
@[simp] theorem staleAck_scan (s : State) (b : Blk) : (staleAck s b).scan = s.scan := rfl
@[simp] theorem staleAck_spl (s : State) (b : Blk) : (staleAck s b).spl = s.spl := rfl
@[simp] theorem staleAck_bar (s : State) (b : Blk) : (staleAck s b).bar = s.bar := rfl
@[simp] theorem staleAck_fld (s : State) (b : Blk) : (staleAck s b).fld = s.fld := rfl
@[simp] theorem staleAck_cl (s : State) (b : Blk) : (staleAck s b).cl = s.cl := rfl
@[simp] theorem staleAck_io (s : State) (b : Blk) : (staleAck s b).io = s.io := rfl
@[simp] theorem staleAck_recal (s : State) (b : Blk) : (staleAck s b).recal = s.recal := rfl
@[simp] theorem staleAck_scrubs (s : State) (b : Blk) : (staleAck s b).scrubs = s.scrubs := rfl
@[simp] theorem staleAck_fill (s : State) (b : Blk) : (staleAck s b).fill = s.fill := rfl
@[simp] theorem staleAck_profile (s : State) (b : Blk) : (staleAck s b).profile = s.profile := rfl
@[simp] theorem staleAck_dvfs (s : State) (b : Blk) : (staleAck s b).dvfs = s.dvfs := rfl

@[simp] theorem setHart_pending (s : State) (h : Nat) (x : Hart) : (setHart s h x).pending = s.pending := rfl
@[simp] theorem setHart_free (s : State) (h : Nat) (x : Hart) : (setHart s h x).free = s.free := rfl
@[simp] theorem setHart_gtime (s : State) (h : Nat) (x : Hart) : (setHart s h x).gtime = s.gtime := rfl
@[simp] theorem setHart_variant (s : State) (h : Nat) (x : Hart) : (setHart s h x).variant = s.variant := rfl
@[simp] theorem setHart_tx (s : State) (h : Nat) (x : Hart) : (setHart s h x).tx = s.tx := rfl
@[simp] theorem setHart_lbq (s : State) (h : Nat) (x : Hart) : (setHart s h x).lbq = s.lbq := rfl
@[simp] theorem setHart_lbDrop (s : State) (h : Nat) (x : Hart) : (setHart s h x).lbDrop = s.lbDrop := rfl
@[simp] theorem setHart_life (s : State) (h : Nat) (x : Hart) : (setHart s h x).life = s.life := rfl
@[simp] theorem setHart_doms (s : State) (h : Nat) (x : Hart) : (setHart s h x).doms = s.doms := rfl
@[simp] theorem setHart_fields (s : State) (h : Nat) (x : Hart) : (setHart s h x).fields = s.fields := rfl
@[simp] theorem setHart_shadow (s : State) (h : Nat) (x : Hart) : (setHart s h x).shadow = s.shadow := rfl
@[simp] theorem setHart_hdrs (s : State) (h : Nat) (x : Hart) : (setHart s h x).hdrs = s.hdrs := rfl
@[simp] theorem setHart_resp (s : State) (h : Nat) (x : Hart) : (setHart s h x).resp = s.resp := rfl
@[simp] theorem setHart_irqs (s : State) (h : Nat) (x : Hart) : (setHart s h x).irqs = s.irqs := rfl
@[simp] theorem setHart_wires (s : State) (h : Nat) (x : Hart) : (setHart s h x).wires = s.wires := rfl
@[simp] theorem setHart_dies (s : State) (h : Nat) (x : Hart) : (setHart s h x).dies = s.dies := rfl
@[simp] theorem setHart_l2 (s : State) (h : Nat) (x : Hart) : (setHart s h x).l2 = s.l2 := rfl
@[simp] theorem setHart_l3 (s : State) (h : Nat) (x : Hart) : (setHart s h x).l3 = s.l3 := rfl
@[simp] theorem setHart_dram (s : State) (h : Nat) (x : Hart) : (setHart s h x).dram = s.dram := rfl
@[simp] theorem setHart_poison (s : State) (h : Nat) (x : Hart) : (setHart s h x).poison = s.poison := rfl
@[simp] theorem setHart_lstore (s : State) (h : Nat) (x : Hart) : (setHart s h x).lstore = s.lstore := rfl
@[simp] theorem setHart_lsBad (s : State) (h : Nat) (x : Hart) : (setHart s h x).lsBad = s.lsBad := rfl
@[simp] theorem setHart_hbmOn (s : State) (h : Nat) (x : Hart) : (setHart s h x).hbmOn = s.hbmOn := rfl
@[simp] theorem setHart_ddrExp (s : State) (h : Nat) (x : Hart) : (setHart s h x).ddrExp = s.ddrExp := rfl
@[simp] theorem setHart_sregs (s : State) (h : Nat) (x : Hart) : (setHart s h x).sregs = s.sregs := rfl
@[simp] theorem setHart_sregPrev (s : State) (h : Nat) (x : Hart) : (setHart s h x).sregPrev = s.sregPrev := rfl
@[simp] theorem setHart_snps (s : State) (h : Nat) (x : Hart) : (setHart s h x).snps = s.snps := rfl
@[simp] theorem setHart_rsps (s : State) (h : Nat) (x : Hart) : (setHart s h x).rsps = s.rsps := rfl
@[simp] theorem setHart_wbs (s : State) (h : Nat) (x : Hart) : (setHart s h x).wbs = s.wbs := rfl
@[simp] theorem setHart_retries (s : State) (h : Nat) (x : Hart) : (setHart s h x).retries = s.retries := rfl
@[simp] theorem setHart_pendq (s : State) (h : Nat) (x : Hart) : (setHart s h x).pendq = s.pendq := rfl
@[simp] theorem setHart_iot (s : State) (h : Nat) (x : Hart) : (setHart s h x).iot = s.iot := rfl
@[simp] theorem setHart_ioGen (s : State) (h : Nat) (x : Hart) : (setHart s h x).ioGen = s.ioGen := rfl
@[simp] theorem setHart_probes (s : State) (h : Nat) (x : Hart) : (setHart s h x).probes = s.probes := rfl
@[simp] theorem setHart_chkBusy (s : State) (h : Nat) (x : Hart) : (setHart s h x).chkBusy = s.chkBusy := rfl
@[simp] theorem setHart_wd (s : State) (h : Nat) (x : Hart) : (setHart s h x).wd = s.wd := rfl
@[simp] theorem setHart_bw (s : State) (h : Nat) (x : Hart) : (setHart s h x).bw = s.bw := rfl
@[simp] theorem setHart_scan (s : State) (h : Nat) (x : Hart) : (setHart s h x).scan = s.scan := rfl
@[simp] theorem setHart_spl (s : State) (h : Nat) (x : Hart) : (setHart s h x).spl = s.spl := rfl
@[simp] theorem setHart_bar (s : State) (h : Nat) (x : Hart) : (setHart s h x).bar = s.bar := rfl
@[simp] theorem setHart_fld (s : State) (h : Nat) (x : Hart) : (setHart s h x).fld = s.fld := rfl
@[simp] theorem setHart_cl (s : State) (h : Nat) (x : Hart) : (setHart s h x).cl = s.cl := rfl
@[simp] theorem setHart_io (s : State) (h : Nat) (x : Hart) : (setHart s h x).io = s.io := rfl
@[simp] theorem setHart_recal (s : State) (h : Nat) (x : Hart) : (setHart s h x).recal = s.recal := rfl
@[simp] theorem setHart_scrubs (s : State) (h : Nat) (x : Hart) : (setHart s h x).scrubs = s.scrubs := rfl
@[simp] theorem setHart_fill (s : State) (h : Nat) (x : Hart) : (setHart s h x).fill = s.fill := rfl
@[simp] theorem setHart_profile (s : State) (h : Nat) (x : Hart) : (setHart s h x).profile = s.profile := rfl
@[simp] theorem setHart_dvfs (s : State) (h : Nat) (x : Hart) : (setHart s h x).dvfs = s.dvfs := rfl

@[simp] theorem respond_pending (s : State) (v : Nat) (e : Bool) : (respond s v e).pending = s.pending := rfl
@[simp] theorem respond_free (s : State) (v : Nat) (e : Bool) : (respond s v e).free = s.free := rfl
@[simp] theorem respond_gtime (s : State) (v : Nat) (e : Bool) : (respond s v e).gtime = s.gtime := rfl
@[simp] theorem respond_variant (s : State) (v : Nat) (e : Bool) : (respond s v e).variant = s.variant := rfl
@[simp] theorem respond_tx (s : State) (v : Nat) (e : Bool) : (respond s v e).tx = s.tx := rfl
@[simp] theorem respond_lbq (s : State) (v : Nat) (e : Bool) : (respond s v e).lbq = s.lbq := rfl
@[simp] theorem respond_lbDrop (s : State) (v : Nat) (e : Bool) : (respond s v e).lbDrop = s.lbDrop := rfl
@[simp] theorem respond_life (s : State) (v : Nat) (e : Bool) : (respond s v e).life = s.life := rfl
@[simp] theorem respond_doms (s : State) (v : Nat) (e : Bool) : (respond s v e).doms = s.doms := rfl
@[simp] theorem respond_fields (s : State) (v : Nat) (e : Bool) : (respond s v e).fields = s.fields := rfl
@[simp] theorem respond_shadow (s : State) (v : Nat) (e : Bool) : (respond s v e).shadow = s.shadow := rfl
@[simp] theorem respond_hdrs (s : State) (v : Nat) (e : Bool) : (respond s v e).hdrs = s.hdrs := rfl
@[simp] theorem respond_irqs (s : State) (v : Nat) (e : Bool) : (respond s v e).irqs = s.irqs := rfl
@[simp] theorem respond_wires (s : State) (v : Nat) (e : Bool) : (respond s v e).wires = s.wires := rfl
@[simp] theorem respond_dies (s : State) (v : Nat) (e : Bool) : (respond s v e).dies = s.dies := rfl
@[simp] theorem respond_harts (s : State) (v : Nat) (e : Bool) : (respond s v e).harts = s.harts := rfl
@[simp] theorem respond_l2 (s : State) (v : Nat) (e : Bool) : (respond s v e).l2 = s.l2 := rfl
@[simp] theorem respond_l3 (s : State) (v : Nat) (e : Bool) : (respond s v e).l3 = s.l3 := rfl
@[simp] theorem respond_dram (s : State) (v : Nat) (e : Bool) : (respond s v e).dram = s.dram := rfl
@[simp] theorem respond_poison (s : State) (v : Nat) (e : Bool) : (respond s v e).poison = s.poison := rfl
@[simp] theorem respond_lstore (s : State) (v : Nat) (e : Bool) : (respond s v e).lstore = s.lstore := rfl
@[simp] theorem respond_lsBad (s : State) (v : Nat) (e : Bool) : (respond s v e).lsBad = s.lsBad := rfl
@[simp] theorem respond_hbmOn (s : State) (v : Nat) (e : Bool) : (respond s v e).hbmOn = s.hbmOn := rfl
@[simp] theorem respond_ddrExp (s : State) (v : Nat) (e : Bool) : (respond s v e).ddrExp = s.ddrExp := rfl
@[simp] theorem respond_sregs (s : State) (v : Nat) (e : Bool) : (respond s v e).sregs = s.sregs := rfl
@[simp] theorem respond_sregPrev (s : State) (v : Nat) (e : Bool) : (respond s v e).sregPrev = s.sregPrev := rfl
@[simp] theorem respond_snps (s : State) (v : Nat) (e : Bool) : (respond s v e).snps = s.snps := rfl
@[simp] theorem respond_rsps (s : State) (v : Nat) (e : Bool) : (respond s v e).rsps = s.rsps := rfl
@[simp] theorem respond_wbs (s : State) (v : Nat) (e : Bool) : (respond s v e).wbs = s.wbs := rfl
@[simp] theorem respond_retries (s : State) (v : Nat) (e : Bool) : (respond s v e).retries = s.retries := rfl
@[simp] theorem respond_pendq (s : State) (v : Nat) (e : Bool) : (respond s v e).pendq = s.pendq := rfl
@[simp] theorem respond_iot (s : State) (v : Nat) (e : Bool) : (respond s v e).iot = s.iot := rfl
@[simp] theorem respond_ioGen (s : State) (v : Nat) (e : Bool) : (respond s v e).ioGen = s.ioGen := rfl
@[simp] theorem respond_probes (s : State) (v : Nat) (e : Bool) : (respond s v e).probes = s.probes := rfl
@[simp] theorem respond_chkBusy (s : State) (v : Nat) (e : Bool) : (respond s v e).chkBusy = s.chkBusy := rfl
@[simp] theorem respond_wd (s : State) (v : Nat) (e : Bool) : (respond s v e).wd = s.wd := rfl
@[simp] theorem respond_bw (s : State) (v : Nat) (e : Bool) : (respond s v e).bw = s.bw := rfl
@[simp] theorem respond_scan (s : State) (v : Nat) (e : Bool) : (respond s v e).scan = s.scan := rfl
@[simp] theorem respond_spl (s : State) (v : Nat) (e : Bool) : (respond s v e).spl = s.spl := rfl
@[simp] theorem respond_bar (s : State) (v : Nat) (e : Bool) : (respond s v e).bar = s.bar := rfl
@[simp] theorem respond_fld (s : State) (v : Nat) (e : Bool) : (respond s v e).fld = s.fld := rfl
@[simp] theorem respond_cl (s : State) (v : Nat) (e : Bool) : (respond s v e).cl = s.cl := rfl
@[simp] theorem respond_io (s : State) (v : Nat) (e : Bool) : (respond s v e).io = s.io := rfl
@[simp] theorem respond_recal (s : State) (v : Nat) (e : Bool) : (respond s v e).recal = s.recal := rfl
@[simp] theorem respond_scrubs (s : State) (v : Nat) (e : Bool) : (respond s v e).scrubs = s.scrubs := rfl
@[simp] theorem respond_fill (s : State) (v : Nat) (e : Bool) : (respond s v e).fill = s.fill := rfl
@[simp] theorem respond_profile (s : State) (v : Nat) (e : Bool) : (respond s v e).profile = s.profile := rfl
@[simp] theorem respond_dvfs (s : State) (v : Nat) (e : Bool) : (respond s v e).dvfs = s.dvfs := rfl

@[simp] theorem send_pending (s : State) (d : TxTo) (k : Nat) (a : List Nat) : (send s d k a).pending = s.pending := rfl
@[simp] theorem send_free (s : State) (d : TxTo) (k : Nat) (a : List Nat) : (send s d k a).free = s.free := rfl
@[simp] theorem send_gtime (s : State) (d : TxTo) (k : Nat) (a : List Nat) : (send s d k a).gtime = s.gtime := rfl
@[simp] theorem send_variant (s : State) (d : TxTo) (k : Nat) (a : List Nat) : (send s d k a).variant = s.variant := rfl
@[simp] theorem send_lbq (s : State) (d : TxTo) (k : Nat) (a : List Nat) : (send s d k a).lbq = s.lbq := rfl
@[simp] theorem send_lbDrop (s : State) (d : TxTo) (k : Nat) (a : List Nat) : (send s d k a).lbDrop = s.lbDrop := rfl
@[simp] theorem send_life (s : State) (d : TxTo) (k : Nat) (a : List Nat) : (send s d k a).life = s.life := rfl
@[simp] theorem send_doms (s : State) (d : TxTo) (k : Nat) (a : List Nat) : (send s d k a).doms = s.doms := rfl
@[simp] theorem send_fields (s : State) (d : TxTo) (k : Nat) (a : List Nat) : (send s d k a).fields = s.fields := rfl
@[simp] theorem send_shadow (s : State) (d : TxTo) (k : Nat) (a : List Nat) : (send s d k a).shadow = s.shadow := rfl
@[simp] theorem send_hdrs (s : State) (d : TxTo) (k : Nat) (a : List Nat) : (send s d k a).hdrs = s.hdrs := rfl
@[simp] theorem send_resp (s : State) (d : TxTo) (k : Nat) (a : List Nat) : (send s d k a).resp = s.resp := rfl
@[simp] theorem send_irqs (s : State) (d : TxTo) (k : Nat) (a : List Nat) : (send s d k a).irqs = s.irqs := rfl
@[simp] theorem send_wires (s : State) (d : TxTo) (k : Nat) (a : List Nat) : (send s d k a).wires = s.wires := rfl
@[simp] theorem send_dies (s : State) (d : TxTo) (k : Nat) (a : List Nat) : (send s d k a).dies = s.dies := rfl
@[simp] theorem send_harts (s : State) (d : TxTo) (k : Nat) (a : List Nat) : (send s d k a).harts = s.harts := rfl
@[simp] theorem send_l2 (s : State) (d : TxTo) (k : Nat) (a : List Nat) : (send s d k a).l2 = s.l2 := rfl
@[simp] theorem send_l3 (s : State) (d : TxTo) (k : Nat) (a : List Nat) : (send s d k a).l3 = s.l3 := rfl
@[simp] theorem send_dram (s : State) (d : TxTo) (k : Nat) (a : List Nat) : (send s d k a).dram = s.dram := rfl
@[simp] theorem send_poison (s : State) (d : TxTo) (k : Nat) (a : List Nat) : (send s d k a).poison = s.poison := rfl
@[simp] theorem send_lstore (s : State) (d : TxTo) (k : Nat) (a : List Nat) : (send s d k a).lstore = s.lstore := rfl
@[simp] theorem send_lsBad (s : State) (d : TxTo) (k : Nat) (a : List Nat) : (send s d k a).lsBad = s.lsBad := rfl
@[simp] theorem send_hbmOn (s : State) (d : TxTo) (k : Nat) (a : List Nat) : (send s d k a).hbmOn = s.hbmOn := rfl
@[simp] theorem send_ddrExp (s : State) (d : TxTo) (k : Nat) (a : List Nat) : (send s d k a).ddrExp = s.ddrExp := rfl
@[simp] theorem send_sregs (s : State) (d : TxTo) (k : Nat) (a : List Nat) : (send s d k a).sregs = s.sregs := rfl
@[simp] theorem send_sregPrev (s : State) (d : TxTo) (k : Nat) (a : List Nat) : (send s d k a).sregPrev = s.sregPrev := rfl
@[simp] theorem send_snps (s : State) (d : TxTo) (k : Nat) (a : List Nat) : (send s d k a).snps = s.snps := rfl
@[simp] theorem send_rsps (s : State) (d : TxTo) (k : Nat) (a : List Nat) : (send s d k a).rsps = s.rsps := rfl
@[simp] theorem send_wbs (s : State) (d : TxTo) (k : Nat) (a : List Nat) : (send s d k a).wbs = s.wbs := rfl
@[simp] theorem send_retries (s : State) (d : TxTo) (k : Nat) (a : List Nat) : (send s d k a).retries = s.retries := rfl
@[simp] theorem send_pendq (s : State) (d : TxTo) (k : Nat) (a : List Nat) : (send s d k a).pendq = s.pendq := rfl
@[simp] theorem send_iot (s : State) (d : TxTo) (k : Nat) (a : List Nat) : (send s d k a).iot = s.iot := rfl
@[simp] theorem send_ioGen (s : State) (d : TxTo) (k : Nat) (a : List Nat) : (send s d k a).ioGen = s.ioGen := rfl
@[simp] theorem send_probes (s : State) (d : TxTo) (k : Nat) (a : List Nat) : (send s d k a).probes = s.probes := rfl
@[simp] theorem send_chkBusy (s : State) (d : TxTo) (k : Nat) (a : List Nat) : (send s d k a).chkBusy = s.chkBusy := rfl
@[simp] theorem send_wd (s : State) (d : TxTo) (k : Nat) (a : List Nat) : (send s d k a).wd = s.wd := rfl
@[simp] theorem send_bw (s : State) (d : TxTo) (k : Nat) (a : List Nat) : (send s d k a).bw = s.bw := rfl
@[simp] theorem send_scan (s : State) (d : TxTo) (k : Nat) (a : List Nat) : (send s d k a).scan = s.scan := rfl
@[simp] theorem send_spl (s : State) (d : TxTo) (k : Nat) (a : List Nat) : (send s d k a).spl = s.spl := rfl
@[simp] theorem send_bar (s : State) (d : TxTo) (k : Nat) (a : List Nat) : (send s d k a).bar = s.bar := rfl
@[simp] theorem send_fld (s : State) (d : TxTo) (k : Nat) (a : List Nat) : (send s d k a).fld = s.fld := rfl
@[simp] theorem send_cl (s : State) (d : TxTo) (k : Nat) (a : List Nat) : (send s d k a).cl = s.cl := rfl
@[simp] theorem send_io (s : State) (d : TxTo) (k : Nat) (a : List Nat) : (send s d k a).io = s.io := rfl
@[simp] theorem send_recal (s : State) (d : TxTo) (k : Nat) (a : List Nat) : (send s d k a).recal = s.recal := rfl
@[simp] theorem send_scrubs (s : State) (d : TxTo) (k : Nat) (a : List Nat) : (send s d k a).scrubs = s.scrubs := rfl
@[simp] theorem send_fill (s : State) (d : TxTo) (k : Nat) (a : List Nat) : (send s d k a).fill = s.fill := rfl
@[simp] theorem send_profile (s : State) (d : TxTo) (k : Nat) (a : List Nat) : (send s d k a).profile = s.profile := rfl
@[simp] theorem send_dvfs (s : State) (d : TxTo) (k : Nat) (a : List Nat) : (send s d k a).dvfs = s.dvfs := rfl

@[simp] theorem lifeAdd_pending (s : State) (n : Nat) : (lifeAdd s n).pending = s.pending := rfl
@[simp] theorem lifeAdd_free (s : State) (n : Nat) : (lifeAdd s n).free = s.free := rfl
@[simp] theorem lifeAdd_gtime (s : State) (n : Nat) : (lifeAdd s n).gtime = s.gtime := rfl
@[simp] theorem lifeAdd_variant (s : State) (n : Nat) : (lifeAdd s n).variant = s.variant := rfl
@[simp] theorem lifeAdd_tx (s : State) (n : Nat) : (lifeAdd s n).tx = s.tx := rfl
@[simp] theorem lifeAdd_lbq (s : State) (n : Nat) : (lifeAdd s n).lbq = s.lbq := rfl
@[simp] theorem lifeAdd_lbDrop (s : State) (n : Nat) : (lifeAdd s n).lbDrop = s.lbDrop := rfl
@[simp] theorem lifeAdd_doms (s : State) (n : Nat) : (lifeAdd s n).doms = s.doms := rfl
@[simp] theorem lifeAdd_fields (s : State) (n : Nat) : (lifeAdd s n).fields = s.fields := rfl
@[simp] theorem lifeAdd_shadow (s : State) (n : Nat) : (lifeAdd s n).shadow = s.shadow := rfl
@[simp] theorem lifeAdd_hdrs (s : State) (n : Nat) : (lifeAdd s n).hdrs = s.hdrs := rfl
@[simp] theorem lifeAdd_resp (s : State) (n : Nat) : (lifeAdd s n).resp = s.resp := rfl
@[simp] theorem lifeAdd_irqs (s : State) (n : Nat) : (lifeAdd s n).irqs = s.irqs := rfl
@[simp] theorem lifeAdd_wires (s : State) (n : Nat) : (lifeAdd s n).wires = s.wires := rfl
@[simp] theorem lifeAdd_dies (s : State) (n : Nat) : (lifeAdd s n).dies = s.dies := rfl
@[simp] theorem lifeAdd_harts (s : State) (n : Nat) : (lifeAdd s n).harts = s.harts := rfl
@[simp] theorem lifeAdd_l2 (s : State) (n : Nat) : (lifeAdd s n).l2 = s.l2 := rfl
@[simp] theorem lifeAdd_l3 (s : State) (n : Nat) : (lifeAdd s n).l3 = s.l3 := rfl
@[simp] theorem lifeAdd_dram (s : State) (n : Nat) : (lifeAdd s n).dram = s.dram := rfl
@[simp] theorem lifeAdd_poison (s : State) (n : Nat) : (lifeAdd s n).poison = s.poison := rfl
@[simp] theorem lifeAdd_lstore (s : State) (n : Nat) : (lifeAdd s n).lstore = s.lstore := rfl
@[simp] theorem lifeAdd_lsBad (s : State) (n : Nat) : (lifeAdd s n).lsBad = s.lsBad := rfl
@[simp] theorem lifeAdd_hbmOn (s : State) (n : Nat) : (lifeAdd s n).hbmOn = s.hbmOn := rfl
@[simp] theorem lifeAdd_ddrExp (s : State) (n : Nat) : (lifeAdd s n).ddrExp = s.ddrExp := rfl
@[simp] theorem lifeAdd_sregs (s : State) (n : Nat) : (lifeAdd s n).sregs = s.sregs := rfl
@[simp] theorem lifeAdd_sregPrev (s : State) (n : Nat) : (lifeAdd s n).sregPrev = s.sregPrev := rfl
@[simp] theorem lifeAdd_snps (s : State) (n : Nat) : (lifeAdd s n).snps = s.snps := rfl
@[simp] theorem lifeAdd_rsps (s : State) (n : Nat) : (lifeAdd s n).rsps = s.rsps := rfl
@[simp] theorem lifeAdd_wbs (s : State) (n : Nat) : (lifeAdd s n).wbs = s.wbs := rfl
@[simp] theorem lifeAdd_retries (s : State) (n : Nat) : (lifeAdd s n).retries = s.retries := rfl
@[simp] theorem lifeAdd_pendq (s : State) (n : Nat) : (lifeAdd s n).pendq = s.pendq := rfl
@[simp] theorem lifeAdd_iot (s : State) (n : Nat) : (lifeAdd s n).iot = s.iot := rfl
@[simp] theorem lifeAdd_ioGen (s : State) (n : Nat) : (lifeAdd s n).ioGen = s.ioGen := rfl
@[simp] theorem lifeAdd_probes (s : State) (n : Nat) : (lifeAdd s n).probes = s.probes := rfl
@[simp] theorem lifeAdd_chkBusy (s : State) (n : Nat) : (lifeAdd s n).chkBusy = s.chkBusy := rfl
@[simp] theorem lifeAdd_wd (s : State) (n : Nat) : (lifeAdd s n).wd = s.wd := rfl
@[simp] theorem lifeAdd_bw (s : State) (n : Nat) : (lifeAdd s n).bw = s.bw := rfl
@[simp] theorem lifeAdd_scan (s : State) (n : Nat) : (lifeAdd s n).scan = s.scan := rfl
@[simp] theorem lifeAdd_spl (s : State) (n : Nat) : (lifeAdd s n).spl = s.spl := rfl
@[simp] theorem lifeAdd_bar (s : State) (n : Nat) : (lifeAdd s n).bar = s.bar := rfl
@[simp] theorem lifeAdd_fld (s : State) (n : Nat) : (lifeAdd s n).fld = s.fld := rfl
@[simp] theorem lifeAdd_cl (s : State) (n : Nat) : (lifeAdd s n).cl = s.cl := rfl
@[simp] theorem lifeAdd_io (s : State) (n : Nat) : (lifeAdd s n).io = s.io := rfl
@[simp] theorem lifeAdd_recal (s : State) (n : Nat) : (lifeAdd s n).recal = s.recal := rfl
@[simp] theorem lifeAdd_scrubs (s : State) (n : Nat) : (lifeAdd s n).scrubs = s.scrubs := rfl
@[simp] theorem lifeAdd_fill (s : State) (n : Nat) : (lifeAdd s n).fill = s.fill := rfl
@[simp] theorem lifeAdd_profile (s : State) (n : Nat) : (lifeAdd s n).profile = s.profile := rfl
@[simp] theorem lifeAdd_dvfs (s : State) (n : Nat) : (lifeAdd s n).dvfs = s.dvfs := rfl

@[simp] theorem meter_pending (s : State) (m r n : Nat) : (meter s m r n).pending = s.pending := rfl
@[simp] theorem meter_free (s : State) (m r n : Nat) : (meter s m r n).free = s.free := rfl
@[simp] theorem meter_gtime (s : State) (m r n : Nat) : (meter s m r n).gtime = s.gtime := rfl
@[simp] theorem meter_variant (s : State) (m r n : Nat) : (meter s m r n).variant = s.variant := rfl
@[simp] theorem meter_tx (s : State) (m r n : Nat) : (meter s m r n).tx = s.tx := rfl
@[simp] theorem meter_lbq (s : State) (m r n : Nat) : (meter s m r n).lbq = s.lbq := rfl
@[simp] theorem meter_lbDrop (s : State) (m r n : Nat) : (meter s m r n).lbDrop = s.lbDrop := rfl
@[simp] theorem meter_life (s : State) (m r n : Nat) : (meter s m r n).life = s.life := rfl
@[simp] theorem meter_doms (s : State) (m r n : Nat) : (meter s m r n).doms = s.doms := rfl
@[simp] theorem meter_fields (s : State) (m r n : Nat) : (meter s m r n).fields = s.fields := rfl
@[simp] theorem meter_shadow (s : State) (m r n : Nat) : (meter s m r n).shadow = s.shadow := rfl
@[simp] theorem meter_hdrs (s : State) (m r n : Nat) : (meter s m r n).hdrs = s.hdrs := rfl
@[simp] theorem meter_resp (s : State) (m r n : Nat) : (meter s m r n).resp = s.resp := rfl
@[simp] theorem meter_irqs (s : State) (m r n : Nat) : (meter s m r n).irqs = s.irqs := rfl
@[simp] theorem meter_wires (s : State) (m r n : Nat) : (meter s m r n).wires = s.wires := rfl
@[simp] theorem meter_dies (s : State) (m r n : Nat) : (meter s m r n).dies = s.dies := rfl
@[simp] theorem meter_harts (s : State) (m r n : Nat) : (meter s m r n).harts = s.harts := rfl
@[simp] theorem meter_l2 (s : State) (m r n : Nat) : (meter s m r n).l2 = s.l2 := rfl
@[simp] theorem meter_l3 (s : State) (m r n : Nat) : (meter s m r n).l3 = s.l3 := rfl
@[simp] theorem meter_dram (s : State) (m r n : Nat) : (meter s m r n).dram = s.dram := rfl
@[simp] theorem meter_poison (s : State) (m r n : Nat) : (meter s m r n).poison = s.poison := rfl
@[simp] theorem meter_lstore (s : State) (m r n : Nat) : (meter s m r n).lstore = s.lstore := rfl
@[simp] theorem meter_lsBad (s : State) (m r n : Nat) : (meter s m r n).lsBad = s.lsBad := rfl
@[simp] theorem meter_hbmOn (s : State) (m r n : Nat) : (meter s m r n).hbmOn = s.hbmOn := rfl
@[simp] theorem meter_ddrExp (s : State) (m r n : Nat) : (meter s m r n).ddrExp = s.ddrExp := rfl
@[simp] theorem meter_sregs (s : State) (m r n : Nat) : (meter s m r n).sregs = s.sregs := rfl
@[simp] theorem meter_sregPrev (s : State) (m r n : Nat) : (meter s m r n).sregPrev = s.sregPrev := rfl
@[simp] theorem meter_snps (s : State) (m r n : Nat) : (meter s m r n).snps = s.snps := rfl
@[simp] theorem meter_rsps (s : State) (m r n : Nat) : (meter s m r n).rsps = s.rsps := rfl
@[simp] theorem meter_wbs (s : State) (m r n : Nat) : (meter s m r n).wbs = s.wbs := rfl
@[simp] theorem meter_retries (s : State) (m r n : Nat) : (meter s m r n).retries = s.retries := rfl
@[simp] theorem meter_pendq (s : State) (m r n : Nat) : (meter s m r n).pendq = s.pendq := rfl
@[simp] theorem meter_iot (s : State) (m r n : Nat) : (meter s m r n).iot = s.iot := rfl
@[simp] theorem meter_ioGen (s : State) (m r n : Nat) : (meter s m r n).ioGen = s.ioGen := rfl
@[simp] theorem meter_probes (s : State) (m r n : Nat) : (meter s m r n).probes = s.probes := rfl
@[simp] theorem meter_chkBusy (s : State) (m r n : Nat) : (meter s m r n).chkBusy = s.chkBusy := rfl
@[simp] theorem meter_wd (s : State) (m r n : Nat) : (meter s m r n).wd = s.wd := rfl
@[simp] theorem meter_scan (s : State) (m r n : Nat) : (meter s m r n).scan = s.scan := rfl
@[simp] theorem meter_spl (s : State) (m r n : Nat) : (meter s m r n).spl = s.spl := rfl
@[simp] theorem meter_bar (s : State) (m r n : Nat) : (meter s m r n).bar = s.bar := rfl
@[simp] theorem meter_fld (s : State) (m r n : Nat) : (meter s m r n).fld = s.fld := rfl
@[simp] theorem meter_cl (s : State) (m r n : Nat) : (meter s m r n).cl = s.cl := rfl
@[simp] theorem meter_io (s : State) (m r n : Nat) : (meter s m r n).io = s.io := rfl
@[simp] theorem meter_recal (s : State) (m r n : Nat) : (meter s m r n).recal = s.recal := rfl
@[simp] theorem meter_scrubs (s : State) (m r n : Nat) : (meter s m r n).scrubs = s.scrubs := rfl
@[simp] theorem meter_fill (s : State) (m r n : Nat) : (meter s m r n).fill = s.fill := rfl
@[simp] theorem meter_profile (s : State) (m r n : Nat) : (meter s m r n).profile = s.profile := rfl
@[simp] theorem meter_dvfs (s : State) (m r n : Nat) : (meter s m r n).dvfs = s.dvfs := rfl

@[simp] theorem bumpTag_pending (s : State) (n : Nat) : (bumpTag s n).pending = s.pending := rfl
@[simp] theorem bumpTag_free (s : State) (n : Nat) : (bumpTag s n).free = s.free := rfl
@[simp] theorem bumpTag_gtime (s : State) (n : Nat) : (bumpTag s n).gtime = s.gtime := rfl
@[simp] theorem bumpTag_variant (s : State) (n : Nat) : (bumpTag s n).variant = s.variant := rfl
@[simp] theorem bumpTag_tx (s : State) (n : Nat) : (bumpTag s n).tx = s.tx := rfl
@[simp] theorem bumpTag_lbq (s : State) (n : Nat) : (bumpTag s n).lbq = s.lbq := rfl
@[simp] theorem bumpTag_lbDrop (s : State) (n : Nat) : (bumpTag s n).lbDrop = s.lbDrop := rfl
@[simp] theorem bumpTag_life (s : State) (n : Nat) : (bumpTag s n).life = s.life := rfl
@[simp] theorem bumpTag_doms (s : State) (n : Nat) : (bumpTag s n).doms = s.doms := rfl
@[simp] theorem bumpTag_fields (s : State) (n : Nat) : (bumpTag s n).fields = s.fields := rfl
@[simp] theorem bumpTag_shadow (s : State) (n : Nat) : (bumpTag s n).shadow = s.shadow := rfl
@[simp] theorem bumpTag_hdrs (s : State) (n : Nat) : (bumpTag s n).hdrs = s.hdrs := rfl
@[simp] theorem bumpTag_resp (s : State) (n : Nat) : (bumpTag s n).resp = s.resp := rfl
@[simp] theorem bumpTag_irqs (s : State) (n : Nat) : (bumpTag s n).irqs = s.irqs := rfl
@[simp] theorem bumpTag_wires (s : State) (n : Nat) : (bumpTag s n).wires = s.wires := rfl
@[simp] theorem bumpTag_dies (s : State) (n : Nat) : (bumpTag s n).dies = s.dies := rfl
@[simp] theorem bumpTag_harts (s : State) (n : Nat) : (bumpTag s n).harts = s.harts := rfl
@[simp] theorem bumpTag_l2 (s : State) (n : Nat) : (bumpTag s n).l2 = s.l2 := rfl
@[simp] theorem bumpTag_l3 (s : State) (n : Nat) : (bumpTag s n).l3 = s.l3 := rfl
@[simp] theorem bumpTag_dram (s : State) (n : Nat) : (bumpTag s n).dram = s.dram := rfl
@[simp] theorem bumpTag_poison (s : State) (n : Nat) : (bumpTag s n).poison = s.poison := rfl
@[simp] theorem bumpTag_lstore (s : State) (n : Nat) : (bumpTag s n).lstore = s.lstore := rfl
@[simp] theorem bumpTag_lsBad (s : State) (n : Nat) : (bumpTag s n).lsBad = s.lsBad := rfl
@[simp] theorem bumpTag_hbmOn (s : State) (n : Nat) : (bumpTag s n).hbmOn = s.hbmOn := rfl
@[simp] theorem bumpTag_ddrExp (s : State) (n : Nat) : (bumpTag s n).ddrExp = s.ddrExp := rfl
@[simp] theorem bumpTag_sregs (s : State) (n : Nat) : (bumpTag s n).sregs = s.sregs := rfl
@[simp] theorem bumpTag_sregPrev (s : State) (n : Nat) : (bumpTag s n).sregPrev = s.sregPrev := rfl
@[simp] theorem bumpTag_snps (s : State) (n : Nat) : (bumpTag s n).snps = s.snps := rfl
@[simp] theorem bumpTag_rsps (s : State) (n : Nat) : (bumpTag s n).rsps = s.rsps := rfl
@[simp] theorem bumpTag_wbs (s : State) (n : Nat) : (bumpTag s n).wbs = s.wbs := rfl
@[simp] theorem bumpTag_retries (s : State) (n : Nat) : (bumpTag s n).retries = s.retries := rfl
@[simp] theorem bumpTag_pendq (s : State) (n : Nat) : (bumpTag s n).pendq = s.pendq := rfl
@[simp] theorem bumpTag_iot (s : State) (n : Nat) : (bumpTag s n).iot = s.iot := rfl
@[simp] theorem bumpTag_probes (s : State) (n : Nat) : (bumpTag s n).probes = s.probes := rfl
@[simp] theorem bumpTag_chkBusy (s : State) (n : Nat) : (bumpTag s n).chkBusy = s.chkBusy := rfl
@[simp] theorem bumpTag_wd (s : State) (n : Nat) : (bumpTag s n).wd = s.wd := rfl
@[simp] theorem bumpTag_bw (s : State) (n : Nat) : (bumpTag s n).bw = s.bw := rfl
@[simp] theorem bumpTag_scan (s : State) (n : Nat) : (bumpTag s n).scan = s.scan := rfl
@[simp] theorem bumpTag_spl (s : State) (n : Nat) : (bumpTag s n).spl = s.spl := rfl
@[simp] theorem bumpTag_bar (s : State) (n : Nat) : (bumpTag s n).bar = s.bar := rfl
@[simp] theorem bumpTag_fld (s : State) (n : Nat) : (bumpTag s n).fld = s.fld := rfl
@[simp] theorem bumpTag_cl (s : State) (n : Nat) : (bumpTag s n).cl = s.cl := rfl
@[simp] theorem bumpTag_io (s : State) (n : Nat) : (bumpTag s n).io = s.io := rfl
@[simp] theorem bumpTag_recal (s : State) (n : Nat) : (bumpTag s n).recal = s.recal := rfl
@[simp] theorem bumpTag_scrubs (s : State) (n : Nat) : (bumpTag s n).scrubs = s.scrubs := rfl
@[simp] theorem bumpTag_fill (s : State) (n : Nat) : (bumpTag s n).fill = s.fill := rfl
@[simp] theorem bumpTag_profile (s : State) (n : Nat) : (bumpTag s n).profile = s.profile := rfl
@[simp] theorem bumpTag_dvfs (s : State) (n : Nat) : (bumpTag s n).dvfs = s.dvfs := rfl

@[simp] theorem setDie_pending (s : State) (d st r : Nat) : (setDie s d st r).pending = s.pending := rfl
@[simp] theorem setDie_free (s : State) (d st r : Nat) : (setDie s d st r).free = s.free := rfl
@[simp] theorem setDie_gtime (s : State) (d st r : Nat) : (setDie s d st r).gtime = s.gtime := rfl
@[simp] theorem setDie_variant (s : State) (d st r : Nat) : (setDie s d st r).variant = s.variant := rfl
@[simp] theorem setDie_tx (s : State) (d st r : Nat) : (setDie s d st r).tx = s.tx := rfl
@[simp] theorem setDie_lbq (s : State) (d st r : Nat) : (setDie s d st r).lbq = s.lbq := rfl
@[simp] theorem setDie_lbDrop (s : State) (d st r : Nat) : (setDie s d st r).lbDrop = s.lbDrop := rfl
@[simp] theorem setDie_life (s : State) (d st r : Nat) : (setDie s d st r).life = s.life := rfl
@[simp] theorem setDie_doms (s : State) (d st r : Nat) : (setDie s d st r).doms = s.doms := rfl
@[simp] theorem setDie_fields (s : State) (d st r : Nat) : (setDie s d st r).fields = s.fields := rfl
@[simp] theorem setDie_shadow (s : State) (d st r : Nat) : (setDie s d st r).shadow = s.shadow := rfl
@[simp] theorem setDie_hdrs (s : State) (d st r : Nat) : (setDie s d st r).hdrs = s.hdrs := rfl
@[simp] theorem setDie_resp (s : State) (d st r : Nat) : (setDie s d st r).resp = s.resp := rfl
@[simp] theorem setDie_irqs (s : State) (d st r : Nat) : (setDie s d st r).irqs = s.irqs := rfl
@[simp] theorem setDie_wires (s : State) (d st r : Nat) : (setDie s d st r).wires = s.wires := rfl
@[simp] theorem setDie_harts (s : State) (d st r : Nat) : (setDie s d st r).harts = s.harts := rfl
@[simp] theorem setDie_l2 (s : State) (d st r : Nat) : (setDie s d st r).l2 = s.l2 := rfl
@[simp] theorem setDie_l3 (s : State) (d st r : Nat) : (setDie s d st r).l3 = s.l3 := rfl
@[simp] theorem setDie_dram (s : State) (d st r : Nat) : (setDie s d st r).dram = s.dram := rfl
@[simp] theorem setDie_poison (s : State) (d st r : Nat) : (setDie s d st r).poison = s.poison := rfl
@[simp] theorem setDie_lstore (s : State) (d st r : Nat) : (setDie s d st r).lstore = s.lstore := rfl
@[simp] theorem setDie_lsBad (s : State) (d st r : Nat) : (setDie s d st r).lsBad = s.lsBad := rfl
@[simp] theorem setDie_hbmOn (s : State) (d st r : Nat) : (setDie s d st r).hbmOn = s.hbmOn := rfl
@[simp] theorem setDie_ddrExp (s : State) (d st r : Nat) : (setDie s d st r).ddrExp = s.ddrExp := rfl
@[simp] theorem setDie_sregs (s : State) (d st r : Nat) : (setDie s d st r).sregs = s.sregs := rfl
@[simp] theorem setDie_sregPrev (s : State) (d st r : Nat) : (setDie s d st r).sregPrev = s.sregPrev := rfl
@[simp] theorem setDie_snps (s : State) (d st r : Nat) : (setDie s d st r).snps = s.snps := rfl
@[simp] theorem setDie_rsps (s : State) (d st r : Nat) : (setDie s d st r).rsps = s.rsps := rfl
@[simp] theorem setDie_wbs (s : State) (d st r : Nat) : (setDie s d st r).wbs = s.wbs := rfl
@[simp] theorem setDie_retries (s : State) (d st r : Nat) : (setDie s d st r).retries = s.retries := rfl
@[simp] theorem setDie_pendq (s : State) (d st r : Nat) : (setDie s d st r).pendq = s.pendq := rfl
@[simp] theorem setDie_iot (s : State) (d st r : Nat) : (setDie s d st r).iot = s.iot := rfl
@[simp] theorem setDie_ioGen (s : State) (d st r : Nat) : (setDie s d st r).ioGen = s.ioGen := rfl
@[simp] theorem setDie_probes (s : State) (d st r : Nat) : (setDie s d st r).probes = s.probes := rfl
@[simp] theorem setDie_chkBusy (s : State) (d st r : Nat) : (setDie s d st r).chkBusy = s.chkBusy := rfl
@[simp] theorem setDie_wd (s : State) (d st r : Nat) : (setDie s d st r).wd = s.wd := rfl
@[simp] theorem setDie_bw (s : State) (d st r : Nat) : (setDie s d st r).bw = s.bw := rfl
@[simp] theorem setDie_scan (s : State) (d st r : Nat) : (setDie s d st r).scan = s.scan := rfl
@[simp] theorem setDie_spl (s : State) (d st r : Nat) : (setDie s d st r).spl = s.spl := rfl
@[simp] theorem setDie_bar (s : State) (d st r : Nat) : (setDie s d st r).bar = s.bar := rfl
@[simp] theorem setDie_fld (s : State) (d st r : Nat) : (setDie s d st r).fld = s.fld := rfl
@[simp] theorem setDie_cl (s : State) (d st r : Nat) : (setDie s d st r).cl = s.cl := rfl
@[simp] theorem setDie_io (s : State) (d st r : Nat) : (setDie s d st r).io = s.io := rfl
@[simp] theorem setDie_recal (s : State) (d st r : Nat) : (setDie s d st r).recal = s.recal := rfl
@[simp] theorem setDie_scrubs (s : State) (d st r : Nat) : (setDie s d st r).scrubs = s.scrubs := rfl
@[simp] theorem setDie_fill (s : State) (d st r : Nat) : (setDie s d st r).fill = s.fill := rfl
@[simp] theorem setDie_profile (s : State) (d st r : Nat) : (setDie s d st r).profile = s.profile := rfl
@[simp] theorem setDie_dvfs (s : State) (d st r : Nat) : (setDie s d st r).dvfs = s.dvfs := rfl

@[simp] theorem setDma_pending (s : State) (v : Nat) (d : Dma) : (setDma s v d).pending = s.pending := rfl
@[simp] theorem setDma_free (s : State) (v : Nat) (d : Dma) : (setDma s v d).free = s.free := rfl
@[simp] theorem setDma_gtime (s : State) (v : Nat) (d : Dma) : (setDma s v d).gtime = s.gtime := rfl
@[simp] theorem setDma_variant (s : State) (v : Nat) (d : Dma) : (setDma s v d).variant = s.variant := rfl
@[simp] theorem setDma_tx (s : State) (v : Nat) (d : Dma) : (setDma s v d).tx = s.tx := rfl
@[simp] theorem setDma_lbq (s : State) (v : Nat) (d : Dma) : (setDma s v d).lbq = s.lbq := rfl
@[simp] theorem setDma_lbDrop (s : State) (v : Nat) (d : Dma) : (setDma s v d).lbDrop = s.lbDrop := rfl
@[simp] theorem setDma_life (s : State) (v : Nat) (d : Dma) : (setDma s v d).life = s.life := rfl
@[simp] theorem setDma_doms (s : State) (v : Nat) (d : Dma) : (setDma s v d).doms = s.doms := rfl
@[simp] theorem setDma_fields (s : State) (v : Nat) (d : Dma) : (setDma s v d).fields = s.fields := rfl
@[simp] theorem setDma_shadow (s : State) (v : Nat) (d : Dma) : (setDma s v d).shadow = s.shadow := rfl
@[simp] theorem setDma_hdrs (s : State) (v : Nat) (d : Dma) : (setDma s v d).hdrs = s.hdrs := rfl
@[simp] theorem setDma_resp (s : State) (v : Nat) (d : Dma) : (setDma s v d).resp = s.resp := rfl
@[simp] theorem setDma_irqs (s : State) (v : Nat) (d : Dma) : (setDma s v d).irqs = s.irqs := rfl
@[simp] theorem setDma_wires (s : State) (v : Nat) (d : Dma) : (setDma s v d).wires = s.wires := rfl
@[simp] theorem setDma_dies (s : State) (v : Nat) (d : Dma) : (setDma s v d).dies = s.dies := rfl
@[simp] theorem setDma_harts (s : State) (v : Nat) (d : Dma) : (setDma s v d).harts = s.harts := rfl
@[simp] theorem setDma_l2 (s : State) (v : Nat) (d : Dma) : (setDma s v d).l2 = s.l2 := rfl
@[simp] theorem setDma_l3 (s : State) (v : Nat) (d : Dma) : (setDma s v d).l3 = s.l3 := rfl
@[simp] theorem setDma_dram (s : State) (v : Nat) (d : Dma) : (setDma s v d).dram = s.dram := rfl
@[simp] theorem setDma_poison (s : State) (v : Nat) (d : Dma) : (setDma s v d).poison = s.poison := rfl
@[simp] theorem setDma_lstore (s : State) (v : Nat) (d : Dma) : (setDma s v d).lstore = s.lstore := rfl
@[simp] theorem setDma_lsBad (s : State) (v : Nat) (d : Dma) : (setDma s v d).lsBad = s.lsBad := rfl
@[simp] theorem setDma_hbmOn (s : State) (v : Nat) (d : Dma) : (setDma s v d).hbmOn = s.hbmOn := rfl
@[simp] theorem setDma_ddrExp (s : State) (v : Nat) (d : Dma) : (setDma s v d).ddrExp = s.ddrExp := rfl
@[simp] theorem setDma_sregs (s : State) (v : Nat) (d : Dma) : (setDma s v d).sregs = s.sregs := rfl
@[simp] theorem setDma_sregPrev (s : State) (v : Nat) (d : Dma) : (setDma s v d).sregPrev = s.sregPrev := rfl
@[simp] theorem setDma_snps (s : State) (v : Nat) (d : Dma) : (setDma s v d).snps = s.snps := rfl
@[simp] theorem setDma_rsps (s : State) (v : Nat) (d : Dma) : (setDma s v d).rsps = s.rsps := rfl
@[simp] theorem setDma_wbs (s : State) (v : Nat) (d : Dma) : (setDma s v d).wbs = s.wbs := rfl
@[simp] theorem setDma_retries (s : State) (v : Nat) (d : Dma) : (setDma s v d).retries = s.retries := rfl
@[simp] theorem setDma_pendq (s : State) (v : Nat) (d : Dma) : (setDma s v d).pendq = s.pendq := rfl
@[simp] theorem setDma_iot (s : State) (v : Nat) (d : Dma) : (setDma s v d).iot = s.iot := rfl
@[simp] theorem setDma_ioGen (s : State) (v : Nat) (d : Dma) : (setDma s v d).ioGen = s.ioGen := rfl
@[simp] theorem setDma_probes (s : State) (v : Nat) (d : Dma) : (setDma s v d).probes = s.probes := rfl
@[simp] theorem setDma_chkBusy (s : State) (v : Nat) (d : Dma) : (setDma s v d).chkBusy = s.chkBusy := rfl
@[simp] theorem setDma_wd (s : State) (v : Nat) (d : Dma) : (setDma s v d).wd = s.wd := rfl
@[simp] theorem setDma_bw (s : State) (v : Nat) (d : Dma) : (setDma s v d).bw = s.bw := rfl
@[simp] theorem setDma_scan (s : State) (v : Nat) (d : Dma) : (setDma s v d).scan = s.scan := rfl
@[simp] theorem setDma_bar (s : State) (v : Nat) (d : Dma) : (setDma s v d).bar = s.bar := rfl
@[simp] theorem setDma_fld (s : State) (v : Nat) (d : Dma) : (setDma s v d).fld = s.fld := rfl
@[simp] theorem setDma_cl (s : State) (v : Nat) (d : Dma) : (setDma s v d).cl = s.cl := rfl
@[simp] theorem setDma_io (s : State) (v : Nat) (d : Dma) : (setDma s v d).io = s.io := rfl
@[simp] theorem setDma_recal (s : State) (v : Nat) (d : Dma) : (setDma s v d).recal = s.recal := rfl
@[simp] theorem setDma_scrubs (s : State) (v : Nat) (d : Dma) : (setDma s v d).scrubs = s.scrubs := rfl
@[simp] theorem setDma_fill (s : State) (v : Nat) (d : Dma) : (setDma s v d).fill = s.fill := rfl
@[simp] theorem setDma_profile (s : State) (v : Nat) (d : Dma) : (setDma s v d).profile = s.profile := rfl
@[simp] theorem setDma_dvfs (s : State) (v : Nat) (d : Dma) : (setDma s v d).dvfs = s.dvfs := rfl

@[simp] theorem endDma_pending (s : State) (v : Nat) : (endDma s v).pending = s.pending := rfl
@[simp] theorem endDma_free (s : State) (v : Nat) : (endDma s v).free = s.free := rfl
@[simp] theorem endDma_gtime (s : State) (v : Nat) : (endDma s v).gtime = s.gtime := rfl
@[simp] theorem endDma_variant (s : State) (v : Nat) : (endDma s v).variant = s.variant := rfl
@[simp] theorem endDma_tx (s : State) (v : Nat) : (endDma s v).tx = s.tx := rfl
@[simp] theorem endDma_lbq (s : State) (v : Nat) : (endDma s v).lbq = s.lbq := rfl
@[simp] theorem endDma_lbDrop (s : State) (v : Nat) : (endDma s v).lbDrop = s.lbDrop := rfl
@[simp] theorem endDma_life (s : State) (v : Nat) : (endDma s v).life = s.life := rfl
@[simp] theorem endDma_doms (s : State) (v : Nat) : (endDma s v).doms = s.doms := rfl
@[simp] theorem endDma_fields (s : State) (v : Nat) : (endDma s v).fields = s.fields := rfl
@[simp] theorem endDma_shadow (s : State) (v : Nat) : (endDma s v).shadow = s.shadow := rfl
@[simp] theorem endDma_hdrs (s : State) (v : Nat) : (endDma s v).hdrs = s.hdrs := rfl
@[simp] theorem endDma_resp (s : State) (v : Nat) : (endDma s v).resp = s.resp := rfl
@[simp] theorem endDma_irqs (s : State) (v : Nat) : (endDma s v).irqs = s.irqs := rfl
@[simp] theorem endDma_wires (s : State) (v : Nat) : (endDma s v).wires = s.wires := rfl
@[simp] theorem endDma_dies (s : State) (v : Nat) : (endDma s v).dies = s.dies := rfl
@[simp] theorem endDma_harts (s : State) (v : Nat) : (endDma s v).harts = s.harts := rfl
@[simp] theorem endDma_l2 (s : State) (v : Nat) : (endDma s v).l2 = s.l2 := rfl
@[simp] theorem endDma_l3 (s : State) (v : Nat) : (endDma s v).l3 = s.l3 := rfl
@[simp] theorem endDma_dram (s : State) (v : Nat) : (endDma s v).dram = s.dram := rfl
@[simp] theorem endDma_poison (s : State) (v : Nat) : (endDma s v).poison = s.poison := rfl
@[simp] theorem endDma_lstore (s : State) (v : Nat) : (endDma s v).lstore = s.lstore := rfl
@[simp] theorem endDma_lsBad (s : State) (v : Nat) : (endDma s v).lsBad = s.lsBad := rfl
@[simp] theorem endDma_hbmOn (s : State) (v : Nat) : (endDma s v).hbmOn = s.hbmOn := rfl
@[simp] theorem endDma_ddrExp (s : State) (v : Nat) : (endDma s v).ddrExp = s.ddrExp := rfl
@[simp] theorem endDma_sregs (s : State) (v : Nat) : (endDma s v).sregs = s.sregs := rfl
@[simp] theorem endDma_sregPrev (s : State) (v : Nat) : (endDma s v).sregPrev = s.sregPrev := rfl
@[simp] theorem endDma_snps (s : State) (v : Nat) : (endDma s v).snps = s.snps := rfl
@[simp] theorem endDma_rsps (s : State) (v : Nat) : (endDma s v).rsps = s.rsps := rfl
@[simp] theorem endDma_wbs (s : State) (v : Nat) : (endDma s v).wbs = s.wbs := rfl
@[simp] theorem endDma_retries (s : State) (v : Nat) : (endDma s v).retries = s.retries := rfl
@[simp] theorem endDma_pendq (s : State) (v : Nat) : (endDma s v).pendq = s.pendq := rfl
@[simp] theorem endDma_iot (s : State) (v : Nat) : (endDma s v).iot = s.iot := rfl
@[simp] theorem endDma_ioGen (s : State) (v : Nat) : (endDma s v).ioGen = s.ioGen := rfl
@[simp] theorem endDma_probes (s : State) (v : Nat) : (endDma s v).probes = s.probes := rfl
@[simp] theorem endDma_chkBusy (s : State) (v : Nat) : (endDma s v).chkBusy = s.chkBusy := rfl
@[simp] theorem endDma_wd (s : State) (v : Nat) : (endDma s v).wd = s.wd := rfl
@[simp] theorem endDma_bw (s : State) (v : Nat) : (endDma s v).bw = s.bw := rfl
@[simp] theorem endDma_scan (s : State) (v : Nat) : (endDma s v).scan = s.scan := rfl
@[simp] theorem endDma_bar (s : State) (v : Nat) : (endDma s v).bar = s.bar := rfl
@[simp] theorem endDma_fld (s : State) (v : Nat) : (endDma s v).fld = s.fld := rfl
@[simp] theorem endDma_cl (s : State) (v : Nat) : (endDma s v).cl = s.cl := rfl
@[simp] theorem endDma_io (s : State) (v : Nat) : (endDma s v).io = s.io := rfl
@[simp] theorem endDma_recal (s : State) (v : Nat) : (endDma s v).recal = s.recal := rfl
@[simp] theorem endDma_scrubs (s : State) (v : Nat) : (endDma s v).scrubs = s.scrubs := rfl
@[simp] theorem endDma_fill (s : State) (v : Nat) : (endDma s v).fill = s.fill := rfl
@[simp] theorem endDma_profile (s : State) (v : Nat) : (endDma s v).profile = s.profile := rfl
@[simp] theorem endDma_dvfs (s : State) (v : Nat) : (endDma s v).dvfs = s.dvfs := rfl

@[simp] theorem setDir_pending (s : State) (o : Bool) (d : BDir) : (setDir s o d).pending = s.pending := rfl
@[simp] theorem setDir_free (s : State) (o : Bool) (d : BDir) : (setDir s o d).free = s.free := rfl
@[simp] theorem setDir_gtime (s : State) (o : Bool) (d : BDir) : (setDir s o d).gtime = s.gtime := rfl
@[simp] theorem setDir_variant (s : State) (o : Bool) (d : BDir) : (setDir s o d).variant = s.variant := rfl
@[simp] theorem setDir_tx (s : State) (o : Bool) (d : BDir) : (setDir s o d).tx = s.tx := rfl
@[simp] theorem setDir_lbq (s : State) (o : Bool) (d : BDir) : (setDir s o d).lbq = s.lbq := rfl
@[simp] theorem setDir_lbDrop (s : State) (o : Bool) (d : BDir) : (setDir s o d).lbDrop = s.lbDrop := rfl
@[simp] theorem setDir_life (s : State) (o : Bool) (d : BDir) : (setDir s o d).life = s.life := rfl
@[simp] theorem setDir_doms (s : State) (o : Bool) (d : BDir) : (setDir s o d).doms = s.doms := rfl
@[simp] theorem setDir_fields (s : State) (o : Bool) (d : BDir) : (setDir s o d).fields = s.fields := rfl
@[simp] theorem setDir_shadow (s : State) (o : Bool) (d : BDir) : (setDir s o d).shadow = s.shadow := rfl
@[simp] theorem setDir_hdrs (s : State) (o : Bool) (d : BDir) : (setDir s o d).hdrs = s.hdrs := rfl
@[simp] theorem setDir_resp (s : State) (o : Bool) (d : BDir) : (setDir s o d).resp = s.resp := rfl
@[simp] theorem setDir_irqs (s : State) (o : Bool) (d : BDir) : (setDir s o d).irqs = s.irqs := rfl
@[simp] theorem setDir_wires (s : State) (o : Bool) (d : BDir) : (setDir s o d).wires = s.wires := rfl
@[simp] theorem setDir_dies (s : State) (o : Bool) (d : BDir) : (setDir s o d).dies = s.dies := rfl
@[simp] theorem setDir_harts (s : State) (o : Bool) (d : BDir) : (setDir s o d).harts = s.harts := rfl
@[simp] theorem setDir_l2 (s : State) (o : Bool) (d : BDir) : (setDir s o d).l2 = s.l2 := rfl
@[simp] theorem setDir_l3 (s : State) (o : Bool) (d : BDir) : (setDir s o d).l3 = s.l3 := rfl
@[simp] theorem setDir_dram (s : State) (o : Bool) (d : BDir) : (setDir s o d).dram = s.dram := rfl
@[simp] theorem setDir_poison (s : State) (o : Bool) (d : BDir) : (setDir s o d).poison = s.poison := rfl
@[simp] theorem setDir_lstore (s : State) (o : Bool) (d : BDir) : (setDir s o d).lstore = s.lstore := rfl
@[simp] theorem setDir_lsBad (s : State) (o : Bool) (d : BDir) : (setDir s o d).lsBad = s.lsBad := rfl
@[simp] theorem setDir_hbmOn (s : State) (o : Bool) (d : BDir) : (setDir s o d).hbmOn = s.hbmOn := rfl
@[simp] theorem setDir_ddrExp (s : State) (o : Bool) (d : BDir) : (setDir s o d).ddrExp = s.ddrExp := rfl
@[simp] theorem setDir_sregs (s : State) (o : Bool) (d : BDir) : (setDir s o d).sregs = s.sregs := rfl
@[simp] theorem setDir_sregPrev (s : State) (o : Bool) (d : BDir) : (setDir s o d).sregPrev = s.sregPrev := rfl
@[simp] theorem setDir_snps (s : State) (o : Bool) (d : BDir) : (setDir s o d).snps = s.snps := rfl
@[simp] theorem setDir_rsps (s : State) (o : Bool) (d : BDir) : (setDir s o d).rsps = s.rsps := rfl
@[simp] theorem setDir_wbs (s : State) (o : Bool) (d : BDir) : (setDir s o d).wbs = s.wbs := rfl
@[simp] theorem setDir_retries (s : State) (o : Bool) (d : BDir) : (setDir s o d).retries = s.retries := rfl
@[simp] theorem setDir_pendq (s : State) (o : Bool) (d : BDir) : (setDir s o d).pendq = s.pendq := rfl
@[simp] theorem setDir_iot (s : State) (o : Bool) (d : BDir) : (setDir s o d).iot = s.iot := rfl
@[simp] theorem setDir_ioGen (s : State) (o : Bool) (d : BDir) : (setDir s o d).ioGen = s.ioGen := rfl
@[simp] theorem setDir_probes (s : State) (o : Bool) (d : BDir) : (setDir s o d).probes = s.probes := rfl
@[simp] theorem setDir_chkBusy (s : State) (o : Bool) (d : BDir) : (setDir s o d).chkBusy = s.chkBusy := rfl
@[simp] theorem setDir_wd (s : State) (o : Bool) (d : BDir) : (setDir s o d).wd = s.wd := rfl
@[simp] theorem setDir_bw (s : State) (o : Bool) (d : BDir) : (setDir s o d).bw = s.bw := rfl
@[simp] theorem setDir_scan (s : State) (o : Bool) (d : BDir) : (setDir s o d).scan = s.scan := rfl
@[simp] theorem setDir_spl (s : State) (o : Bool) (d : BDir) : (setDir s o d).spl = s.spl := rfl
@[simp] theorem setDir_fld (s : State) (o : Bool) (d : BDir) : (setDir s o d).fld = s.fld := rfl
@[simp] theorem setDir_cl (s : State) (o : Bool) (d : BDir) : (setDir s o d).cl = s.cl := rfl
@[simp] theorem setDir_io (s : State) (o : Bool) (d : BDir) : (setDir s o d).io = s.io := rfl
@[simp] theorem setDir_recal (s : State) (o : Bool) (d : BDir) : (setDir s o d).recal = s.recal := rfl
@[simp] theorem setDir_scrubs (s : State) (o : Bool) (d : BDir) : (setDir s o d).scrubs = s.scrubs := rfl
@[simp] theorem setDir_fill (s : State) (o : Bool) (d : BDir) : (setDir s o d).fill = s.fill := rfl
@[simp] theorem setDir_profile (s : State) (o : Bool) (d : BDir) : (setDir s o d).profile = s.profile := rfl
@[simp] theorem setDir_dvfs (s : State) (o : Bool) (d : BDir) : (setDir s o d).dvfs = s.dvfs := rfl

@[simp] theorem draw_pending (s : State) : (draw s).2.pending = s.pending := rfl
@[simp] theorem draw_gtime (s : State) : (draw s).2.gtime = s.gtime := rfl
@[simp] theorem draw_variant (s : State) : (draw s).2.variant = s.variant := rfl
@[simp] theorem draw_tx (s : State) : (draw s).2.tx = s.tx := rfl
@[simp] theorem draw_lbq (s : State) : (draw s).2.lbq = s.lbq := rfl
@[simp] theorem draw_lbDrop (s : State) : (draw s).2.lbDrop = s.lbDrop := rfl
@[simp] theorem draw_life (s : State) : (draw s).2.life = s.life := rfl
@[simp] theorem draw_doms (s : State) : (draw s).2.doms = s.doms := rfl
@[simp] theorem draw_fields (s : State) : (draw s).2.fields = s.fields := rfl
@[simp] theorem draw_shadow (s : State) : (draw s).2.shadow = s.shadow := rfl
@[simp] theorem draw_hdrs (s : State) : (draw s).2.hdrs = s.hdrs := rfl
@[simp] theorem draw_resp (s : State) : (draw s).2.resp = s.resp := rfl
@[simp] theorem draw_irqs (s : State) : (draw s).2.irqs = s.irqs := rfl
@[simp] theorem draw_wires (s : State) : (draw s).2.wires = s.wires := rfl
@[simp] theorem draw_dies (s : State) : (draw s).2.dies = s.dies := rfl
@[simp] theorem draw_harts (s : State) : (draw s).2.harts = s.harts := rfl
@[simp] theorem draw_l2 (s : State) : (draw s).2.l2 = s.l2 := rfl
@[simp] theorem draw_l3 (s : State) : (draw s).2.l3 = s.l3 := rfl
@[simp] theorem draw_dram (s : State) : (draw s).2.dram = s.dram := rfl
@[simp] theorem draw_poison (s : State) : (draw s).2.poison = s.poison := rfl
@[simp] theorem draw_lstore (s : State) : (draw s).2.lstore = s.lstore := rfl
@[simp] theorem draw_lsBad (s : State) : (draw s).2.lsBad = s.lsBad := rfl
@[simp] theorem draw_hbmOn (s : State) : (draw s).2.hbmOn = s.hbmOn := rfl
@[simp] theorem draw_ddrExp (s : State) : (draw s).2.ddrExp = s.ddrExp := rfl
@[simp] theorem draw_sregs (s : State) : (draw s).2.sregs = s.sregs := rfl
@[simp] theorem draw_sregPrev (s : State) : (draw s).2.sregPrev = s.sregPrev := rfl
@[simp] theorem draw_snps (s : State) : (draw s).2.snps = s.snps := rfl
@[simp] theorem draw_rsps (s : State) : (draw s).2.rsps = s.rsps := rfl
@[simp] theorem draw_wbs (s : State) : (draw s).2.wbs = s.wbs := rfl
@[simp] theorem draw_retries (s : State) : (draw s).2.retries = s.retries := rfl
@[simp] theorem draw_pendq (s : State) : (draw s).2.pendq = s.pendq := rfl
@[simp] theorem draw_iot (s : State) : (draw s).2.iot = s.iot := rfl
@[simp] theorem draw_ioGen (s : State) : (draw s).2.ioGen = s.ioGen := rfl
@[simp] theorem draw_probes (s : State) : (draw s).2.probes = s.probes := rfl
@[simp] theorem draw_chkBusy (s : State) : (draw s).2.chkBusy = s.chkBusy := rfl
@[simp] theorem draw_wd (s : State) : (draw s).2.wd = s.wd := rfl
@[simp] theorem draw_bw (s : State) : (draw s).2.bw = s.bw := rfl
@[simp] theorem draw_scan (s : State) : (draw s).2.scan = s.scan := rfl
@[simp] theorem draw_spl (s : State) : (draw s).2.spl = s.spl := rfl
@[simp] theorem draw_bar (s : State) : (draw s).2.bar = s.bar := rfl
@[simp] theorem draw_fld (s : State) : (draw s).2.fld = s.fld := rfl
@[simp] theorem draw_cl (s : State) : (draw s).2.cl = s.cl := rfl
@[simp] theorem draw_io (s : State) : (draw s).2.io = s.io := rfl
@[simp] theorem draw_recal (s : State) : (draw s).2.recal = s.recal := rfl
@[simp] theorem draw_scrubs (s : State) : (draw s).2.scrubs = s.scrubs := rfl
@[simp] theorem draw_fill (s : State) : (draw s).2.fill = s.fill := rfl
@[simp] theorem draw_profile (s : State) : (draw s).2.profile = s.profile := rfl
@[simp] theorem draw_dvfs (s : State) : (draw s).2.dvfs = s.dvfs := rfl

end Sys2Proof.Machine
end

