-- ==== Sys2Proof/Laws/Store.lean ====
section
/-! SUPPORT. The laws of the sparse container: a read after a write, and the canonical form that every memory operation keeps. -/
namespace Sys2Proof.Machine
open Sys2Proof

@[simp] theorem mfind_mput_same {β : Type} (m : Map β) (k : Nat) (v : β) : mfind (mput m k v) k = some v := by
  induction m with
  | nil => simp [mput, mfind]
  | cons e r ih =>
    unfold mput
    split
    · simp [mfind]
    · split
      · simp [mfind]
      · rename_i h; simp [mfind, Ne.symm h, ih]

theorem mfind_mput_other {β : Type} (m : Map β) (k j : Nat) (v : β) (h : j ≠ k) : mfind (mput m k v) j = mfind m j := by
  induction m with
  | nil => simp [mput, mfind, Ne.symm h]
  | cons e r ih =>
    unfold mput
    split
    · simp [mfind, Ne.symm h]
    · split
      · rename_i h2; simp [mfind, Ne.symm h, ← h2]
      · simp [mfind, ih]

@[simp] theorem mget_mput_same {β : Type} (d : β) (m : Map β) (k : Nat) (v : β) : mget d (mput m k v) k = v := by simp [mget]

theorem mget_mput_other {β : Type} (d : β) (m : Map β) (k j : Nat) (v : β) (h : j ≠ k) : mget d (mput m k v) j = mget d m j := by
  simp [mget, mfind_mput_other m k j v h]

theorem mfind_filter {β : Type} (m : Map β) (p : Nat → Bool) (k : Nat) :
    mfind (m.filter (fun e => p e.1)) k = if p k then mfind m k else none := by
  induction m with
  | nil => simp [mfind]
  | cons e r ih =>
    by_cases he : p e.1 = true
    · rw [List.filter_cons_of_pos (by simpa using he)]
      by_cases hk : e.1 = k
      · subst hk; simp [mfind, he]
      · simp [mfind, hk, ih]
    · rw [List.filter_cons_of_neg (by simpa using he), ih]
      by_cases hk : e.1 = k
      · subst hk; simp [he]
      · simp [mfind, hk]

theorem mfind_mdel_same {β : Type} (m : Map β) (k : Nat) : mfind (mdel m k) k = none := by
  unfold mdel; rw [mfind_filter m (fun a => a != k) k]; simp

theorem mfind_mdel_other {β : Type} (m : Map β) (k j : Nat) (h : j ≠ k) : mfind (mdel m k) j = mfind m j := by
  unfold mdel; rw [mfind_filter m (fun a => a != k) j]; simp [h]

/-- A byte reads what was written there. -/
theorem byteAt_putByte_same (m : Map Byte) (a : Nat) (b : Byte) : byteAt (putByte m a b) a = b := by
  unfold putByte byteAt
  split
  · rename_i h; simp [mget, mfind_mdel_same, h]
  · simp

/-- Every other byte is left alone. -/
theorem byteAt_putByte_other (m : Map Byte) (a c : Nat) (b : Byte) (h : c ≠ a) : byteAt (putByte m a b) c = byteAt m c := by
  unfold putByte byteAt
  split
  · simp [mget, mfind_mdel_other m a c h]
  · exact mget_mput_other 0 m a c b h

/-- Bytes outside the range written are left alone. -/
theorem byteAt_writeBytes_other (n : Nat) : ∀ (m : Map Byte) (a v c : Nat), (c < a ∨ a + n ≤ c) → byteAt (writeBytes m a n v) c = byteAt m c := by
  induction n with
  | zero => intro m a v c _; rfl
  | succ n ih =>
    intro m a v c h
    unfold writeBytes
    rw [ih _ _ _ _ (by omega), byteAt_putByte_other m a c _ (by omega)]

/-- The keys of a map rise strictly from `lo` on. -/
def risingFrom {β : Type} (lo : Nat) : Map β → Prop
  | [] => True
  | e :: r => lo ≤ e.1 ∧ risingFrom (e.1 + 1) r

theorem risingFrom_mono {β : Type} (m : Map β) (a b : Nat) (h : a ≤ b) (hm : risingFrom b m) : risingFrom a m := by
  cases m with
  | nil => trivial
  | cons e r => exact ⟨Nat.le_trans h hm.1, hm.2⟩

theorem mrising_iff {β : Type} (m : Map β) : mrising m = true ↔ risingFrom 0 m := by
  induction m with
  | nil => simp [mrising, risingFrom]
  | cons e r ih =>
    cases r with
    | nil => simp [mrising, risingFrom]
    | cons b r =>
      simp only [mrising, Bool.and_eq_true, decide_eq_true_eq, ih, risingFrom]
      constructor
      · rintro ⟨h, -, h2⟩; exact ⟨Nat.zero_le _, h, h2⟩
      · rintro ⟨-, h, h2⟩; exact ⟨h, Nat.zero_le _, h2⟩

theorem risingFrom_mput {β : Type} (m : Map β) (k : Nat) (v : β) : ∀ lo, lo ≤ k → risingFrom lo m → risingFrom lo (mput m k v) := by
  induction m with
  | nil => intro lo h _; exact ⟨h, trivial⟩
  | cons e r ih =>
    intro lo h hm
    unfold mput
    split
    · exact ⟨h, by omega, hm.2⟩
    · split
      · rename_i h2; exact ⟨h, by rw [h2]; exact hm.2⟩
      · exact ⟨hm.1, ih _ (by omega) hm.2⟩

theorem risingFrom_filter {β : Type} (m : Map β) (p : Nat × β → Bool) : ∀ lo, risingFrom lo m → risingFrom lo (m.filter p) := by
  induction m with
  | nil => intro lo h; exact h
  | cons e r ih =>
    intro lo h
    by_cases hp : p e = true
    · rw [List.filter_cons_of_pos hp]; exact ⟨h.1, ih _ h.2⟩
    · rw [List.filter_cons_of_neg hp]; exact risingFrom_mono _ _ _ (by have := h.1; omega) (ih _ h.2)

theorem mput_all {β : Type} (m : Map β) (k : Nat) (v : β) (p : Nat × β → Bool) (h : m.all p = true) (hv : p (k, v) = true) :
    (mput m k v).all p = true := by
  induction m with
  | nil => simp [mput, hv]
  | cons e r ih =>
    simp only [List.all_cons, Bool.and_eq_true] at h
    unfold mput
    split
    · simp [hv, h.1, h.2]
    · split
      · simp [hv, h.2]
      · simp [h.1, ih h.2]

/-- Writing a byte keeps the canonical form. -/
theorem memWf_putByte (m : Map Byte) (a : Nat) (b : Byte) (h : memWf m = true) : memWf (putByte m a b) = true := by
  simp only [memWf, Bool.and_eq_true, mrising_iff] at h ⊢
  unfold putByte
  split
  · refine ⟨risingFrom_filter m _ 0 h.1, ?_⟩
    rw [List.all_eq_true] at h ⊢
    intro e he; exact h.2 e (List.mem_filter.mp he).1
  · rename_i hb
    exact ⟨risingFrom_mput m a b 0 (Nat.zero_le _) h.1, mput_all m a b _ h.2 (by simpa using hb)⟩

theorem memWf_writeBytes (n : Nat) : ∀ (m : Map Byte) (a v : Nat), memWf m = true → memWf (writeBytes m a n v) = true := by
  induction n with
  | zero => intro m a v h; exact h
  | succ n ih => intro m a v h; exact ih _ _ _ (memWf_putByte m a _ h)

theorem memWf_writeMasked (n : Nat) : ∀ (m : Map Byte) (a k v : Nat), memWf m = true → memWf (writeMasked m a n k v) = true := by
  induction n with
  | zero => intro m a k v h; exact h
  | succ n ih =>
    intro m a k v h
    unfold writeMasked
    refine ih _ _ _ _ ?_
    split
    · exact memWf_putByte m a _ h
    · exact h

theorem memWf_filter (m : Map Byte) (p : Nat × Byte → Bool) (h : memWf m = true) : memWf (m.filter p) = true := by
  simp only [memWf, Bool.and_eq_true, mrising_iff] at h ⊢
  refine ⟨risingFrom_filter m _ 0 h.1, ?_⟩
  rw [List.all_eq_true] at h ⊢
  intro e he; exact h.2 e (List.mem_filter.mp he).1

theorem memWf_zeroBytes (m : Map Byte) (lo n : Nat) (h : memWf m = true) : memWf (zeroBytes m lo n) = true := memWf_filter m _ h

end Sys2Proof.Machine
end

