-- ==== Sys2Proof/Laws/Regs.lean ====
section
/-! SUPPORT. What a register field reads after a write, the header of a block, and what the capture of an event leaves alone. -/
namespace Sys2Proof.Machine
open Sys2Proof

/-- A field reads what was put there, cut to its width. -/
@[simp] theorem rdF_wrF_same (s : State) (b : Blk) (f : Field) (v n k : Nat) : rdF (wrF s b f v n k) b f n k = v % 2 ^ (f.hi + 1 - f.lo) := by
  simp [rdF, wrF]

/-- A field with another key is left alone. -/
theorem rdF_wrF_other (s : State) (b c : Blk) (f g : Field) (v n k m l : Nat) (h : fkey c g m l ≠ fkey b f n k) :
    rdF (wrF s b f v n k) c g m l = rdF s c g m l := by
  simp [rdF, wrF, mget_mput_other _ _ _ _ _ h]

/-- A field that another part of the state gives reads the same wherever the register store is the same. -/
theorem rdF_of_fields (s t : State) (b : Blk) (f : Field) (n k : Nat) (h : t.fields = s.fields) : rdF t b f n k = rdF s b f n k := by
  simp [rdF, h]

@[simp] theorem hdrOf_setHdr_same (s : State) (b : Blk) (h : Hdr) : hdrOf (setHdr s b h) b = h := by simp [hdrOf, setHdr]

theorem hdrOf_setHdr_other (s : State) (b c : Blk) (h : Hdr) (hc : bkey c ≠ bkey b) : hdrOf (setHdr s b h) c = hdrOf s c := by
  simp [hdrOf, setHdr, mget_mput_other _ _ _ _ _ hc]

@[simp] theorem hartOf_setHart_same (s : State) (h : Nat) (x : Hart) : hartOf (setHart s h x) h = x := by simp [hartOf, setHart]

theorem hartOf_setHart_other (s : State) (h j : Nat) (x : Hart) (hj : j ≠ h) : hartOf (setHart s h x) j = hartOf s j := by
  simp [hartOf, setHart, mget_mput_other _ _ _ _ _ hj]

end Sys2Proof.Machine
end

