-- ==== Sys2Proof/Laws/Hart.lean ====
section
/-! SUPPORT. What the issue and the completion of an instruction do to the state. -/
namespace Sys2Proof.Machine
open Sys2Proof

theorem mput_mput {β : Type} (m : Map β) (k : Nat) (a b : β) : mput (mput m k a) k b = mput m k b := by
  induction m with
  | nil => simp [mput]
  | cons e r ih =>
    unfold mput
    by_cases h1 : k < e.1
    · simp [h1, mput]
    · by_cases h2 : k = e.1
      · simp [h2, mput]
      · simp [h1, h2, mput, ih]

@[simp] theorem setHart_setHart (s : State) (h : Nat) (a b : Hart) : setHart (setHart s h a) h b = setHart s h b := by
  simp [setHart, mput_mput]

@[simp] theorem hartOf_issuing (s : State) (h : Nat) (i : Instr) :
    hartOf (issuing s h i) h = { hartOf s h with cur := some i, useOld := false } := by simp [issuing]

/-- An instruction that may issue is taken up and run. -/
theorem issue_of_canIssue {s : State} {h : Nat} {c : Bool} {i : Instr} (hc : canIssue s h c i) :
    issue s h i = boundary (resume (issuing s h i) h) h := by
  obtain ⟨h1, h2, h3, h4, -⟩ := hc
  have hr : (hartOf s h).run = .running := by
    simp only [ready, Bool.and_eq_true, decide_eq_true_eq] at h2; exact h2.1.1.1.1.1.1
  have hw : wakeWfi s (hartOf s h) = hartOf s h := by simp [wakeWfi, hr]
  have ht : settleTick (hartOf s h) = hartOf s h := by
    have ho : (hartOf s h).old.filter (fun e => !([] : List Nat).contains e.1) = (hartOf s h).old := by simp
    generalize hartOf s h = x at h4 ho
    unfold settleTick
    simp only [h4, List.filter_nil, List.map_nil]
    rw [ho]
    cases x; simp_all
  have hcond : (!(decide (h < hartCount s)) || !ready (hartOf s h) || !clusterOn s h) = false := by simp [h1, h2, h3]
  unfold issue
  simp only [hw, hcond, ht, h4, List.isEmpty_nil]
  simp [issuing, h4]

/-- At a boundary where nobody waits for the hart nothing happens. -/
theorem boundary_quiet {s : State} {h : Nat} (hd : (hartOf s h).deferred = []) (hh : (hartOf s h).haltReq = false)
    (hs : (hartOf s h).stepping = false) : boundary s h = s := by
  unfold boundary
  split
  · rfl
  · simp [hd, hh, hs]

/-- The parts of a hart that completing an instruction sets. -/
def afresh (x : Hart) : Hart := { x with pc := 0, cur := none, stalled := false, refused := none, useOld := false, lastPc := 0 }

theorem csr_setCsr_other (x : Hart) (n m : Nat) (v : Word) (hn : n ≠ m) : csr (setCsr x m v) n = csr x n := by
  simp [csr, setCsr, mget_mput_other _ _ _ _ _ hn]

@[simp] theorem csr_setCsr_same (x : Hart) (n : Nat) (v : Word) : csr (setCsr x n v) n = v := by simp [csr, setCsr]

theorem csr_of_csr_eq {x y : Hart} (h : x.csr = y.csr) (n : Nat) : csr x n = csr y n := by simp [csr, h]

/-- Counting cycles and an instruction touches `mcycle` and `minstret` only. -/
theorem retire_spec (s : State) (x : Hart) (n : Nat) :
    retire s x n = { x with csr := (retire s x n).csr } ∧ ∀ k, k ≠ 0xB00 → k ≠ 0xB02 → csr (retire s x n) k = csr x k := by
  unfold retire
  constructor
  · simp only []
    split <;> split <;> rfl
  · intro k h0 h2
    simp only []
    split <;> split <;> simp [csr_setCsr_other, h0, h2]

/-- An instruction that completes: hart `h` alone has changed. -/
theorem ran_done {s : State} {h : Nat} {c : Bool} {i : Instr} (hc : canIssue s h c i) (c' : Bool) (n : Nat) (f : Hart → Hart) (y : Hart) (p : Word)
    (hy : afresh (f (hartOf (issuing s h i) h)) = afresh y) (hp : (f (hartOf (issuing s h i) h)).pc + insnLen c' = p)
    (hd : y.deferred = []) (hh : y.haltReq = false) (hs : y.stepping = false) (hw : wbit (csr y 0x7B0) 2 = false) :
    ran s (boundary (done (issuing s h i) h c' n f) h) h p y := by
  have hpc : (hartOf (issuing s h i) h).pc = (hartOf s h).pc := by simp
  have hdone : done (issuing s h i) h c' n f = setHart s h (retire (issuing s h i)
      { y with pc := p, cur := none, stalled := false, refused := none, useOld := false, lastPc := (hartOf s h).pc } n) := by
    have hx : ({ f (hartOf (issuing s h i) h) with pc := (f (hartOf (issuing s h i) h)).pc + (if c' then 2 else 4), cur := none, stalled := false, refused := none, useOld := false, lastPc := (hartOf (issuing s h i) h).pc } : Hart)
        = { y with pc := p, cur := none, stalled := false, refused := none, useOld := false, lastPc := (hartOf s h).pc } := by
      rw [hpc]
      have : (f (hartOf (issuing s h i) h)).pc + (if c' then 2 else 4) = p := hp
      rw [this]
      have e := congrArg (fun z : Hart => ({ z with pc := p, lastPc := (hartOf s h).pc } : Hart)) hy
      simpa [afresh] using e
    unfold done
    simp only []
    rw [hx]
    have hr := (retire_spec (issuing s h i) { y with pc := p, cur := none, stalled := false, refused := none, useOld := false, lastPc := (hartOf s h).pc } n).2 0x7B0 (by decide) (by decide)
    have hw' : wbit (csr (retire (issuing s h i) { y with pc := p, cur := none, stalled := false, refused := none, useOld := false, lastPc := (hartOf s h).pc } n) 0x7B0) 2 = false := by
      rw [hr]; exact hw
    simp only [hw', Bool.false_and, Bool.false_eq_true, if_false]
    simp [issuing]
  obtain ⟨hr1, hr2⟩ := retire_spec (issuing s h i) { y with pc := p, cur := none, stalled := false, refused := none, useOld := false, lastPc := (hartOf s h).pc } n
  rw [hdone]
  rw [boundary_quiet]
  · refine ⟨rfl, fun j hj => hartOf_setHart_other _ _ _ _ hj, ?_, ?_⟩
    · simpa using hr1
    · intro k h0 h2; simpa using hr2 k h0 h2
  all_goals (rw [hartOf_setHart_same, hr1]; assumption)

end Sys2Proof.Machine
end

