-- ==== Sys2Proof/Laws/Ops.lean ====
section
/-! SUPPORT. What the operations on registers and events change: the frame of a register write, a header, a message, an event, a
counter, and that frames compose. -/
namespace Sys2Proof.Machine
open Sys2Proof

theorem regsOnly_refl (s : State) : regsOnly s s := rfl

theorem regsOnly_trans {s t u : State} (h1 : regsOnly s t) (h2 : regsOnly t u) : regsOnly s u := by
  unfold regsOnly at *
  rw [h2]
  rw [h1]

theorem blocksOnly_refl (bs : List Blk) (s : State) : blocksOnly bs s s := ⟨fun _ _ => rfl, fun _ _ => rfl⟩

theorem blocksOnly_trans {bs : List Blk} {s t u : State} (h1 : blocksOnly bs s t) (h2 : blocksOnly bs t u) : blocksOnly bs s u :=
  ⟨fun k hk => (h2.1 k hk).trans (h1.1 k hk), fun c hc => (h2.2 c hc).trans (h1.2 c hc)⟩

theorem blocksOnly_mono {bs cs : List Blk} {s t : State} (h : blocksOnly bs s t) (hs : ∀ b ∈ bs, b ∈ cs) : blocksOnly cs s t :=
  ⟨fun k hk => h.1 k (fun b hb => hk b (hs b hb)), fun c hc => h.2 c (fun b hb => hc b (hs b hb))⟩

theorem regFrame_refl (bs : List Blk) (s : State) : regFrame bs s s := ⟨regsOnly_refl s, blocksOnly_refl _ s⟩

theorem regFrame_trans {bs : List Blk} {s t u : State} (h1 : regFrame bs s t) (h2 : regFrame bs t u) : regFrame bs s u :=
  ⟨regsOnly_trans h1.1 h2.1, blocksOnly_trans h1.2 h2.2⟩

theorem regFrame_mono {bs cs : List Blk} {s t : State} (h : regFrame bs s t) (hs : ∀ b ∈ bs, b ∈ cs) : regFrame cs s t :=
  ⟨h.1, blocksOnly_mono h.2 (by intro b hb; rcases List.mem_cons.1 hb with rfl | hb
                                · exact List.mem_cons_self
                                · exact List.mem_cons_of_mem _ (hs b hb))⟩

/-- The key of a field within its page lies in its block. -/
theorem keyInBlock_fkey {c : Blk} (b : Blk) {f : Field} {n k : Nat} (hc : inSpace c = true) (ho : f.off + f.stride * n < 4096) (hl : f.lo < 32) :
    keyInBlock b (fkey c f n k) = decide (b.slot = c.slot ∧ b.die = c.die) := by
  simp only [inSpace, Bool.and_eq_true, decide_eq_true_eq] at hc
  have h1 : fkey c f n k / (32 * 4096) = (k * 64 + c.die) * 65536 + c.slot := by unfold fkey; omega
  have h2 : fkey c f n k / (32 * 4096 * 65536) = k * 64 + c.die := by unfold fkey; omega
  unfold keyInBlock
  rw [h1, h2]
  have e1 : ((k * 64 + c.die) * 65536 + c.slot) % 65536 = c.slot := by omega
  have e2 : (k * 64 + c.die) % 64 = c.die := by omega
  rw [e1, e2]
  by_cases h3 : c.slot = b.slot <;> by_cases h4 : c.die = b.die <;> simp [h3, h4, eq_comm]

theorem mfind_wrF {s : State} {b : Blk} {f : Field} {v n k q : Nat} (h : q ≠ fkey b f n k) :
    mfind (wrF s b f v n k).fields q = mfind s.fields q := by
  simp [wrF, mfind_mput_other _ _ _ _ h]

theorem regFrame_wrF {bs : List Blk} {s : State} {b : Blk} {f : Field} {v n k : Nat} (hb : b ∈ xfb 0 :: bs) (hc : inSpace b = true)
    (ho : f.off + f.stride * n < 4096) (hl : f.lo < 32) : regFrame bs s (wrF s b f v n k) := by
  refine ⟨rfl, fun q hq => mfind_wrF ?_, fun _ _ => rfl⟩
  intro he
  have := hq b hb
  rw [he, keyInBlock_fkey b hc ho hl] at this
  simp at this

theorem regFrame_addF {bs : List Blk} {s : State} {b : Blk} {f : Field} {v n k : Nat} (hb : b ∈ xfb 0 :: bs) (hc : inSpace b = true)
    (ho : f.off + f.stride * n < 4096) (hl : f.lo < 32) : regFrame bs s (addF s b f v n k) := regFrame_wrF hb hc ho hl

theorem regFrame_setHdr {bs : List Blk} {s : State} {b : Blk} {h : Hdr} (hb : b ∈ xfb 0 :: bs) : regFrame bs s (setHdr s b h) :=
  ⟨rfl, fun _ _ => rfl, fun _ hc => hdrOf_setHdr_other _ _ _ _ (hc b hb)⟩

theorem regFrame_badWrite {bs : List Blk} {s : State} {b : Blk} (hb : b ∈ xfb 0 :: bs) : regFrame bs s (badWrite s b) := regFrame_setHdr hb

theorem regFrame_ite {bs : List Blk} {s a b : State} {c : Prop} [Decidable c] (ha : regFrame bs s a) (hb : regFrame bs s b) :
    regFrame bs s (if c then a else b) := by split <;> assumption

theorem regFrame_wakeFor (bs : List Blk) (s : State) (d n : Nat) (c : Option Instr) : regFrame bs s (wakeFor s d n c) := by
  have hx : xfb 0 ∈ xfb 0 :: bs := List.mem_cons_self
  have hs : inSpace (xfb 0) = true := by decide
  have h1 : regFrame bs s (if (mget {} s.doms (domKey d n)).waking then s
      else if domState s d n = 2 then addF s (xfb 0) XFB.WAKE_CNT.RET else addF s (xfb 0) XFB.WAKE_CNT.CG) := by
    split
    · exact regFrame_refl bs s
    · split
      · exact regFrame_addF hx hs (by decide) (by decide)
      · exact regFrame_addF hx hs (by decide) (by decide)
  have h2 : ∀ u, regFrame bs s u → regFrame bs s (if (mget {} s.doms (domKey d n)).held.length < 32 then u else addF u (xfb 0) XFB.WAKE_HOLD.COUNT) := by
    intro u hu
    split
    · exact hu
    · exact regFrame_trans hu (regFrame_addF hx hs (by decide) (by decide))
  exact regFrame_trans (h2 _ h1) ⟨rfl, fun _ _ => rfl, fun _ _ => rfl⟩

theorem regFrame_sendMsg (bs : List Blk) (s : State) (m : IrqMsg) : regFrame bs s (sendMsg s m) := by
  have h1 : regFrame bs s { s with irqs := s.irqs ++ [m] } := ⟨rfl, fun _ _ => rfl, fun _ _ => rfl⟩
  unfold sendMsg
  simp only []
  split
  · exact regFrame_trans h1 (regFrame_wakeFor bs _ _ _ _)
  · exact h1

theorem regFrame_sendEntry (bs : List Blk) (s : State) (src e : Nat) : regFrame bs s (sendEntry s src e) := by
  unfold sendEntry
  split
  · exact regFrame_sendMsg bs s _
  · exact regFrame_refl bs s

theorem outChange_host {s : State} {b : Blk} {old new again : Bool} (hb : b.die ≠ 24) :
    outChange s b old new again = if new && (!old || again) then sendEvt s b else s := by
  unfold outChange; rw [if_neg hb]

theorem regFrame_outChange {bs : List Blk} {s : State} {b : Blk} {old new again : Bool} (hb : b.die ≠ 24) : regFrame bs s (outChange s b old new again) := by
  rw [outChange_host hb]
  split
  · exact regFrame_sendEntry bs s _ _
  · exact regFrame_refl bs s

/-- Capturing an event changes the block's header, and sends what follows (R43, R53, R100). -/
theorem regFrame_capture {bs : List Blk} {s : State} {b : Blk} {n : Nat} (hb : b ∈ xfb 0 :: bs) (hd : b.die ≠ 24) : regFrame bs s (capture s b n) :=
  regFrame_trans (regFrame_setHdr hb) (regFrame_outChange hd)

theorem hdrOf_wrF (s : State) (b c : Blk) (f : Field) (v n k : Nat) : hdrOf (wrF s b f v n k) c = hdrOf s c := rfl
@[simp] theorem hdrs_wakeFor (s : State) (d n : Nat) (c : Option Instr) : (wakeFor s d n c).hdrs = s.hdrs := by
  unfold wakeFor; simp only []; split <;> split <;> try split
  all_goals rfl
@[simp] theorem hdrs_sendMsg (s : State) (m : IrqMsg) : (sendMsg s m).hdrs = s.hdrs := by
  unfold sendMsg; simp only []; split <;> simp
@[simp] theorem hdrs_sendEntry (s : State) (src e : Nat) : (sendEntry s src e).hdrs = s.hdrs := by
  unfold sendEntry; split <;> simp
@[simp] theorem hdrs_barSend (s : State) (d : Bool) (a b c : Nat) (w : Who) : (barSend s d a b c w).hdrs = s.hdrs := by
  unfold barSend; split
  · split <;> rfl
  · rfl
@[simp] theorem hdrs_outChange (s : State) (b : Blk) (o n a : Bool) : (outChange s b o n a).hdrs = s.hdrs := by
  unfold outChange sendEvt; split <;> split <;> simp

/-- The header of a block after an event of it is captured. -/
theorem hdrOf_capture (s : State) (b : Blk) (n : Nat) :
    hdrOf (capture s b n) b = { hdrOf s b with
      seq := if !(hdrOf s b).pend.getLsbD n || (hdrOf s b).seen then (hdrOf s b).seq + 1 else (hdrOf s b).seq,
      seen := (hdrOf s b).seen && !(!(hdrOf s b).pend.getLsbD n || (hdrOf s b).seen), pend := (hdrOf s b).pend ||| (1#24 <<< n),
      capt := mput (hdrOf s b).capt n (if !(hdrOf s b).pend.getLsbD n || (hdrOf s b).seen then (hdrOf s b).seq + 1 else (hdrOf s b).seq) } := by
  have : ∀ t u : State, t.hdrs = u.hdrs → hdrOf t b = hdrOf u b := by intro t u h; simp [hdrOf, h]
  unfold capture
  simp only []
  rw [this _ _ (hdrs_outChange _ _ _ _ _), hdrOf_setHdr_same]

theorem raised_capture {s : State} {b : Blk} {n : Nat} (hn : n < 24) : raised (capture s b n) b n := by
  unfold raised
  rw [hdrOf_capture]
  simp [hn]

/-- An event that is pending stays so when another is captured. -/
theorem raised_capture_of {s : State} {b : Blk} {n m : Nat} (h : raised s b m) : raised (capture s b n) b m := by
  unfold raised at *
  rw [hdrOf_capture]
  simp [h]

/-- A register of another block reads the same across a frame. -/
theorem rdF_regFrame {bs : List Blk} {s t : State} (h : regFrame bs s t) {c : Blk} {f : Field} {n k : Nat} (hc : inSpace c = true)
    (ho : f.off + f.stride * n < 4096) (hl : f.lo < 32) (hn : ∀ b ∈ xfb 0 :: bs, b ≠ c) : rdF t c f n k = rdF s c f n k := by
  have := h.2.1 (fkey c f n k) (by
    intro b hb
    rw [keyInBlock_fkey b hc ho hl]
    have := hn b hb
    simp only [decide_eq_false_iff_not]
    intro ⟨h1, h2⟩
    exact this (by cases b; cases c; simp_all))
  simp [rdF, mget, this]

/-- Capturing an event leaves the registers of every block alone but the wake counters. -/
theorem rdF_capture {s : State} {b c : Blk} {f : Field} {n m k : Nat} (hd : b.die ≠ 24) (hc : inSpace c = true)
    (ho : f.off + f.stride * m < 4096) (hl : f.lo < 32) (hx : c ≠ xfb 0) : rdF (capture s b n) c f m k = rdF s c f m k := by
  have hf : regFrame [] s (outChange s b (evtOut (hdrOf s b)) (evtOut (hdrOf s b))) := regFrame_outChange hd
  have h2 : ∀ h' : Hdr, ∀ o e : Bool, rdF (outChange (setHdr s b h') b o e) c f m k = rdF (setHdr s b h') c f m k := by
    intro h' o e
    exact rdF_regFrame (bs := []) (regFrame_outChange hd) hc ho hl (by intro b' hb'; simp at hb'; subst hb'; exact fun h => hx h.symm)
  unfold capture
  simp only []
  rw [h2]
  rfl

end Sys2Proof.Machine
end

