-- ==== Sys2Proof/Laws/Port.lean ====
section
/-! SUPPORT. A register address leads to its block, view and offset, and a 32-bit access by any master to the port there. -/
namespace Sys2Proof.Machine
open Sys2Proof

theorem regAddr_bounds {b : Blk} (hb : inSpace b = true) (v : View) (off : Nat) :
    0x0F00_0000_0000 ≤ regAddr b v off ∧ regAddr b v off < 0x0F10_0000_0000 := by
  simp only [inSpace, Bool.and_eq_true, decide_eq_true_eq] at hb
  unfold regAddr basePage
  cases v <;> simp only [viewNum] <;> omega

theorem hbmSize_le (s : State) : hbmSize s ≤ 0x30_0000_0000 := by
  unfold hbmSize
  split
  · omega
  · split
    · omega
    · exact Nat.div_le_self _ _

theorem zoneOf_regAddr {s : State} {b : Blk} (hb : inSpace b = true) (hd : s.ddrExp ≤ 42) (v : View) (off : Nat) :
    zoneOf s (regAddr b v off) = .regs := by
  obtain ⟨h1, h2⟩ := regAddr_bounds hb v off
  have h3 := hbmSize_le s
  have h4 : ddrSize s ≤ 2 ^ 42 := by
    unfold ddrSize
    split
    · exact Nat.pow_le_pow_right (by omega) hd
    · omega
  unfold zoneOf
  rw [if_neg (by omega), if_neg (by omega), if_neg (by omega), if_pos ⟨h1, h2⟩]

theorem regBlk_regAddr {b : Blk} (hb : inSpace b = true) (v : View) (off : Nat) : regBlk (regAddr b v off) = b := by
  simp only [inSpace, Bool.and_eq_true, decide_eq_true_eq] at hb
  obtain ⟨d, sl⟩ := b
  simp only [regBlk, regAddr, basePage, bits, Blk.mk.injEq]
  simp only [] at hb
  cases v <;> simp only [viewNum] <;> constructor <;> omega

theorem regView_regAddr {b : Blk} (hb : inSpace b = true) (v : View) (off : Nat) : regView (regAddr b v off) = v := by
  simp only [inSpace, Bool.and_eq_true, decide_eq_true_eq] at hb
  have : bits (regAddr b v off) 13 12 = viewNum v := by
    simp only [regAddr, basePage, bits]
    cases v <;> simp only [viewNum] <;> omega
  unfold regView
  rw [this]
  cases v <;> rfl

theorem regOff_regAddr {b : Blk} (hb : inSpace b = true) (v : View) (off : Nat) : bits (regAddr b v off) 11 0 = off % 0x1000 := by
  simp only [inSpace, Bool.and_eq_true, decide_eq_true_eq] at hb
  simp only [regAddr, basePage, bits]
  cases v <;> simp only [viewNum] <;> omega

theorem regWidthOk_four {w : Who} {a : Nat} (ha : a % 4 = 0) : regWidthOk w a 4 = true := by
  unfold regWidthOk
  split
  · simp [ha]
  · simp only [Bool.or_eq_true, Bool.and_eq_true, decide_eq_true_eq]; right; omega

theorem answers_die {s : State} {b : Blk} (h : answers s b = true) : b.die ≠ 24 := by
  unfold answers at h
  simp only [Bool.and_eq_true, decide_eq_true_eq] at h
  intro hb; simp [hb] at h

theorem viaBarrier_of_answers {s : State} {b : Blk} (h : answers s b = true) : viaBarrier s b = false := by
  simp [viaBarrier, answers_die h]

theorem regAddr_mod {b : Blk} (v : View) {off : Nat} (ho : off % 4 = 0) : regAddr b v off % 4 = 0 := by
  unfold regAddr basePage
  cases v <;> simp only [viewNum] <;> omega

theorem decodeOff_aligned (b : Blk) {off : Nat} (ho : off % 4 = 0) : decodeOff b off % 4 = 0 ∧ decodeOff b off / 4 * 4 = decodeOff b off := by
  have : decodeOff b off % 4 = 0 := by
    unfold decodeOff
    obtain ⟨k, hk⟩ : ∃ k, spanExp (typeOf b) = k + 2 := by
      have : 2 ≤ spanExp (typeOf b) := by unfold spanExp; split <;> omega
      exact ⟨spanExp (typeOf b) - 2, by omega⟩
    rw [hk, Nat.pow_add, show (2 ^ 2 : Nat) = 4 from rfl, Nat.mod_mul_left_mod]
    exact ho
  exact ⟨this, by omega⟩

theorem laneMask_15 : laneMask 15 = 2 ^ 32 - 1 := by decide

/-- A write at the port of a block of one whole word. -/
theorem regWriteGo_word (s : State) (w : Who) (b : Blk) (v : View) {off : Nat} (ho : off % 4 = 0) (x a : Nat) :
    regWriteGo s w b v off 4 x 15 a = portWrite (countRefused s w a true (refusals s b (decodeOff b off) w (2 ^ 32 - 1) true))
      b (decodeOff b off) w v (x % 2 ^ 32) 15 := by
  obtain ⟨h1, h2⟩ := decodeOff_aligned b ho
  have e1 : (15 * 2 ^ (decodeOff b off % 4) % 16) = 15 := by simp [h1]
  have e2 : x * 2 ^ (8 * (decodeOff b off % 4)) = x := by rw [h1]; simp
  unfold regWriteGo
  rw [if_neg (by decide)]
  simp only [h2, e1, e2, laneMask_15]

/-- A read at the port of a block of one whole word. -/
theorem regReadGo_word (s : State) (w : Who) (b : Blk) (v : View) {off : Nat} (ho : off % 4 = 0) (a : Nat) :
    regReadGo s w b v off 4 a = ((portRead (countRefused s w a false (refusals s b (decodeOff b off) w (2 ^ 32 - 1) false)) b (decodeOff b off) w v false).1 % 2 ^ 32,
      (portRead (countRefused s w a false (refusals s b (decodeOff b off) w (2 ^ 32 - 1) false)) b (decodeOff b off) w v false).2) := by
  obtain ⟨h1, h2⟩ := decodeOff_aligned b ho
  have e2 : ∀ r : Nat, r / 2 ^ (8 * (decodeOff b off % 4)) % 2 ^ (8 * 4) = r % 2 ^ 32 := by intro r; rw [h1]; simp
  unfold regReadGo
  rw [if_neg (by decide)]
  simp only [h2, e2]

theorem busWrite_regs {s : State} {w : Who} {a size x be : Nat} (hz : zoneOf s a = .regs) (hw : regWidthOk w a size = true)
    (hv : viaBarrier s (regBlk a) = false) :
    busWrite s w a size x be = (true, regWriteAt s w (regBlk a) (regView a) (bits a 11 0) size x be a) := by
  simp [busWrite, hz, hw, hv]

theorem busRead_regs {s : State} {w : Who} {a size : Nat} {back : List Nat} (hz : zoneOf s a = .regs) (hw : regWidthOk w a size = true)
    (hv : viaBarrier s (regBlk a) = false) :
    busRead s w a size back = (.val (regReadAt s w (regBlk a) (regView a) (bits a 11 0) size a).1,
      (regReadAt s w (regBlk a) (regView a) (bits a 11 0) size a).2) := by
  simp [busRead, hz, hw, hv]

theorem busWr_of {s t : State} {m : Master} {a size x be : Nat} (h : busWrite s (whoOf s m) a size x be = (true, t)) :
    busWr s m a size x be = respond t 0 := by
  unfold busWr; rw [h]; simp only [Bool.not_true]

theorem busRd_of {s t : State} {m : Master} {a size v : Nat} (h : busRead s (whoOf s m) a size [] = (.val v, t)) :
    busRd s m a size = respond t v := by
  unfold busRd; rw [h]

theorem regWriteAt_of {s : State} {w : Who} {b : Blk} {v : View} {off size x be a : Nat} (h : answers s b = true) :
    regWriteAt s w b v off size x be a = regWriteGo s w b v off size x be a := by
  unfold regWriteAt; rw [if_pos h]

theorem regReadAt_of {s : State} {w : Who} {b : Blk} {v : View} {off size a : Nat} (h : answers s b = true) :
    regReadAt s w b v off size a = regReadGo s w b v off size a := by
  unfold regReadAt; rw [if_pos h]

/-- A 32-bit write of a register whose block answers: the guards are counted, then the port takes the write. -/
theorem regWr_eq {s : State} {b : Blk} (hp : portOpen s b) (m : Master) {off : Nat} (ho : off % 4 = 0) (hlt : off < 0x1000) (x : Nat) (v : View) :
    regWr s m b off x v = respond (portWrite (countRefused s (whoOf s m) (regAddr b v off) true
      (refusals s b (decodeOff b off) (whoOf s m) (2 ^ 32 - 1) true)) b (decodeOff b off) (whoOf s m) v (x % 2 ^ 32) 15) 0 := by
  obtain ⟨h1, h2, h3⟩ := hp
  have hv : viaBarrier s (regBlk (regAddr b v off)) = false := by rw [regBlk_regAddr h1]; exact viaBarrier_of_answers h3
  have hw := busWrite_regs (x := x) (be := 15) (zoneOf_regAddr h1 h2 v off) (regWidthOk_four (w := whoOf s m) (regAddr_mod v ho)) hv
  rw [regBlk_regAddr h1, regView_regAddr h1, regOff_regAddr h1, Nat.mod_eq_of_lt hlt, regWriteAt_of h3, regWriteGo_word _ _ _ _ ho] at hw
  have hr : regWr s m b off x v = busWr s m (regAddr b v off) 4 x 15 := by unfold regWr; exact if_pos h1
  exact hr.trans (busWr_of hw)

/-- A 32-bit read through the base view of a register whose block answers. -/
theorem regRd_eq {s : State} {b : Blk} (hp : portOpen s b) (m : Master) {off : Nat} (ho : off % 4 = 0) (hlt : off < 0x1000) (r : Nat × State)
    (hr : portRead (countRefused s (whoOf s m) (regAddr b .base off) false (refusals s b (decodeOff b off) (whoOf s m) (2 ^ 32 - 1) false))
      b (decodeOff b off) (whoOf s m) .base false = r) :
    regRd s m b off = respond r.2 (r.1 % 2 ^ 32) := by
  obtain ⟨h1, h2, h3⟩ := hp
  have hv : viaBarrier s (regBlk (regAddr b .base off)) = false := by rw [regBlk_regAddr h1]; exact viaBarrier_of_answers h3
  have hw := busRead_regs (back := []) (zoneOf_regAddr h1 h2 .base off) (regWidthOk_four (w := whoOf s m) (regAddr_mod .base ho)) hv
  rw [regBlk_regAddr h1, regView_regAddr h1, regOff_regAddr h1, Nat.mod_eq_of_lt hlt, regReadAt_of h3, regReadGo_word _ _ _ _ ho, hr] at hw
  have hd : regRd s m b off = busRd s m (regAddr b .base off) 4 := by unfold regRd; exact if_pos h1
  exact hd.trans (busRd_of hw)

end Sys2Proof.Machine
end

