-- ==== Sys2Proof/WellFormed.lean ====
section
/-! DEFINITION. Well-formed commands: every operand lies in the range that the spec's encoding of it admits. The meanings are total
and do not depend on it. -/
namespace Sys2Proof

/-- An access size in bytes. -/
def sizeOk (n : Nat) : Bool := ([1, 2, 4, 8] : List Nat).contains n

/-- A hart below the largest logical hart count; a 7-bit regulated master number. -/
def Master.wf (m : Master) : Bool :=
  match m with
  | .hart h => decide (h < 240)
  | .warden | .engine => true
  | .io n _ => decide (n < 128)

/-- A 6-bit die ID and a 16-bit block slot (R36). -/
def Blk.wf (b : Blk) : Bool := decide (b.die < 64) && decide (b.slot < 65536)

/-- A port of the package and cluster positions of 4 bits (R354). -/
def YHdr.wf (m : YHdr) : Bool := decide (m.port < 4) && decide (m.src < 16) && decide (m.dst < 16)

/-- A cluster and a line of the 48-bit address space. -/
def CohReq.wf (r : CohReq) : Bool := decide (r.cl < 72) && decide (r.line < 2 ^ 42) && decide (r.pclass < 16)

/-- A register number or a 5-bit immediate. -/
def CsrSrc.wf (src : CsrSrc) : Bool :=
  match src with
  | .reg n => decide (n < 32)
  | .imm n => decide (n < 32)

/-- The straps (R435): two boot sources and a cluster position of 4 bits. -/
def Straps.wf (st : Straps) : Bool := decide (st.bootSrc < 2) && decide (st.clPos < 16)

/-- Register numbers of five bits, and a rounding mode of three. -/
def Insn.wf (i : Insn) : Bool :=
  match i with
  | .lui rd _ | .auipc rd _ | .jal rd _ => decide (rd < 32)
  | .jalr rd rs1 _ | .opImm _ rd rs1 _ => decide (rd < 32) && decide (rs1 < 32)
  | .branch _ rs1 rs2 _ => decide (rs1 < 32) && decide (rs2 < 32)
  | .op _ rd rs1 rs2 | .mul _ rd rs1 rs2 => decide (rd < 32) && decide (rs1 < 32) && decide (rs2 < 32)
  | .fp _ _ rm rd rs1 rs2 rs3 => decide (rm < 8) && decide (rd < 32) && decide (rs1 < 32) && decide (rs2 < 32) && decide (rs3 < 32)
  | .hint | .raw _ => true

/-- A command is well formed. -/
def Instr.wf (i : Instr) : Bool :=
  match i with
  | .instructionExecute h _ i => (decide (h < 240)) && i.wf
  | .load h _ rd rs1 _ size _ => (decide (h < 240)) && (decide (rd < 32)) && (decide (rs1 < 32)) && sizeOk size
  | .store h _ rs1 rs2 _ size _ => (decide (h < 240)) && (decide (rs1 < 32)) && (decide (rs2 < 32)) && sizeOk size
  | .amo h _ rd rs1 rs2 size => (decide (h < 240)) && (decide (rd < 32)) && (decide (rs1 < 32)) && (decide (rs2 < 32)) && sizeOk size
  | .lr h rd rs1 size => (decide (h < 240)) && (decide (rd < 32)) && (decide (rs1 < 32)) && sizeOk size
  | .sc h rd rs1 rs2 size => (decide (h < 240)) && (decide (rd < 32)) && (decide (rs1 < 32)) && (decide (rs2 < 32)) && sizeOk size
  | .fence h => (decide (h < 240))
  | .fenceI h => (decide (h < 240))
  | .sfenceVma h rs1 rs2 => (decide (h < 240)) && (decide (rs1 < 32)) && (decide (rs2 < 32))
  | .hfence h _ rs1 rs2 => (decide (h < 240)) && (decide (rs1 < 32)) && (decide (rs2 < 32))
  | .cboClean h rs1 => (decide (h < 240)) && (decide (rs1 < 32))
  | .cboFlush h rs1 => (decide (h < 240)) && (decide (rs1 < 32))
  | .cboInval h rs1 => (decide (h < 240)) && (decide (rs1 < 32))
  | .csrAccess h _ n rd src => (decide (h < 240)) && (decide (n < 4096)) && (decide (rd < 32)) && src.wf
  | .ecall h => (decide (h < 240))
  | .ebreak h _ => (decide (h < 240))
  | .mret h => (decide (h < 240))
  | .sret h => (decide (h < 240))
  | .wfi h => (decide (h < 240))
  | .keycall h _ => (decide (h < 240))
  | .keyret h => (decide (h < 240))
  | .syncCr h => (decide (h < 240))
  | .syncCrComplete h => (decide (h < 240))
  | .scanDone h rs1 => (decide (h < 240)) && (decide (rs1 < 32))
  | .interruptTake h => (decide (h < 240))
  | .timerCompare h _ => (decide (h < 240))
  | .hpmOverflow h n => (decide (h < 240)) && (decide (3 ≤ n) && decide (n < 32))
  | .l1MissFill h => (decide (h < 240))
  | .storeBufferDrain h => (decide (h < 240))
  | .streamTimeout h => (decide (h < 240))
  | .walkReadResponse h _ => (decide (h < 240))
  | .interruptMessageDeliver _ => true
  | .hubIpiWrite m _ => m.wf
  | .hubIpiSecWrite m _ => m.wf
  | .routeEntryWrite m _ => m.wf
  | .aplSrcWrite m k _ => m.wf && (decide (1 ≤ k) && decide (k < 32))
  | .aplicSourceEdge k _ => (decide (1 ≤ k) && decide (k ≤ 27))
  | .evtMaskWrite m b _ => m.wf && b.wf
  | .registerWrite m a _ _ => m.wf && (decide (a < 2 ^ 48))
  | .viewBitWrite m b _ off _ => m.wf && b.wf && (decide (off % 4 = 0) && decide (off < 4096))
  | .aliasWrite m b r n _ => m.wf && b.wf && (decide (r < 64)) && (decide (n < 32))
  | .evtStatRead m b => m.wf && b.wf
  | .evtAck m b _ => m.wf && b.wf
  | .clearOnRead m b off => m.wf && b.wf && (decide (off % 4 = 0) && decide (off < 4096))
  | .histSeqRead m => m.wf
  | .histAck m _ => m.wf
  | .histCfgWrite m _ => m.wf
  | .commitArm m b => m.wf && b.wf
  | .commitDiscard m b _ => m.wf && b.wf
  | .commitPoint b => b.wf
  | .softReset m b => m.wf && b.wf
  | .softResetDone b => b.wf
  | .rootLock d _ => (decide (d < 64))
  | .refLoss d => (decide (d < 64))
  | .lockdownHoldExpire => true
  | .syncPulse _ => true
  | .dvfsRaiseDone d n => (decide (d < 64)) && (decide (n < 6))
  | .dvfsSwitch d n => (decide (d < 64)) && (decide (n < 6))
  | .dvfsLowerDone d n => (decide (d < 64)) && (decide (n < 6))
  | .powerOnReset _ st => st.wf
  | .bootStart _ => true
  | .bootMemoryReady _ => true
  | .bootImageLoaded img => (decide (img.length ≤ 0x100000))
  | .hartResetDone h => (decide (h < 240))
  | .dieReadmit d _ => (decide (d < 64))
  | .swapPark h => (decide (h < 240))
  | .swapParkTimeout h => (decide (h < 240))
  | .swapComplete h => (decide (h < 240))
  | .homeRequest r _ => r.wf
  | .ioRequest m line _ pclass => m.wf && (decide (line < 2 ^ 42)) && (decide (pclass < 16))
  | .snoop cl line => (decide (cl < 72)) && (decide (line < 2 ^ 42))
  | .latchWindowEnd cl line => (decide (cl < 72)) && (decide (line < 2 ^ 42))
  | .snoopResponse cl line => (decide (cl < 72)) && (decide (line < 2 ^ 42))
  | .retryBackoffExpire cl line _ => (decide (cl < 72)) && (decide (line < 2 ^ 42))
  | .pendingServe line _ => (decide (line < 2 ^ 42))
  | .writeBack cl line => (decide (cl < 72)) && (decide (line < 2 ^ 42))
  | .hubCompletion tag gen _ _ => (decide (tag < 1024)) && (decide (gen < 256))
  | .ioTimeout tag => (decide (tag < 1024))
  | .domainWakeDone d n => (decide (d < 64)) && (decide (n < 6))
  | .flitHeaderUe d => (decide (d < 64))
  | .dirProbeGo m d => m.wf && (decide (d < 64))
  | .dirProbeDone d => (decide (d < 64))
  | .hingeTrainAttempt d i _ => (decide (d < 64)) && (decide (i < 16))
  | .hingeAttemptRetry d i => (decide (d < 64)) && (decide (i < 16))
  | .retrainRequest d i _ => (decide (d < 64)) && (decide (i < 16))
  | .recalGo m d i _ => m.wf && (decide (d < 64)) && (decide (i < 16))
  | .recalAuto d i md => (decide (d < 64)) && (decide (i < 16)) && (decide (md < 8))
  | .recalDone d i _ => (decide (d < 64)) && (decide (i < 16))
  | .hingeCrcFail d i => (decide (d < 64)) && (decide (i < 16))
  | .hingeReplayRate d i md => (decide (d < 64)) && (decide (i < 16)) && (decide (md < 8))
  | .hingeReplayExhausted d i md => (decide (d < 64)) && (decide (i < 16)) && (decide (md < 8))
  | .verticalPortFail d => (decide (d < 64))
  | .openSiteProfileRead _ => true
  | .wardTransaction _ _ => true
  | .openSiteTime => true
  | .ddrChannelLoss c => (decide (c < 8))
  | .resyncDone st => (decide (st < 8))
  | .scrubGo m b _ => m.wf && b.wf
  | .scrubAbort m b => m.wf && b.wf
  | .scrubLine b _ => b.wf
  | .scrubDone b => b.wf
  | .fillGo m _ => m.wf
  | .fillAbort m => m.wf
  | .fillDone => true
  | .regulationWindowStart => true
  | .monSelWrite m _ => m.wf
  | .classBoundary => true
  | .taskRelease => true
  | .delayedRelease => true
  | .taskDeadline => true
  | .tsDataWrite m _ => m.wf
  | .tsDataRead m => m.wf
  | .taskCheckPrepDone => true
  | .descWrite m _ => m.wf
  | .descRead m => m.wf
  | .descQueueApply => true
  | .viewWindowRead m v o size => m.wf && (decide (v < 64)) && (decide (o < 0x400_0000)) && sizeOk size
  | .viewWindowWrite m v o size _ _ => m.wf && (decide (v < 64)) && (decide (o < 0x400_0000)) && sizeOk size
  | .viewDmaLineIssue => true
  | .viewDmaComplete => true
  | .viewDmaFault => true
  | .viewReset m => m.wf
  | .viewResume m => m.wf
  | .logOvfClear m => m.wf
  | .logConsWrite m _ => m.wf
  | .splCtxInv m _ => m.wf
  | .splCtxInvDone => true
  | .link => true
  | .retry => true
  | .barrierReplayLimit => true
  | .inLine => true
  | .outLine => true
  | .safeLine => true
  | .outFlip => true
  | .segMap => true
  | .barrierTime _ => true
  | .regRd => true
  | .regWr => true
  | .regRsp => true
  | .fldRegTimeout tag => (decide (tag < 1024))
  | .fldEvent => true
  | .watchWake => true
  | .fwData _ => true
  | .fwAck => true
  | .barrierChannelFail => true
  | .barrierTrainAttempt mask => (decide (mask < 2 ^ 24))
  | .presend c => (decide (c < 8))
  | .fieldHello p _ _ _ _ _ => (decide (p < 8))
  | .cycIn p n gen _ slots => (decide (p < 8)) && (decide (n < 4096)) && (decide (gen < 256)) && (decide (slots.length % 32 = 0))
  | .bye p n gen => (decide (p < 8)) && (decide (n < 4096)) && (decide (gen < 256))
  | .sessionLostTimeout n => (decide (n < 4096))
  | .sessionRemovedCleanup n => (decide (n < 4096))
  | .announceExpire _ => true
  | .fieldLocalBoundary c => (decide (c < 8))
  | .gmAnnounce p _ _ => (decide (p < 8))
  | .ptpSyncSend p => (decide (p < 8))
  | .fieldPortLinkChange p _ => (decide (p < 8))
  | .watchWakeTimer => true
  | .watchPollTimeout => true
  | .fieldFwRestartDone _ => true
  | .vfldOutOfRange => true
  | .vfldInRange => true
  | .sregLoWrite m _ => m.wf
  | .sregHiWrite m _ => m.wf
  | .sregPropagateDone => true
  | .dbgCtrlWrite m _ => m.wf
  | .debugHaltRequest h => (decide (h < 240))
  | .debugResume h => (decide (h < 240))
  | .debugAbstractAccess h _ => (decide (h < 240))
  | .hostConfigRequest tag _ => (decide (tag < 1024))
  | .hostWindowRequest tag bar_ _ _ _ _ => (decide (tag < 1024)) && ([0, 2, 4, 6] : List Nat).contains bar_
  | .doorbellWrite n => (decide (n < 32))
  | .sepWinEnable m w _ => m.wf && (decide (w < 32))
  | .hostCompletion tag gen _ _ _ => (decide (tag < 1024)) && (decide (gen < 65536))
  | .sepReadTimeout tag => (decide (tag < 1024))
  | .hostIrqVector m n => m.wf && (decide (n < 32))
  | .hostIrqPme m => m.wf
  | .msixPendingSend => true
  | .bmeClear => true
  | .flr => true
  | .flrDone => true
  | .perstAssert => true
  | .hotReset => true
  | .sepLinkDown => true
  | .dstateChange _ => true
  | .deviceRequest p lnk rid _ _ _ _ => (decide (p < 4)) && (decide (lnk < 4)) && (decide (rid < 65536))
  | .deviceMsi p lnk rid _ => (decide (p < 4)) && (decide (lnk < 4)) && (decide (rid < 65536))
  | .intxMessage p x _ => (decide (p < 4)) && (decide (x < 4))
  | .rcxCompletion p tag gen _ _ _ => (decide (p < 4)) && (decide (tag < 1024)) && (decide (gen < 256))
  | .rcxLinkDown p l => (decide (p < 4)) && (decide (l < 4))
  | .rcxHoldWrite m p _ => m.wf && (decide (p < 4))
  | .rcxCtxInv m p _ => m.wf && (decide (p < 4))
  | .rcxCtxInvDone p => (decide (p < 4))
  | .ylkLinkUp p _ _ => (decide (p < 4))
  | .ylkTrainRetry p => (decide (p < 4))
  | .ylkLinkDown p => (decide (p < 4))
  | .ylkReplayLimit p => (decide (p < 4))
  | .ylkHelloTimer => true
  | .ylkHello m _ _ _ _ _ _ _ => m.wf
  | .ylkLeave m _ => m.wf
  | .managerElectTimeout => true
  | .memberTimeout n => (decide (n < 16))
  | .orphanTimeout => true
  | .ylkTimeTimer => true
  | .ylkTime m _ => m.wf
  | .ylkDelayTimer => true
  | .delayReq m _ => m.wf
  | .delayRsp m _ _ => m.wf
  | .catchupDone => true
  | .settingsTimer => true
  | .settings m _ _ => m.wf
  | .ylkIrq m _ _ _ => m.wf
  | .ylkWr m gen tag _ _ data => m.wf && (decide (gen < 256)) && (decide (tag < 1024)) && (decide (1 ≤ data.length) && decide (data.length ≤ 4))
  | .ylkCpl m gen tag _ => m.wf && (decide (gen < 256)) && (decide (tag < 1024))
  | .copyGo m p => m.wf && (decide (p < 4))
  | .copyAbort m p => m.wf && (decide (p < 4))
  | .pairReq m => m.wf
  | .pairAck m => m.wf
  | .aliveTimer => true
  | .alive m => m.wf
  | .replLine m c _ line slots => m.wf && (decide (c < 8)) && (decide (line < 16384)) && (decide (slots.length = 32))
  | .replImg m _ line slots => m.wf && (decide (line < 16384)) && (decide (slots.length = 32))
  | .replDesc m ds => m.wf && (decide (ds.length ≤ 8))
  | .replSess m rs => m.wf && (decide (rs.length ≤ 4))
  | .replEnd m c _ _ => m.wf && (decide (c < 8))
  | .grantCutoff c => (decide (c < 8))
  | .grant m c _ => m.wf && (decide (c < 8))
  | .handover m c _ => m.wf && (decide (c < 8))
  | .yield m => m.wf
  | .takeover m => m.wf
  | .mode c => (decide (c < 3))
  | .powerFailAssert => true
  | .powerFailTimeout => true
  | .mainRailsInRange => true
  | .mainRailOutOfRange => true
  | .vstbyOutOfRange => true
  | .brownout st => st.wf
  | .refclkAbsent st => st.wf
  | .domCtrlRequest m d n req => m.wf && (decide (d < 64)) && (decide (n < 6)) && (decide (req < 4))
  | .domainStateReached d n => (decide (d < 64)) && (decide (n < 6))
  | .gpio0WakeEdge => true
  | .i3cWake => true
  | .thermalSample _ => true
  | .powerSample _ => true
  | .info c => (decide (c < 3))
  | .clLeave c => (decide (c < 3))
  | .hartStart c => (decide (c < 3))
  | .hartPark c => (decide (c < 3))
  | .hartReset c => (decide (c < 3))
  | .swap c => (decide (c < 3))
  | .fenceCommand c => (decide (c < 3))
  | .dieReset c => (decide (c < 3))
  | .warmReset c => (decide (c < 3))
  | .fwStage c => (decide (c < 3))
  | .fwSwitch c => (decide (c < 3))
  | .fwHealthy => true
  | .fwHealthTimeout => true
  | .cfgRead c => (decide (c < 3))
  | .cfgStage c => (decide (c < 3))
  | .cfgCommit c => (decide (c < 3))
  | .lbxRead c => (decide (c < 3))
  | .sealRead c => (decide (c < 3))
  | .sealClear c => (decide (c < 3))
  | .lifeRead c => (decide (c < 3))
  | .fuse c => (decide (c < 3))
  | .lockstepMismatch => true
  | .wardenSramUe => true
  | .watchdogExpire => true
  | .managementPauseEnd => true
  | .lockboxRecordWrite => true
  | .lifetimeCheckpoint => true
  | .lbxRdSeqWrite m _ => m.wf
  | .lbxRdSlotWrite m _ => m.wf
  | .lbxLoadDone => true
  | .counterOverflow b i => b.wf && (decide (i < 8))
  | .chainedCounterRead m i => m.wf && (decide (i < 8))
  | .snapArm m => m.wf
  | .snapshotCopy => true
  | .snapDone => true
  | .bwWindowStart m => (decide (m < 16))
  | .powerFailDeassert => true
  | .perstDeassert => true
  | .sepLinkUp _ _ => true
  | .rcxLinkUp p l => (decide (p < 4)) && (decide (l < 4))
  | .l2OpDone d i => (decide (d < 64)) && (decide (i < 6))
  | .badBarrierFrame _ _ => true
  | .barrierLinkTimer => true
  | .ylkCrcFail p => (decide (p < 4))
  | .barrierLossHandover => true
  | .announcementsStop p => (decide (p < 8))
  | .jtagWarmReset => true
  | .jtagImageWritten _ _ _ => true
  | .deviceErrorMessage p lnk => (decide (p < 4)) && (decide (lnk < 4))
  | .supplyDroop r => (decide (r < 40))

end Sys2Proof
end

