-- ==== Sys2Proof/Tests/Slice0.lean ====
section
/-! SUPPORT. Tests. The witnesses `wit_…` show, for each statement, a state and operands that meet its hypotheses together, clause by
clause; the tests `test_…` check one step each, or that an ill-formed command is refused. -/
namespace Sys2Proof.Tests
set_option Elab.async false
open Sys2Proof Sys2Proof.Machine

/-- Every die of the variant in service. -/
def fitAll : Map Die := [0, 1, 2, 3, 4, 8, 9, 10, 11, 12, 13, 14, 15, 16, 17, 18, 19, 24, 28, 32, 33, 34, 35, 36, 37, 38, 39].map (fun d => (d, { st := 1, locked := true }))

/-- A package in mode `m` with every die in service and logical hart 0 running on core 0. -/
def pkg (m : Nat) : State :=
  { State.blank .f240 with
    fields := [(fkey (pwr 0) PWR.MODE.MODE 0 0, m)], dies := fitAll, harts := [(0, { run := .running })], hbmOn := true, ddrExp := 38,
    wd := { shippedWarden with railsOk := true } }

/-- The package in Run, and with hart 0 changed. -/
def put (s : State) (b : Blk) (f : Field) (v : Nat) (n : Nat := 0) (bank : Nat := 0) : State := wrF s b f v n bank
def run : State := pkg 4
def withHart (f : Hart → Hart) : State := setHart run 0 (f (hartOf run 0))

/-- An outcome that is known, as a check that can be evaluated. -/
def okIs {α β : Type} [DecidableEq β] (r : Except α β) (v : β) : Bool :=
  match r with
  | .ok x => decide (x = v)
  | .error _ => false

theorem okIs_eq {α β : Type} [DecidableEq β] {r : Except α β} {v : β} (h : okIs r v = true) : r = .ok v := by
  unfold okIs at h; split at h
  · exact congrArg _ (of_decide_eq_true h)
  · cases h

/-- `canIssue` as a check that can be evaluated. -/
def canIssueB (s : State) (h : Nat) (c : Bool) (i : Instr) : Bool :=
  decide (h < hartCount s) && ready (hartOf s h) && clusterOn s h && (hartOf s h).settle.isEmpty && (hartOf s h).deferred.isEmpty
    && !(hartOf s h).haltReq && !(hartOf s h).stepping && !wbit (csr (hartOf s h) 0x7B0) 2 && okIs (fetchCheck (issuing s h i) h c) (issuing s h i)

theorem canIssue_of {s : State} {h : Nat} {c : Bool} {i : Instr} (e : canIssueB s h c i = true) : canIssue s h c i := by
  simp only [canIssueB, Bool.and_eq_true, decide_eq_true_eq, List.isEmpty_iff, Bool.not_eq_true'] at e
  obtain ⟨⟨⟨⟨⟨⟨⟨⟨h1, h2⟩, h3⟩, h4⟩, h5⟩, h6⟩, h7⟩, h8⟩, h9⟩ := e
  exact ⟨h1, h2, h3, h4, h5, h6, h7, h8, okIs_eq h9⟩

/-- The state that a command leaves. -/
def after (c : Instr) (s : State) : State :=
  match exec c s with
  | .next t => t
  | _ => s

/-- Hart 0 with floating point on, an L2 line 1 of its cluster owned, in the L1 too. -/
def hartA : State :=
  { withHart (fun x => { setCsr x 0x300 0x2000 with l1d := [⟨1, 0, false⟩], x := [(1, 64), (2, 7), (3, 65)] }) with
    l2 := [(l2key 0 1, ⟨.m, 0xFFFF_FFFF_8000_0001, 0, false, 0, 0, none⟩)] }
def mHart : Master := .hart 0
/-- A command waiting on a channel of a package, with its first argument words. -/
def askS (s : State) (c code : Nat) (args : List Nat) : State :=
  setChan ((List.range args.length).foldl (fun (s : State) j => put s wdn (chArgF c) (args[j]?.getD 0) j) s) c { asked := some (code, 9) }
theorem asked_of {s : State} {c code tag : Nat} (h : (decide (c < 3) && decide ((chanOfW s c).asked = some (code, tag)) && !s.wd.pause && decide (modeOf s ≠ 0)
    && (List.range 3).all (fun e => decide (e = c) || decide ((chanOfW s e).code = 0))) = true) : asked s c code tag := by
  simp only [Bool.and_eq_true, decide_eq_true_eq, Bool.not_eq_true', List.all_eq_true, List.mem_range, Bool.or_eq_true] at h
  exact ⟨h.1.1.1.1, h.1.1.1.2, h.1.1.2, h.1.2, fun e he n => (h.2 e he).resolve_left n⟩
def recA : List Nat := [1, 0, 0, 0] ++ List.replicate 252 7

/-- Hart 0 in S-mode with the monitor's gate open, and in U-mode. -/
def hartS : State := withHart (fun x => { setCsr (setCsr (setCsr x 0x7D3 1) 0x3A0 0x1F) 0x3B0 0xFFFFFFFFFFFFFFFF with priv := .s })
def hartDet : State := withHart (fun x => { setCsr (setCsr x 0x7C3 1) 0x7C0 1 with active := true })

theorem wit_computation : canIssue hartA 0 false (.instructionExecute 0 false (.fp .add true 7 1 2 3 0))
    ∧ fpOff (hartOf hartA 0) = false ∧ rmOk (hartOf hartA 0) .add 7 = true ∧ sbEmpty (hartOf hartA 0) = true :=
  ⟨canIssue_of (by decide +kernel), by decide +kernel⟩

/-- A load, a store and the atomics on the owned line. -/
theorem wit_load : let i := Instr.load 0 false 5 1 0 8 (.int false)
    let u := issuing hartA 0 i
    let y := hartOf u 0
    let e := effOf y .load false false
    canIssue hartA 0 false i ∧ (y.active = false ∧ (64 : Word).toNat % 8 = 0 ∧ trigHit y .load 64 = none)
      ∧ translate u 0 .load 64 e = .ok (64, u) ∧ paCheck u 0 .load 64 64 e false = .ok u
      ∧ (isIo (zoneOf u 64) = false ∧ inWin y .load 64 = false ∧ forward y 64 8 = .none ∧ lineSecret u 0 1 (secureHart y) = (false, u)
        ∧ lineReady u 0 1 false false = (true, u) ∧ (lineLoad u 0 64 8).2 = false) :=
  ⟨canIssue_of (by decide +kernel), by decide +kernel, okIs_eq (by decide +kernel), okIs_eq (by decide +kernel), by decide +kernel⟩
theorem wit_store : let i := Instr.store 0 false 1 2 0 4 .int
    let u := issuing hartA 0 i
    let y := hartOf u 0
    let e := effOf y .store false false
    canIssue hartA 0 false i ∧ trigHit y .store 64 = none ∧ translate u 0 .store 64 e = .ok (64, u) ∧ paCheck u 0 .store 64 64 e false = .ok u
      ∧ (isIo (zoneOf u 64) = false ∧ inWin y .store 64 = false ∧ y.sb = []) :=
  ⟨canIssue_of (by decide +kernel), by decide +kernel, okIs_eq (by decide +kernel), okIs_eq (by decide +kernel), by decide +kernel⟩
theorem wit_amo : let i := Instr.amo 0 .add 5 1 2 8
    let u := issuing hartA 0 i
    canIssue hartA 0 false i ∧ (hartOf u 0).active = false ∧ atomicAt u 0 1 8 false true = .ok (.mem 64, u) :=
  ⟨canIssue_of (by decide +kernel), by decide +kernel, okIs_eq (by decide +kernel)⟩
theorem wit_lr : let i := Instr.lr 0 5 1 8
    canIssue hartA 0 false i ∧ atomicAt (issuing hartA 0 i) 0 1 8 true true = .ok (.mem 64, issuing hartA 0 i) :=
  ⟨canIssue_of (by decide +kernel), okIs_eq (by decide +kernel)⟩
theorem wit_sc : let i := Instr.sc 0 5 1 2 8
    canIssue hartA 0 false i ∧ atomicAt (issuing hartA 0 i) 0 1 8 false false = .ok (.mem 64, issuing hartA 0 i) ∧ (hartOf hartA 0).resv ≠ some 1 :=
  ⟨canIssue_of (by decide +kernel), okIs_eq (by decide +kernel), by decide +kernel⟩

theorem wit_fences : sbEmpty (hartOf run 0) = true ∧ canIssue run 0 false (.fence 0) ∧ canIssue run 0 false (.fenceI 0)
    ∧ canIssue run 0 false (.sfenceVma 0 1 0) ∧ canIssue run 0 false (.hfence 0 false 0 0) ∧ canIssue run 0 false (.hfence 0 true 0 2)
    ∧ ((hartOf run 0).virt = false ∧ (hartOf run 0).priv = .m) :=
  ⟨by decide +kernel, canIssue_of (by decide +kernel), canIssue_of (by decide +kernel), canIssue_of (by decide +kernel), canIssue_of (by decide +kernel),
    canIssue_of (by decide +kernel), by decide +kernel⟩
theorem wit_cbo : let i := Instr.cboFlush 0 1
    let u := issuing hartA 0 i
    let y := hartOf u 0
    canIssue hartA 0 false i ∧ (sbEmpty y = true ∧ y.active = false ∧ cboFault y .flush = none)
      ∧ translate u 0 .store (xr y 1) (effOf y .store false false) = .ok (64, u)
      ∧ (pmpOk y (effOf y .store false false).priv 64 .store = true ∧ isMem (zoneOf u 64) = true ∧ isIo (zoneOf u 64) = false ∧ hartA.sregPrev = []
        ∧ y.priv = .m) :=
  ⟨canIssue_of (by decide +kernel), by decide +kernel, okIs_eq (by decide +kernel), by decide +kernel⟩
theorem wit_csr : canIssue run 0 false (.csrAccess 0 .rs 0x340 3 (.reg 2))
    ∧ (csrFault (hartOf (issuing run 0 (.csrAccess 0 .rs 0x340 3 (.reg 2))) 0) 0x340 true = none
      ∧ iregFault (hartOf (issuing run 0 (.csrAccess 0 .rs 0x340 3 (.reg 2))) 0) 0x340 = none) :=
  ⟨canIssue_of (by decide +kernel), by decide +kernel⟩
theorem wit_traps : sbEmpty (hartOf hartA 0) = true ∧ canIssue hartA 0 false (.ecall 0) ∧ canIssue hartA 0 true (.ebreak 0 true)
    ∧ (csr (hartOf hartA 0) 0x7B0).toNat / 2 ^ 12 % 2 ^ 6 = 0 ∧ canIssue hartA 0 false (.instructionExecute 0 false (.raw 0))
    ∧ canIssue hartA 0 false (.load 0 false 5 3 0 4 (.int true)) ∧ canIssue hartA 0 false (.store 0 false 3 2 0 2 .int)
    ∧ (xr (hartOf hartA 0) 3).toNat % 2 ≠ 0 ∧ canIssue hartA 0 false (.amo 0 .swap 5 3 2 4) ∧ canIssue hartA 0 false (.sc 0 5 3 2 4)
    ∧ canIssue hartA 0 false (.lr 0 5 3 4) :=
  ⟨by decide +kernel, canIssue_of (by decide +kernel), canIssue_of (by decide +kernel), by decide +kernel, canIssue_of (by decide +kernel),
    canIssue_of (by decide +kernel), canIssue_of (by decide +kernel), by decide +kernel, canIssue_of (by decide +kernel), canIssue_of (by decide +kernel),
    canIssue_of (by decide +kernel)⟩
theorem wit_returns : let m := withHart (fun x => setCsr x 0x300 0x1800)
    sbEmpty (hartOf m 0) = true ∧ canIssue m 0 false (.mret 0) ∧ ((hartOf m 0).priv = .m ∧ wb (csr (hartOf m 0) 0x300) 12 11 = 3)
    ∧ canIssue run 0 false (.keyret 0) ∧ wb (csr (hartOf run 0) 0x300) 12 11 ≠ 3
    ∧ canIssue hartS 0 false (.sret 0) ∧ canIssue hartS 0 false (.keycall 0 1)
    ∧ ((hartOf hartS 0).priv = .s ∧ (hartOf hartS 0).virt = false ∧ wbit (csr (hartOf hartS 0) 0x300) 22 = false
      ∧ wbit (gov { hartOf hartS 0 with useOld := false } 0x7D3) 0 = true ∧ sbEmpty (hartOf hartS 0) = true) :=
  ⟨by decide +kernel, canIssue_of (by decide +kernel), by decide +kernel, canIssue_of (by decide +kernel), by decide +kernel,
    canIssue_of (by decide +kernel), canIssue_of (by decide +kernel), by decide +kernel⟩

/-- A deterministic hart in its window, with a report due and with a wake pending. -/
def hartD (wake done : Bool) : State :=
  { withHart (fun x => { setCsr (setCsr x 0x7C3 1) 0x7C0 1 with active := true, wakePend := wake, done := done, x := [(1, 0x85)], wakeInfo := 0x80000005 }) with
    scan := { owes := [⟨0, 5, 0, 7, 100⟩] } }

theorem wit_waits : canIssue run 0 false (.wfi 0) ∧ canIssue run 0 false (.syncCr 0)
    ∧ ((hartOf run 0).priv = .m ∧ (hartOf run 0).virt = false ∧ sbEmpty (hartOf run 0) = true)
    ∧ canIssue (hartD false false) 0 false (.scanDone 0 1) ∧ ((hartOf (hartD false false) 0).active = true ∧ (hartOf (hartD false false) 0).wakePend = false)
    ∧ canIssue (hartD true true) 0 false (.scanDone 0 1) ∧ ((hartOf (hartD true true) 0).wakePend = true ∧ (hartOf (hartD true true) 0).done = true) :=
  ⟨canIssue_of (by decide +kernel), canIssue_of (by decide +kernel), by decide +kernel, canIssue_of (by decide +kernel), by decide +kernel,
    canIssue_of (by decide +kernel), by decide +kernel⟩
def hartSync : State := withHart fun x => { setCsr x 0x7C0 1 with syncing := true, active := true, pend := true, old := [(0x7C0, 0)], cur := some (.syncCr 0) }
theorem wit_syncCr : let x := hartOf hartSync 0
    x.syncing = true ∧ sbEmpty x = true ∧ x.miss = none ∧ wbit (csr x 0x7B0) 2 = false ∧ x.deferred = [] ∧ x.haltReq = false ∧ x.stepping = false
      ∧ wbit (csr x 0x7C0) 0 = true ∧ x.active = true := by decide +kernel

/-- Hart 0 with a timer interrupt and a counter's overflow pending, and a message on its way. -/
def hartI : State :=
  { withHart (fun x => { setCsr (setCsr (setCsr x 0x300 8) 0x304 0xFFF) 0x7C8 0 with ovf := [3] }) with irqs := [⟨9, 0, 1, 5⟩] }
theorem wit_interrupt : let x := hartOf hartI 0
    clusterOn hartI 0 = true ∧ atBoundary x = true ∧ sbEmpty x = true ∧ x.walk = none ∧ x.miss = none ∧ x.run = .running ∧ x.deferred = []
      ∧ x.haltReq = false ∧ x.stepping = false ∧ (nextIrq hartI x).isSome = true := by decide +kernel
def hartT : State := withHart fun x => setCsr x 0x7C8 77
theorem wit_hartEvents : csr (hartOf hartT 0) 0x7C8 ≠ 0xFFFFFFFFFFFFFFFF#64 ∧ 3 ∈ (hartOf hartI 0).ovf ∧ hartI.irqs[0]? = some ⟨9, 0, 1, 5⟩
    ∧ ∀ q ∈ hartI.irqs.take 0, ¬ (q.src = 9 ∧ q.hart = 0 ∧ q.file = 1) := by decide +kernel

/-- Hart 0 waiting for line 1, with a store to its local store, with one to the owned line, and on a walk. -/
def hartM : State := { withHart (fun x => { x with miss := some 1, missOwn := true, cur := some (.store 0 false 1 2 0 4 .int) }) with
  l2 := [(l2key 0 1, ⟨.e, 5, 0, false, 0, 0, none⟩)] }
def sbOf (t : Tgt) : SbEntry := { pa := 64, mask := 15, data := 0x1234, tgt := t, size := 4, sec := true, who := {}, begun := false }
def hartL : State := withHart fun x => { x with sb := [sbOf .ls] }
def hartB : State := { hartA with harts := [(0, { hartOf hartA 0 with sb := [sbOf .mem] })] }
def walkA : Walk := 
  { ak := .load, va := 0x5000, priv := 1, hlvx := false, virt := false, vsOn := true, gOn := false, level := 0, table := 0, inG := false, gpa := 0
    gLevel := 0, gTable := 0, final := false, leaf := 0, leafExp := 0, addr := 0x2000 }
def hartW : State := { withHart (fun x => { setCsr x 0x180 (8 * 2 ^ 60) with priv := .s, walk := some walkA, cur := some (.load 0 false 5 0 0 4 (.int true)) }) with
  dram := writeBytes [] 0x2000 8 (0x24CF) }
theorem wit_fill : (hartOf hartM 0).miss = some 1 ∧ l1On (hartOf hartM 0) = true ∧ (hartOf hartM 0).l1d = [] ∧ wb (gov (hartOf hartM 0) 0x7C4) 15 8 ≠ 0
    ∧ ownedBy hartM (hartCl hartM 0) 1 = true := by decide +kernel
theorem wit_drain : (hartOf hartL 0).sb = [sbOf .ls] ∧ (hartOf hartL 0).miss = none ∧ clusterOn hartL 0 = true
    ∧ (hartOf hartB 0).sb = [sbOf .mem] ∧ (hartOf hartB 0).strm = {} ∧ capEff hartB 23 = false ∧ lineSecret hartB 0 1 true = (false, hartB)
    ∧ lineReady hartB 0 1 true true = (true, hartB) := by decide +kernel
theorem wit_walk : let x := hartOf hartW 0
    x.walk = some walkA ∧ hartW.sregPrev = [] ∧ l2Of hartW (hartCl hartW 0) (0x2000 / 64) = none ∧ (isSecure hartW 0x2000).1 = false
      ∧ (cohRead hartW 0x2000 8).2 = false ∧ pteOf (capEff hartW 18) (cohRead hartW 0x2000 8).1 0 = .leaf 0x9000 12
      ∧ permOk (0xCF) 1 (sumOf x false) (mxrOf x false) .load false = true ∧ sbEmpty x = true ∧ x.deferred = [] ∧ x.haltReq = false ∧ x.stepping = false := by
  decide +kernel

/-- The hub with a wired source entry, its wire active, and a route selected. -/
def regA : State := { run with
  fields := mput (mput (mput run.fields (fkey hub HUB.APL_SRC.ENTRY 3 0) 0xA0000005) (fkey hub HUB.ROUTE_SEL.DIE 0 0) 0) (fkey hub HUB.ROUTE_SEL.SLOT 0 0) 80
  wires := [4] }
theorem wit_ports : portOpen regA hub ∧ portOpen regA scn ∧ portOpen regA spl ∧ portOpen regA (mch 3) ∧ portOpen regA wdn ∧ portOpen regA sep := by
  unfold portOpen; decide +kernel
theorem wit_messages : entReserved regA (0x10005 + 2 ^ 31) = false ∧ entReserved regA (0 + 2 ^ 31) = true
    ∧ entReserved regA (0x10005 + 2 ^ 31 + 2 ^ 30) = false ∧ entReserved regA (2 ^ 31 + 2 ^ 30) = true ∧ (whoOf regA mHart).sec = true
    ∧ denied regA hub HUB.ROUTE.ENTRY 0 (whoOf regA mHart) true = false ∧ present regA ⟨0, 80⟩ = true
    ∧ (entReserved regA 0x80010005 || (entEn 0x80010005 && (entSm 0x80010005 ≠ 0 || bits 0x80010005 26 24 ≠ 0 || bit 0x80010005 11))) = false
    ∧ denied regA hub HUB.APL_SRC.ENTRY 27 (whoOf regA mHart) true = false ∧ reservedVal regA hub HUB.APL_SRC.ENTRY 27 0xB0010005 = false := by decide +kernel
theorem test_ipi : (after (.hubIpiWrite mHart 0x10005) regA).irqs = [⟨0x500000, 1, 1, 5⟩] := by decide +kernel
theorem test_wire : (after (.aplicSourceEdge 3 true) regA).irqs = [⟨0x400003, 0, 1, 5⟩] := by decide +kernel

/-- SCN with two events pending, the first one captured before the last reading, and a settling commit. -/
def regB : State := { setHdr run scn { hdrOf run scn with pend := 5, seq := 3, capt := [(0, 1), (2, 3)], arm := false, mask := 0 } with
  fields := mput run.fields (fkey hub HUB.ROUTE.ENTRY 0 (1 + 288)) 0x80010005 }
theorem wit_events : (∃ v : BitVec 32, ((hdrOf regB scn).seq - BitVec.ofNat 8 v.toNat).toNat < 128)
    ∧ (∃ v : BitVec 32, 128 ≤ ((hdrOf regB scn).seq - BitVec.ofNat 8 v.toNat).toNat) ∧ scn.die ≠ 24 ∧ portOpen regB scn :=
  ⟨⟨1, by decide +kernel⟩, ⟨100, by decide +kernel⟩, by decide, by unfold portOpen; decide +kernel⟩
theorem wit_headers : hasCm (typeOf scn) = true ∧ (whoOf run mHart).mach = true ∧ ((hdrOf run scn).secHold = true → (whoOf run mHart).sec = true)
    ∧ typeOf scn ∉ [1, 22, 23, 24] ∧ (hdrOf (after (.softReset mHart scn) run) scn).resetting = true := by decide +kernel
theorem test_evtAck : (hdrOf (after (.evtAck mHart scn 2) regB) scn).pend = 4 ∧ (after (.evtAck mHart scn 2) regB).irqs = [⟨bkey scn, 1, 1, 5⟩] := by decide +kernel
theorem test_capture : (hdrOf (capture regB scn 1) scn).seq = 4 ∧ (capture regB scn 1).irqs = [] := by decide +kernel

/-- A register of one field is written: one that is not shadowed (a scrubber's START_LO), a shadowed one (L3 ways), a reserved route of the Ward; a count of memory errors. -/
theorem wit_access : portOpen run (scb 8 0) ∧ regFields (scb 8 0) 0x40 = [(SCB.START_LO.ADDR, 0)] ∧ SCB.START_LO.ADDR.acc = .rw ∧ mayUse run mHart (scb 8 0) SCB.START_LO.ADDR 0
    ∧ ignoredVal run (scb 8 0) SCB.START_LO.ADDR 5 = false ∧ SCB.START_LO.ADDR.cm = false
    ∧ portOpen run (l3c 1) ∧ (regFields (l3c 1) 0x40).map (fun e => (e.1.cm, e.1.acc)) = [(true, .rw)]
    ∧ portOpen run wrd ∧ (regFields wrd 0x300).map (fun e => (e.1.cm, e.1.acc, reservedVal run wrd e.1 e.2 0xC0010005)) = [(true, .rw, true)]
    ∧ portOpen run (mch 3) ∧ regFields (mch 3) 0x40 = [(MCH.CE_CNT.COUNT, 0)] ∧ liveField run (mch 3) MCH.CE_CNT.COUNT 0 = none ∧ denied run (mch 3) MCH.CE_CNT.COUNT 0 (whoOf run mHart) false = false
    ∧ answers run (mch 8) = false ∧ viaBarrier run (mch 8) = false ∧ inSpace (mch 8) = true ∧ (whoOf run mHart).hart ≠ 0xFF := by
  unfold portOpen mayUse; decide +kernel
theorem test_view : rdF (after (.viewBitWrite mHart (scb 8 0) .set 0x40 0x80) (put run (scb 8 0) SCB.START_LO.ADDR 0x100)) (scb 8 0) SCB.START_LO.ADDR = 0x180 := by decide +kernel
theorem test_alias : rdF (after (.aliasWrite mHart (scb 8 0) 16 8 0) (put run (scb 8 0) SCB.START_LO.ADDR 0x100)) (scb 8 0) SCB.START_LO.ADDR = 0 := by decide +kernel

/-- The package with settings under which the engines start, and with the engines of `regD` under way. -/
def regC : State :=
  let s := put (put run hub HUB.CAP_EFF_LO.CAP 8) hub HUB.CAP_EFF_HI.CAP 32
  let s := put (put (put (put s (hng 1 0) HNG.TRAIN_STAT.STATE 2) (hng 1 0) HNG.TRAIN_STAT.WIDTH 8) (hng 1 0) HNG.TRAIN_STAT.MASK 255) (scb 0 8) SCB.END_LO.ADDR 4096
  put (put (put s fil FIL.LEN.LINES 2) fil FIL.DST_LO.ADDR 128) fil FIL.PAT_LO.PAT 0x0807_0605
theorem wit_engines : (whoOf regC mHart).mach = true ∧ portOpen regC (dirB 1) ∧ capEff regC 37 = true
    ∧ (portOpen regC (hng 1 0) ∧ hingeThere regC 1 0 = true ∧ rdF regC (hng 1 0) HNG.RECAL.BUSY ≠ 1 ∧ rdF regC (hng 1 0) HNG.TRAIN_STAT.STATE = 2
      ∧ 1 < rdF regC (hng 1 0) HNG.TRAIN_STAT.WIDTH ∧ (∀ r, r ∈ hingeRes 1 0 → guarSum regC r false ≤ rdF regC bwr BWR.CAPACITY.CAP r * (8 - 1) / 8) ∧ capEff regC 3 = true)
    ∧ (portOpen regC (scb 0 8) ∧ mfind regC.scrubs (bkey (scb 0 8)) = none ∧ scbAddr regC (scb 0 8) SCB.START_LO.ADDR SCB.START_HI.ADDR < 4096
      ∧ scbSize regC (scb 0 7) < scbAddr regC (scb 0 8) SCB.END_LO.ADDR SCB.END_HI.ADDR)
    ∧ portOpen regC fil ∧ regC.fill = none := by
  unfold portOpen; decide +kernel
/-- A scrub of stack 0 with a line to go, one that has ended, a fill of a local store, a flush of a cluster's L2. -/
def regD : State := { put (put regC (hcl 8 0) HCL.L2_OP.BUSY 1) (hcl 8 0) HCL.L2_OP.OP 2 with
  scrubs := [(bkey (scb 0 8), ⟨64, 64, false⟩), (bkey (scb 32 0), ⟨0, 4096, false⟩)], fill := some ⟨128, 2, 0x0102030405060708, 1, 0, {}⟩
  l2 := [(l2key 0 1, ⟨.s, 5, 0, false, 0, 0, none⟩)] }
theorem wit_work : (mfind regD.scrubs (bkey (scb 0 8))).isSome = true ∧ mfind regD.scrubs (bkey (scb 32 0)) = some ⟨0, 4096, false⟩ ∧ stackPair regD 0 = false
    ∧ regD.fill.isSome = true ∧ rdF regD (hcl 8 0) HCL.L2_OP.BUSY ≠ 0 ∧ present regD (hcl 8 0) = true := by decide +kernel
theorem wit_secure : portOpen run hub ∧ (whoOf run mHart).sec = true ∧ (whoOf run (.io 3 false)).sec = false ∧ (∀ h, (hartOf run h).run ≠ .halted) :=
  ⟨by unfold portOpen; decide +kernel, by decide +kernel, by decide +kernel, fun h => by
    cases h with
    | zero => decide +kernel
    | succ n => simp [hartOf, run, pkg, mget, mfind]⟩
/-- Counters: a chained pair of SCN with a count, a snapshot armed, one whose values are taken. -/
def regE : State :=
  let b := ctrBank scn
  let s := put (put (put run ctr CTR.EVSEL.CHAIN 1 1 b) ctr CTR.CNT_LO.COUNT 7 0 b) ctr CTR.CNT_LO.COUNT 9 1 b
  let s := put (put (put s ctr CTR.EVSEL.EVENT 0x10 0 b) ctr CTR.EVSEL.EVENT 0x70 2 b) ctr CTR.SEL.SLOT scn.slot
  { put (put s ctr CTR.SNAP_CTL.ARM 1) ctr CTR.BW_CFG.EN 1 1 with bw := { snapped := true } }
theorem wit_counters : portOpen regE ctr ∧ (present regE scn = true ∧ (hdrOf regE scn).cntFreeze = false ∧ exactEv (typeOf scn) (ctrEvent regE scn 2) = false
      ∧ chained regE scn 2 = false ∧ chained regE scn 3 = false ∧ ctrVal regE scn 2 < 2 ^ 48)
    ∧ rdF regE ctr CTR.SNAP_CTL.ARM ≠ 0 ∧ regE.bw.snapped = true ∧ mfind regE.bw.mons 0 = none ∧ ctrSel regE = scn
    ∧ exactEv (typeOf scn) (ctrEvent regE scn 0) = true ∧ chained regE scn 0 = false ∧ chained regE scn 1 = true ∧ ctrVal regE scn 0 = 7 := by
  unfold portOpen; decide +kernel
theorem test_chained : (after (.chainedCounterRead mHart 0) regE).resp.val % 2 ^ 48 = 7 ∧ rdF (after (.chainedCounterRead mHart 0) regE) ctr CTR.HOLD_LO.COUNT = 9 := by decide +kernel

/-- Registers that start something: a domain, the Lockbox, invalidations, a window of the Service Endpoint, the port of the host. -/
def regF : State :=
  let s := put (put (put run (clk 8) CLK.CLU_CFG.DET_FLOOR 0 1) hub HUB.CAP_EFF_LO.CAP 1024) sep SEP.STAT.LINK_UP 1
  { put (put s sep SEP.STAT.BME 1) sep SEP.STAT.PERST 1 with
    spl := { inv := some (some 5) }, io := { bar2 := 20, msixEn := true, msix := [(0, 0x40), (48, 0x50)], inv := [(1, some 7)] } }
/-- A window too small to be enabled. -/
def regF2 : State := put run sep SEP.WIN_LO.SIZE_EXP 11 5
theorem wit_acting : (whoOf regF mHart).mach = true ∧ portOpen regF (pwr 8) ∧ isDomain 8 1 = true ∧ 4 ≤ modeOf regF ∧ modeOf regF ≤ 6 ∧ domMaySleep regF 8 1 = true
    ∧ domMaySleep run 8 1 = false ∧ portOpen regF lbx ∧ portOpen regF bwr ∧ portOpen regF spl ∧ run.spl.inv = none ∧ regF.spl.inv = some (some 5) ∧ portOpen regF (rcx 2)
    ∧ mfind regF.io.inv 2 = none ∧ mfind regF.io.inv 1 = some (some 7) ∧ portOpen regF sep
    ∧ winBad (wrF regF sep SEP.WIN_CTRL.BAR 0 5) 5 = false ∧ winEn regF 5 = false ∧ winBad (wrF regF2 sep SEP.WIN_CTRL.BAR 0 5) 5 = true
    ∧ sepCan regF = true ∧ vecMasked regF 3 = false ∧ vecMasked run 3 = true := by
  unfold portOpen; decide +kernel
theorem test_window : winEn (after (.sepWinEnable mHart 5 0x80000003) regF) 5 = true ∧ rdF (after (.sepWinEnable mHart 5 0x80000003) regF2) sep SEP.WIN_CTRL.REFUSED 5 = 1 := by decide +kernel
/-- SPL's descriptor queue full, the address of a task in the store with INC, a histogram copied. -/
def regG : State :=
  let s := put (put (put (put run spl SPL.DESC_ADDR.INDEX 9) spl SPL.DESC_ADDR.INC 1) scn SCN.TS_ADDR.OFFSET 0x8001) scn SCN.TS_ADDR.INC 1
  { put (put s scn SCN.HIST_SEL.CLASS 2) scn SCN.HIST_BIN.COUNT 4 1 3 with spl := { dq := List.replicate 256 (0, 0) }, scan := { hist := [(65, 6)] } }
theorem wit_indexed : portOpen regG spl ∧ portOpen regG scn ∧ (whoOf regG mHart).mach = true ∧ run.spl.dq.length < 256 ∧ 256 ≤ regG.spl.dq.length
    ∧ 0x40000 ≤ rdF regG scn SCN.TS_ADDR.OFFSET * 8 ∧ taskOn run 0 = false ∧ taskOnSh run 0 = false ∧ (5 : Nat) % 256 ≠ rdF regG scn SCN.HIST_SEQ.SEQ 0 3 := by
  unfold portOpen; decide +kernel
theorem test_histAck : mget 0 (after (.histAck mHart 0) regG).scan.hist 65 = 2 := by decide +kernel

/-- View 3 of 64 slots from slot 1024 with every right, its ring at 0x8000, one buffer with its header out and one line gone. -/
def dmaA (line : Nat) (hdr : Bool) : Dma := { seq := 7, gt := 4096, gen := 0, base := 1024, cnt := 64, inn := true, out := false, hdr := hdr, line := line, pages := [], poison := false }
def viewA : State :=
  let p := fun (s : State) f v => wrF s spl f v 0 4
  let s := [SPL.VIEW_CFG.EN, SPL.VIEW_CFG.R_IN, SPL.VIEW_CFG.R_OUT, SPL.VIEW_CFG.W_OUT, SPL.VIEW_CFG.W_SAFE, SPL.VIEW_CFG.W_FORCE].foldl (fun s f => p s f 1) run
  let s := p (p (p (p s SPL.VIEW_BASE.VALUE 1024) SPL.VIEW_CNT.VALUE 64) SPL.DMA_RING_LO.GPA 8) SPL.LOG_BASE_LO.LOG_EXP 9
  { put (put s spl SPL.VIEW_SEL.VIEW 3) spl SPL.DMA_RATE.UNITS 9 with spl := { arr := writeBytes [] (curOff run false 1030) 2 0x8ABC, dma := [(3, dmaA 1 true)], bad := [curOff run true 1031] } }
/-- One with its header still to come, and a ring outside memory; one with all lines accepted. -/
def viewB : State := { wrF viewA spl SPL.DMA_RING_HI.GPA 0x300 0 4 with spl := { viewA.spl with dma := [(3, dmaA 0 false)] } }
def viewC : State := { viewA with spl := { viewA.spl with dma := [(3, dmaA 2 true)] } }
def okPa (r : Except GErr Nat × State) : Option Nat := match r.1 with
  | .ok a => some a
  | .error _ => none
theorem wit_views : portOpen viewA spl ∧ (whoOf viewA mHart).sec = true ∧ viewA.ddrExp ≤ 42
    ∧ (vw viewA SPL.LOG_PROD.COUNT 3 + 2 ^ 32 - 0) % 2 ^ 32 ≤ 2 ^ vw viewA SPL.LOG_BASE_LO.LOG_EXP 3
    ∧ ¬ (vw viewA SPL.LOG_PROD.COUNT 3 + 2 ^ 32 - 5) % 2 ^ 32 ≤ 2 ^ vw viewA SPL.LOG_BASE_LO.LOG_EXP 3
    ∧ (∀ j, j < 4 → viewDenied viewA (whoOf viewA mHart) 3 (8 + 2 * j) false = false ∧ (viewSlot viewA 3 (8 + 2 * j)).2 = false)
    ∧ viewDenied viewA (whoOf viewA mHart) 3 128 false = true ∧ (viewSlot viewA 3 0x10000E).2 = true ∧ viewDenied viewA (whoOf viewA mHart) 3 0x10000E false = false
    ∧ vw viewA SPL.VIEW_BASE.VALUE 3 + 6 + 4 ≤ 524288 := by unfold portOpen; decide +kernel
theorem wit_viewDma : dmaView viewA = some (3, dmaA 1 true) ∧ dmaRoom viewA = true ∧ okPa (gTrans viewA (viewWho viewA 3) (viewHgatp viewA 3) (dmaNext viewA 3 (dmaA 1 true)) needWrite) = some 0x8080
    ∧ dmaView viewB = some (3, dmaA 0 false) ∧ dmaRoom viewB = true ∧ okPa (gTrans viewB (viewWho viewB 3) (viewHgatp viewB 3) (dmaNext viewB 3 (dmaA 0 false)) needWrite) = none
    ∧ viewC.spl.dma.find? (fun e => e.2.hdr && decide (dmaLines e.2 ≤ e.2.line)) = some (3, dmaA 2 true) := by decide +kernel
theorem test_viewRead : (after (.viewWindowRead mHart 3 8 8) viewA).resp = ⟨false, 0x8ABC00000000⟩ := by decide +kernel

/-- PWR of the hub with a shadow of THROT and an armed commit; one of a value out of range; a secure-held one with a normal write. -/
def cmA (v : Nat) (sec normal : Bool) : State :=
  { setHdr run (pwr 0) { hdrOf run (pwr 0) with arm := true, secHold := sec } with shadow := [(fkey (pwr 0) PWR.THERM_CFG.THROT 0 0, ⟨v, normal, {}⟩)] }
def cmB : State := { setHdr run bwr { arm := true, enable := false } with spl := { dq := [(5, 0x123), (1024, 7)] }, chkBusy := [4, 5] }
theorem wit_commit : (hdrOf (cmA 90 false true) (pwr 0)).arm = true ∧ canCommit (cmA 90 false true) (pwr 0) = true ∧ hasBoundary (cmA 90 false true) (pwr 0) = false
    ∧ taintOf (runTo (cmA 90 false true) 32) (pwr 0) = none ∧ ownCheck (runTo (cmA 90 false true) 32) (pwr 0) = 0 ∧ ((runTo (cmA 90 false true) 32).shadow.map (·.1)).Nodup
    ∧ ownCheck (runTo (cmA 69 false true) 32) (pwr 0) = 1 ∧ taintOf (runTo (cmA 90 true true) 32) (pwr 0) ≠ none
    ∧ (hdrOf cmB bwr).arm = true ∧ canCommit cmB bwr = true ∧ hasBoundary cmB bwr = false ∧ taintOf (runTo cmB 32) bwr = none
    ∧ (hdrOf run scn).arm = false ∧ segClass cmB 0 = none ∧ (5, 0x123) ∈ cmB.spl.dq ∧ ∀ e ∈ cmB.spl.dq, e.2 < 65536 := by decide +kernel
theorem test_commit : rdF (after (.commitPoint (pwr 0)) (cmA 90 false true)) (pwr 0) PWR.THERM_CFG.THROT = 90
    ∧ (hdrOf (after (.commitPoint (pwr 0)) (cmA 69 false true)) (pwr 0)).reason = 1 := by decide +kernel
/-- Class 2 running with a period of 1 ms, and a task of it in its scan whose hart 0 waits, released at 40000 and due at 48000. -/
def runA (f : Hart → Hart) (r : TaskRun → TaskRun) : State :=
  { withHart (fun x => f { setCsr x 0x7C3 1 with active := true, run := .scanWait, core := 0 }) with
    gtime := 100, scan := { cls := [(2, { on := true, next := 1, begun := true })], runs := [(5, r ⟨2, 32000, 2 ^ 54, 1000 + 2000 * 2 ^ 32, 0, true, false, false⟩)], ts := [(64 * 5 + 48, 9)] } }
def scanA : State := runA id id
def scanB : State := { scanA with scan := { scanA.scan with push := [⟨5, 2, 0, 1, 0, 8, 0, 0, 255, 0⟩] } }
def scanC : State := runA (fun x => { x with run := .running }) id
def scanD : State := runA (fun x => { x with active := false }) id
def scanE (flags : Byte) : State := { scanA with scan := { scanA.scan with ts := putByte scanA.scan.ts (64 * 5 + 56) flags, late := [⟨0, 5, 2, 9, 48000⟩] } }
def scanF : State := { pkg 7 with scan := scanA.scan, bar := { ldHold := some 0 } }
theorem wit_scan : nextBoundary scanA = some 800000 ∧ 4 ≤ modeOf scanA ∧ modeOf scanA ≤ 6 ∧ (hdrOf scanA scn).arm = false ∧ (hdrOf scanA spl).arm = false ∧ clsNext scanA 2 = 800000 ∧ (clsOf scanA 2).last = false
    ∧ nextBoundary scanF = some 800000 ∧ modeOf scanF = 7 ∧ scanF.bar.ldHold.isSome = true
    ∧ powered scanA = true ∧ scanA.scan.push = [] ∧ scanA.scan.pull = [] ∧ scanA.io.held = [] ∧ (hdrOf scanA bwr).arm = false ∧ (∀ k, k < 4 → (hdrOf scanA (l3c (1 + k))).arm = false)
    ∧ scanOn scanA = true ∧ (soonest (scanA.scan.runs.filter (fun e => !e.2.relDone)) relAt).isSome = true ∧ scanA.scan.push.any (fun l => l.task = 5) = false
    ∧ scanB.scan.push.any (fun l => l.task = 5) = true ∧ (hartOf scanA 0).active = true ∧ (hartOf scanA 0).rst = none ∧ hartDieUp (runTo scanA 40000) 0 = true ∧ (hartOf scanA 0).run = .scanWait
    ∧ (hartOf scanC 0).run = .running ∧ (hartOf scanC 0).wakePend = false ∧ (hartOf scanD 0).active = false
    ∧ (scanE 0).scan.late.find? (fun o => !(scanE 0).scan.push.any (fun l => l.task = o.task)) = some ⟨0, 5, 2, 9, 48000⟩
    ∧ (soonest ((scanE 9).scan.runs.filter (fun e => !e.2.dlDone)) dlAt).isSome = true ∧ bit (taskFlags (scanE 9) 5) 2 = false ∧ bit (taskFlags (scanE 9) 5) 0 = true ∧ bit (taskFlags (scanE 9) 5) 3 = true
    ∧ bit (taskFlags (scanE 1) 5) 0 = true ∧ bit (taskFlags (scanE 1) 5) 3 = false ∧ bit (taskFlags (scanE 1) 5) 4 = false ∧ outSlices 0 = []
    ∧ (clsOf scanA 2).on = true ∧ (clsOf scanA 2).begun = true ∧ modeOf scanA ≠ 5 := by decide +kernel
theorem test_release : (hartOf (after .taskRelease scanA) 0).run = .running ∧ (after .taskRelease scanA).gtime = 40000 := by decide +kernel

/-- A line in the L3 with a directory entry, and what waits for it. -/
def reqA (k : ReqKind) : CohReq := { cl := 3, line := 64, kind := k, sec := false, pclass := 0 }
def entA (d : DirSt) (vec : List Nat) (own : Nat) (b : Option Txn) : L3Line := { data := 5, poison := 0, valid := true, dirty := false, dst := d, vec := vec, owner := own, way := 2, pclass := 0, sec := false, busy := b }
def cohS (e : L3Line) : State := { run with l3 := [(64, e)] }
def txnA (w : TxnFor) (l : List Nat) : Txn := { what := w, wait := l }
theorem wit_home : domState run (1 + homeDie run 4096) 0 = 0 ∧ domState (put run (pwr (1 + homeDie run 4096)) PWR.DOM_CTRL.STATE 1) (1 + homeDie run 4096) 0 ≠ 0 ∧ run.sregPrev = []
    ∧ (isSecure run 4096).1 = false ∧ (isSecure { run with sregs := [(0, ⟨4096, 12, true⟩)] } 4096).1 = true ∧ isMem (zoneOf run 4096) = true ∧ isMem (zoneOf run (2 ^ 47)) = false
    ∧ (entA .shared [3, 7] 0 none).vec.filter (· ≠ 3) ≠ [] ∧ (named (entA .shared [3] 0 none)).filter (· ≠ 3) = [] ∧ (named (entA .owned [3] 9 none)).filter (· ≠ 3) ≠ []
    ∧ named (entA .uncached [] 0 none) = [] ∧ (whoOf run (.io 5 false)).sec = false ∧ (whoOf run mHart).sec = true := by decide +kernel
/-- A snoop that finds a copy, an M copy inside its window, a write-back under way, nothing; a held snoop. -/
def snpS (l : Option L2Line) (w : List WrBack) : State := { run with
  snps := [⟨3, 64, true⟩], wbs := w, l2 := match l with
    | some l => [(l2key 3 64, l)]
    | none => [] }
theorem wit_snoop : (snpS none []).snps.find? (fun p => p.cl = 3 && p.line = 64) = some ⟨3, 64, true⟩ ∧ l2Of (snpS none []) 3 64 = none
    ∧ (snpS none [⟨3, 64, 9, 0, false, false⟩]).wbs.find? (fun w => w.cl = 3 && w.line = 64 && !w.answered) = some ⟨3, 64, 9, 0, false, false⟩
    ∧ l2Of (snpS (some ⟨.m, 5, 0, false, 0, 7, some true⟩) []) 3 64 = some ⟨.m, 5, 0, false, 0, 7, some true⟩ := by decide +kernel
/-- An answer, a retry, a waiting request and a write-back at the home. -/
def ansS (b : Option Txn) : State := { cohS (entA .exclusive [] 3 b) with
  rsps := [⟨3, 64, true, some (9, 0)⟩], retries := [⟨reqA .read, 16⟩], pendq := [(64, reqA .own)], wbs := [⟨3, 64, 9, 0, false, false⟩] }
def reqB : CohReq := { reqA .own with cl := 8 }
theorem wit_answer : (ansS none).rsps.find? (fun p => p.cl = 3 && p.line = 64) = some ⟨3, 64, true, some (9, 0)⟩ ∧ sDel [3] 3 = [] ∧ sDel [3, 7] 3 ≠ []
    ∧ mfind (ansS (some (txnA (.req reqB) [3]))).l3 64 = some (entA .exclusive [] 3 (some (txnA (.req reqB) [3])))
    ∧ (ansS none).retries.find? (fun r => r.req.cl = 3 && r.req.line = 64) = some ⟨reqA .read, 16⟩ ∧ (ansS none).pendq.find? (fun q => q.1 = 64) = some (64, reqA .own)
    ∧ wbAhead { ansS none with wbs := [] } 3 64 = false ∧ wbAhead run 3 64 = false
    ∧ (ansS none).wbs.find? (fun w => w.cl = 3 && w.line = 64) = some ⟨3, 64, 9, 0, false, false⟩ := by decide +kernel
theorem test_snoopResponse : (l2Of (after (.snoopResponse 3 64) (ansS (some (txnA (.req reqB) [3])))) 8 64).map (fun l => (l.st, l.data)) = some (.m, 9) := by decide +kernel
theorem test_homeRead : (l2Of (after (.homeRequest (reqA .read) .good) (cohS (entA .shared [7] 0 none))) 3 64).map (fun l => (l.st, l.data)) = some (.s, 5) := by decide +kernel
/-- A directory probe of line 64, at its home and at another die. -/
def prbS (d : Nat) : State := { put (cohS (entA .owned [7] 3 none)) (dirB d) DIR.PROBE_LO.ADDR 64 with probes := [(d, { num := 0 })] }
theorem wit_probe : mfind (prbS 1).probes 1 = some { num := 0 } ∧ (prbS 1).sregPrev = [] ∧ rdF (prbS 1) (dirB 1) DIR.PROBE_LO.ADDR * 64 = 4096 ∧ 1 + homeDie (prbS 1) 4096 = 1
    ∧ mfind (prbS 2).l3 64 = some (entA .owned [7] 3 none) := by decide +kernel

def mailA (c code : Nat) (args : List Nat) : State := askS { run with wd := { run.wd with ring := [(1, recA)], seals := [(5, recA)], seq := 1 } } c code args
theorem wit_mailReads : asked (mailA 1 0x01 []) 1 0x01 9 ∧ (asked (mailA 2 0x70 [0x1E7000]) 2 0x70 9 ∧ argByte (mailA 2 0x70 [0x1E7000]) 2 2 = 30 ∧ argNum (mailA 2 0x70 [0x1E7000]) 2 0 2 = 0x7000)
    ∧ (asked (mailA 1 0x60 [0xFFFFFFFF]) 1 0x60 9 ∧ ringRec (mailA 1 0x60 [0xFFFFFFFF]) 1 = some recA ∧ recA.length = 256 ∧ ringRec (mailA 1 0x60 [2]) 2 = none)
    ∧ (asked (mailA 0 0x61 [5]) 0 0x61 9 ∧ mfind (mailA 0 0x61 [5]).wd.seals 5 = some recA ∧ mfind (mailA 0 0x61 [6]).wd.seals 6 = none) ∧ asked (mailA 0 0x62 []) 0 0x62 9 :=
  ⟨asked_of (by decide +kernel), ⟨asked_of (by decide +kernel), by decide +kernel⟩, ⟨asked_of (by decide +kernel), by decide +kernel⟩, ⟨asked_of (by decide +kernel), by decide +kernel⟩,
    asked_of (by decide +kernel)⟩
theorem wit_turnedAway : asked (mailA 1 0x20 []) 1 0x20 9 ∧ asked (mailA 2 0x80 []) 2 0x80 9 := ⟨asked_of (by decide +kernel), asked_of (by decide +kernel)⟩
/-- Hart 0 parked, for a start; running at a boundary, for the other commands; in a reset. -/
def hartP (c code : Nat) (args : List Nat) (x : Hart) : State := askS (put { run with harts := [(0, x)], wd := { run.wd with spares := [5] } } hub HUB.CAP_EFF_LO.CAP (2 ^ 25)) c code args
theorem wit_mailHarts : asked (hartP 0 0x20 [0, 0, 0x1000] {}) 0 0x20 9 ∧ running (hartP 0 0x20 [0, 0, 0x1000] {}) = true ∧ dieUp run 8 = true ∧ argByte (hartP 0 0x20 [0, 0, 0x1000] {}) 0 0 = 0
    ∧ asked (hartP 1 0x21 [0] { run := .running, priv := .s }) 1 0x21 9 ∧ secHeld (hartP 1 0x21 [0] { run := .running, priv := .s }) (hartHcl (hartP 1 0x21 [0] { run := .running, priv := .s }) 0) = false
    ∧ atBoundary { run := .running, priv := .s } = true ∧ secureHart { run := .running, priv := .s } = false ∧ asked (hartP 2 0x22 [0] {}) 2 0x22 9
    ∧ asked (hartP 1 0x23 [0xFFFF0000] {}) 1 0x23 9 ∧ capEff (hartP 1 0x23 [0xFFFF0000] {}) 25 = true ∧ argNum (hartP 1 0x23 [0xFFFF0000] {}) 1 2 2 = 0xFFFF
    ∧ chooseSpare (hartP 1 0x23 [0xFFFF0000] {}) 0 = some 1 ∧ 5 ∈ freeSpares (hartP 1 0x23 [0x50000] {}) 8 :=
  ⟨asked_of (by decide +kernel), by decide +kernel, by decide +kernel, by decide +kernel, asked_of (by decide +kernel), by decide +kernel, by decide +kernel, by decide +kernel,
    asked_of (by decide +kernel), asked_of (by decide +kernel), by decide +kernel, by decide +kernel, by decide +kernel, by decide +kernel⟩
theorem test_hartStart : let t := after (.hartStart 0) (hartP 0 0x20 [0, 0, 0x1000] {})
    (hartOf t 0).run = .running ∧ (hartOf t 0).pc = 0x1000 := by decide +kernel
/-- Hart 0 asked to swap to core 5. -/
def swpS (x : Hart) : State := setChan { run with harts := [(0, x)], lstore := [(7, 3)] } 1 { code := 0x23, names := [unitHart 0], arg := 5 }
theorem wit_swap : swapOf (swpS {}) 0 = some 1 ∧ detHart (swpS {}) 0 = false ∧ sbEmpty {} = true ∧ swapOf (swpS { run := .swapping }) 0 = some 1 ∧ memWf (swpS {}).lstore = true
    ∧ detHart (swpS { csr := [(0x7C0, 1)] }) 0 = true ∧ swapOf (swpS { csr := [(0x7C0, 1)] }) 0 = some 1 ∧ (hartOf (swpS { rst := some [2] }) 0).rst = some [2] := by decide +kernel

/-- A fenced die, a die to be fenced, a block held by the secure world. -/
def unitS (c code : Nat) (args : List Nat) : State :=
  askS { setHdr (put (put run hub HUB.MEM_CFG.MODE 1) (hng 0 0) HNG.TRAIN_STAT.STATE 2) (pwr 11) { secHold := true } with dies := mput run.dies 19 { st := 2, reason := 5 }, harts := [(0, {})] } c code args
theorem wit_units : asked (unitS 1 0x30 [19 * 256]) 1 0x30 9 ∧ running (unitS 1 0x30 [19 * 256]) = true ∧ hasDie (unitS 1 0x30 [19 * 256]) 19 = true ∧ dieUp (unitS 1 0x30 [19 * 256]) 19 = false
    ∧ asked (unitS 1 0x30 [11 * 256]) 1 0x30 9 ∧ dieUp (unitS 1 0x30 [11 * 256]) 11 = true ∧ heldAmong (unitS 1 0x30 [11 * 256]) (withDie 11) = some (pwr 11)
    ∧ heldAmong (unitS 1 0x30 [24 * 256]) (withDie 24) = none ∧ dieAllowed (takenUp (unitS 1 0x30 [24 * 256]) 1 0x30 9 (dieNames 24)) 24 = true
    ∧ asked (unitS 2 0x31 [19]) 2 0x31 9 ∧ canReturn (unitS 2 0x31 [19]) 19 = true ∧ asked (unitS 0 0x32 []) 0 0x32 9 ∧ warmOk (unitS 0 0x32 []) = true :=
  ⟨asked_of (by decide +kernel), by decide +kernel, by decide +kernel, by decide +kernel, asked_of (by decide +kernel), by decide +kernel, by decide +kernel, by decide +kernel, by decide +kernel,
    asked_of (by decide +kernel), by decide +kernel, asked_of (by decide +kernel), by decide +kernel⟩
def cfgS (code : Nat) (args : List Nat) : State := askS { run with harts := [] } 0 code args
theorem wit_config : asked (cfgS 0x50 [1, 0, 4096, 0, 16]) 0 0x50 9 ∧ argNum (cfgS 0x50 [1, 0, 4096, 0, 16]) 0 16 4 = 16 ∧ memRange (cfgS 0x50 [1, 0, 4096, 0, 16]) 4096 16 = true
    ∧ asked (cfgS 0x51 [1, 0, 4096, 0, 16]) 0 0x51 9 ∧ (ioReadBytes (takenUp (cfgS 0x51 [1, 0, 4096, 0, 16]) 0 0x51 9 []) (whoOf run .warden) 4096 16).1 = (List.replicate 16 0, false)
    ∧ asked (cfgS 0x80 [5, 0x46555345]) 0 0x80 9 ∧ argNum (cfgS 0x80 [5, 0x46555345]) 0 4 4 = 0x46555345 ∧ argByte (cfgS 0x80 [5, 0x46555345]) 0 0 < 16 :=
  ⟨asked_of (by decide +kernel), by decide +kernel, by decide +kernel, asked_of (by decide +kernel), by decide +kernel, asked_of (by decide +kernel), by decide +kernel, by decide +kernel⟩
/-- A copy's validity does not depend on the four bytes of its CRC. -/
theorem cfgValid_tail (m : Map Byte) (v : Nat) : cfgValid ⟨writeBytes m 0xFFC 4 v, true⟩ = cfgValid ⟨m, true⟩ := by
  have hb : ∀ a, a < 0xFFC → byteAt (writeBytes m 0xFFC 4 v) a = byteAt m a := fun a h => byteAt_writeBytes_other _ _ _ _ _ (.inl h)
  have hr : ∀ n a, a + n ≤ 0xFFC → readBytes (writeBytes m 0xFFC 4 v) a n = readBytes m a n := by
    intro n
    induction n with
    | zero => intro a _; rfl
    | succ n ih => intro a h; simp only [readBytes]; rw [hb a (by omega), ih (a + 1) (by omega)]
  have hm : mapOnce ⟨writeBytes m 0xFFC 4 v, true⟩ = mapOnce ⟨m, true⟩ := by
    have : (List.range 240).map (cfgCore ⟨writeBytes m 0xFFC 4 v, true⟩) = (List.range 240).map (cfgCore ⟨m, true⟩) :=
      List.map_congr_left fun h hh => hr 2 _ (by have := List.mem_range.mp hh; omega)
    simp only [mapOnce, this]
  have hp : (List.range 4).all (fun p => decide (cfgByte ⟨writeBytes m 0xFFC 4 v, true⟩ (0x90 + p) ≤ 4)) = (List.range 4).all (fun p => decide (cfgByte ⟨m, true⟩ (0x90 + p) ≤ 4)) := by
    simp only [cfgByte, List.range, List.range.loop, List.all_cons, List.all_nil, hb 0x90 (by decide), hb 0x91 (by decide), hb 0x92 (by decide), hb 0x93 (by decide), Nat.add_zero, Nat.reduceAdd]; rfl
  unfold cfgValid
  rw [hm, hp]
  simp only [cfgNum, cfgByte, hr 4 0 (by decide), hr 2 4 (by decide), hr 4 12 (by decide), hb 0x80 (by decide), hb 0x100 (by decide)]
  rfl
/-- A copy with no map but the one it is given. -/
def mapS : State := { cfgS 0x52 [] with harts := [(0, { core := 7 }), (1, { core := 9 })] }
theorem wit_commitCfg : asked mapS 0 0x52 9 ∧ cfgValid { bytes := cfgWithMap mapS (cfgCopy mapS 0).bytes 2, ok := true } = true := by
  refine ⟨asked_of (by decide +kernel), ?_⟩
  unfold cfgWithMap
  extract_lets b1 b2 b3 b4 len upto
  have hu : upto = 0xFFC ∧ cfgValid ⟨b4, true⟩ = true := by decide +kernel
  rw [hu.1, cfgValid_tail]
  exact hu.2
/-- A firmware image at 4096 of no length, a switch under way, a pause, a part without an image. -/
def fwS (code : Nat) (args : List Nat) : State := askS { run with harts := [], dram := writeBytes [] 4096 4 0x57464E49 } 0 code args
def fwImg : List Nat := [0x49, 0x4E, 0x46, 0x57] ++ List.replicate 60 0
theorem wit_firmware : asked (fwS 0x40 [0, 0, 4096, 0, 64]) 0 0x40 9 ∧ (ioReadBytes (takenUp (fwS 0x40 [0, 0, 4096, 0, 64]) 0 0x40 9 [unitFw 0]) (whoOf run .warden) 4096 64).1 = (fwImg, false)
    ∧ imageOk fwImg 0x100000 = true ∧ asked (fwS 0x41 []) 0 0x41 9 ∧ (bankOfW (fwS 0x41 []) 1).ok = true ∧ run.wd.railsOk = true ∧ run.wd.latched = [] ∧ chooseBank [(0, { ok := false }), (1, { ok := false })] = none
    ∧ modeOf run ≠ 0 ∧ run.wd.switching = none :=
  ⟨asked_of (by decide +kernel), by decide +kernel, by decide +kernel, asked_of (by decide +kernel), by decide +kernel, by decide +kernel, by decide +kernel, by decide +kernel, by decide +kernel,
    by decide +kernel⟩
/-- FW_ACK frames on the way to the hub, with `n` blocks outstanding. -/
def ackS (tag n : Nat) : State := setChan { run with bar := { toHost := { out := [⟨0x602, 0, tag, 0, {}⟩] } }, fld := { switching := some 1 } } 0 { code := 0x40, arg := n + 3 * 2 ^ 48 }
theorem wit_fieldFw : (arrive (ackS 0 1) false [0x602]).1 = some ⟨0x602, 0, 0, 0, {}⟩ ∧ (List.range 3).find? (fun c => (chanOfW (arrive (ackS 0 1) false [0x602]).2 c).code = 0x40) = some 0
    ∧ (ackS 0 1).fld.switching = some 1 ∧ (ackS 0 1).fld.waiting = [] ∧ bit (2 ^ 16) 16 = true := by decide +kernel
def lbA (n : Nat) : LbxRec := ⟨n, false, 0, 0xFF, 5, 4, [1], false⟩
def lbS (k : Nat) (l : List LbxRec) : State := { run with lbq := l, lbDrop := 3, wd := { run.wd with loadWait := some k, ring := [(1, recA)], seq := 1 } }
theorem wit_lockbox : (lbS 2 [lbA 7]).wd.loadWait = some 2 ∧ ringRec (lbS 2 [lbA 7]) 1 = some recA ∧ ringRec (lbS 4 []) 2 = none ∧ mfind (lbS 5 []).wd.seals 2 = none ∧ (lbS 2 []).lbDrop ≠ 0 := by decide +kernel
theorem test_record : (after .lockboxRecordWrite (lbS 2 [lbA 7])).wd.seq = 2 ∧ (after .lockboxRecordWrite (lbS 2 [lbA 7])).lbq.map (·.code) = [0xFE] := by decide +kernel

/-- A MODE command to mode `to` in mode `m`, the state otherwise `s`; a class that runs. -/
def modS (m dest : Nat) (f : State → State) : State := askS (f { pkg m with l2 := [(l2key 0 1, ⟨.e, 5, 0, false, 0, 0, none⟩)], dram := [(4096, 1)] }) 1 0x10 [dest]
def clsA (s : State) : State := { s with scan := { cls := [(2, { on := true, next := 1 })] } }
def stby (s : State) : State := put (put s y0 YLK.CL_CFG.MGR_SEL 1) y0 YLK.CL_STAT.JOIN 2
theorem wit_mode : asked (modS 4 6 clsA) 1 0x10 9 ∧ modeOf (modS 4 6 clsA) = 4 ∧ rdF (modS 4 6 clsA) (pwr 0) PWR.MODE.TRANS = 0 ∧ argByte (modS 4 6 clsA) 1 0 = 6 ∧ pairState (modS 4 6 clsA) = 0
    ∧ clsOn (modS 4 6 clsA) = [2] ∧ asked (modS 6 4 id) 1 0x10 9 ∧ clsOn (modS 6 4 id) = [] ∧ mgrSel (modS 4 5 stby) = true ∧ joinOf (modS 4 5 stby) = 2 ∧ clRole (modS 4 5 stby) ≠ 1
    ∧ asked (modS 5 4 id) 1 0x10 9 ∧ pairState (modS 5 4 id) ≠ 2 ∧ joinOf (modS 5 4 id) ≠ 2 ∧ heldMain (modS 4 1 id) = none ∧ fldUp (modS 4 2 (fun s => put s (fld 9) FLD.WATCH_CFG.EN 1)) = true
    ∧ rdF (modS 4 2 (fun s => put s (fld 9) FLD.WATCH_CFG.EN 1)) (fld 9) FLD.WATCH_CFG.EN = 1 ∧ (4, 7) ∉ [(4, 6), (6, 4), (4, 5), (5, 4), (4, 1), (4, 2)] :=
  ⟨asked_of (by decide +kernel), by decide +kernel, by decide +kernel, by decide +kernel, by decide +kernel, by decide +kernel, asked_of (by decide +kernel), by decide +kernel, by decide +kernel,
    by decide +kernel, by decide +kernel, asked_of (by decide +kernel), by decide +kernel, by decide +kernel, by decide +kernel, by decide +kernel, by decide +kernel, by decide⟩
def fail (m : Nat) : State := { pkg m with wd := { (pkg m).wd with pwrFail := true, pfAt := some 7 } }
def rails (m : Nat) (f : Bool) : State := { pkg m with wd := { (pkg m).wd with railsOk := false, pwrFail := f } }
theorem wit_supplies : run.wd.pwrFail = false ∧ 3 ≤ modeOf run ∧ (fail 4).wd.pfAt = some 7 ∧ (fail 4).wd.pwrFail = true ∧ modeOf (fail 1) = 1 ∧ (fail 1).wd.railsOk = true ∧ (chooseBank (fail 1).wd.banks).isSome = true
    ∧ (rails 2 true).wd.railsOk = false ∧ modeOf (rails 2 true) = 2 ∧ (rails 2 false).wd.pwrFail = false ∧ powered (fail 4) = true ∧ run.wd.pause = false ∧ modeOf (pkg 0) = 0 ∧ powered run = true := by
  decide +kernel
/-- WATCH_WAKE on its way in Watch, with every wake source enabled. -/
def wakeS (p : Bool) : State :=
  let s := put (put (put (pkg 2) (pwr 0) PWR.WAKE_CFG.WATCH 1) (pwr 0) PWR.WAKE_CFG.I3C 1) (pwr 0) PWR.WAKE_CFG.GPIO0 1
  { s with bar := { toHost := { out := [⟨0x501, 0, 0, 0, {}⟩] } }, wd := { s.wd with pause := p } }
theorem wit_wake : lowMode (wakeS false) = true ∧ (wakeS false).wd.wakeAt = none ∧ (arrive (wakeS false) false [0x501]).1 = some ⟨0x501, 0, 0, 0, {}⟩ ∧ rdF (wakeS false) (pwr 0) PWR.WAKE_CFG.WATCH = 1
    ∧ rdF (wakeS false) (pwr 0) PWR.WAKE_CFG.I3C = 1 ∧ rdF (wakeS false) (pwr 0) PWR.WAKE_CFG.GPIO0 = 1 ∧ (wakeS true).wd.pause = true := by decide +kernel
def ddrS : State := put run hub HUB.MEM_CFG.DDR_EN 1
theorem wit_fatal : powered ddrS = true ∧ ddrS.wd.pause = false ∧ hasRoot 8 = true ∧ dieUp ddrS 8 = true ∧ present ddrS (xfb 1) = true ∧ 0 < ddrChans ddrS ∧ ({ run with bar := { ldHold := some 9 } } : State).bar.ldHold = some 9 := by
  decide +kernel
theorem test_lockdown : modeOf (after (.refLoss 8) run) = 7 ∧ (after (.refLoss 8) run).lbq.map (·.code) = [0xF0, 0x03] := by decide +kernel

/-- Cluster 2 of die 9 with a change of operating point at step `k`, its voltage level and DIV. -/
def dvS (k lev div : Nat) : State := { put (put run (clk 9) CLK.CLU_STAT.VLEVEL lev 2) (clk 9) CLK.CLU_CFG.DIV div 2 with gtime := 100, dvfs := [(domKey 9 2, k)] }
theorem wit_clocks : hasRoot 19 = true ∧ fitted run.variant 19 = true ∧ powered run = true ∧ dieUp run 8 = true ∧ ([(8, (-3 : Int))].find? (fun e => e.1 = 8)) = some (8, -3) ∧ clusterThere (dvS 1 1 0) 9 2 = true
    ∧ rdF (dvS 1 1 0) (clk 9) CLK.CLU_STAT.VLEVEL 2 < volTarget (dvS 1 1 0) 9 2 ∧ volTarget (dvS 2 2 1) 9 2 < rdF (dvS 2 2 1) (clk 9) CLK.CLU_STAT.VLEVEL 2
    ∧ rdF (dvS 2 1 0) (clk 9) CLK.CLU_STAT.VLEVEL 2 ≤ volTarget (dvS 2 1 0) 9 2 ∧ mfind (dvS 3 2 1).dvfs (domKey 9 2) = some 3 ∧ mfind (dvS 2 2 1).dvfs (domKey 9 2) = some 2 := by decide +kernel
theorem test_dvfs : (after (.dvfsSwitch 9 2) (dvS 2 2 1)).gtime = 192 := by decide +kernel
/-- Die 9 throttling, or at the critical temperature nine times; the package limited. -/
def hotS (n : Nat) : State := { put run (pwr 9) PWR.THERM_STAT.CAUSING 1 with wd := { run.wd with crit := [(9, n)], limiting := true, samples := List.replicate 100 679 } }
theorem wit_heat : powered (hotS 9) = true ∧ dieUp (hotS 9) 9 = true ∧ (hotS 9).wd.pause = false ∧ rdF (hotS 9) (pwr 9) PWR.THERM_STAT.CAUSING = 1 ∧ rdF run (pwr 9) PWR.THERM_STAT.CAUSING ≠ 1
    ∧ rdF run (pwr 9) PWR.THERM_CFG.THROT ≤ 107 ∧ mget 0 (hotS 9).wd.crit 9 = 9 ∧ (hotS 9).wd.limiting = true ∧ ((679 :: (hotS 9).wd.samples).take 100).foldl (· + ·) 0 < 68000
    ∧ 68000 ≤ ((779 :: (hotS 9).wd.samples).take 100).foldl (· + ·) 0 ∧ run.wd.limiting = false := by decide +kernel
/-- A domain on its way to a state; one woken by a packet. -/
def domS (g : Nat) : State := { run with doms := [(domKey 2 0, { goal := some g, waking := true, heldTx := [⟨.pin, 9, []⟩] }), (domKey 9 1, { goal := some g })] }
theorem wit_domains : (mget ({} : Dom) (domS 2).doms (domKey 2 0)).goal = some 2 ∧ (mget ({} : Dom) (domS 2).doms (domKey 9 1)).goal = some 2 ∧ (mget ({} : Dom) (domS 0).doms (domKey 2 0)).held = []
    ∧ (mget ({} : Dom) (domS 0).doms (domKey 2 0)).waking = true := by decide +kernel

/-- A package in Boot at a step, and what bring-up finds. -/
def bootS (n : Nat) (w : Bool) : State := { pkg 3 with harts := [], wd := { (pkg 3).wd with bootStep := n, warm := w } }
def findA (a : Bool) : BootFind := { up := [0, 1, 2, 3, 4, 8, 9], revs := [], caps := [], hinges := [], vports := [], spares := [5], copyA := a, copyB := false }
theorem wit_boot : modeOf (bootS 0 false) = 3 ∧ (bootS 0 false).wd.pfAt = none ∧ (bootS 0 false).wd.bootStep = 0 ∧ (bootS 0 false).wd.pause = false
    ∧ chooseOf ((findA true).copyA && cfgValid (cfgCopy (bootS 0 false) 0)) ((findA true).copyB && cfgValid (cfgCopy (bootS 0 false) 1)) (cfgSeq (bootS 0 false) 0) (cfgSeq (bootS 0 false) 1) = some 0
    ∧ chooseOf ((findA false).copyA && cfgValid (cfgCopy (bootS 0 false) 0)) ((findA false).copyB && cfgValid (cfgCopy (bootS 0 false) 1)) (cfgSeq (bootS 0 false) 0) (cfgSeq (bootS 0 false) 1) = none
    ∧ (bootS 1 false).wd.bootStep = 1 ∧ (bootS 2 true).wd.warm = true ∧ (bootS 2 false).wd.warm = false ∧ (bootS 2 false).wd.bootSrc = 0 := by decide +kernel
/-- A die whose reset is over. -/
def backS (d : Nat) : State := { put run hub HUB.MEM_CFG.MODE 1 with dies := mput (mput run.dies 2 { st := 1, locked := true, rev := 0x10 }) d { st := 2, reason := 5, resetting := true }, lstore := [(7, 3), (2 ^ 17 * 24 * 3, 4)] }
def backF (ok : Bool) (rev cap : Nat) : ReadmitFind := { ok := ok, rev := rev, cap := cap, hinges := [], profile := 0 }
theorem wit_back : (mget ({} : Die) (backS 11).dies 11).resetting = true ∧ powered (backS 11) = true ∧ (backS 11).wd.pfAt = none ∧ (backF false 0 0).ok = false ∧ profileBad (backF true 0 0).profile.toNat = true
    ∧ isComp 11 = true ∧ compRevOk (mget ({} : Die) (backS 11).dies (baseOf 11)).rev 0x20 = false ∧ compRevOk (mget ({} : Die) (backS 11).dies (baseOf 11)).rev 0x10 = true
    ∧ coversEff (backS 11) 11 (2 ^ 64 - 1) = true ∧ coversEff (put (backS 11) hub HUB.CAP_EFF_LO.CAP (2 ^ 32 - 1)) 11 0 = false := by decide +kernel

/-- Hinge 1 of base die 2, in training, down after `n` attempts, or up at width `w` with mask 255. -/
def hngS (st n w : Nat) : State :=
  let s := put (put (put (put run (hng 2 1) HNG.TRAIN_STAT.STATE st) (hng 2 1) HNG.TRAIN_STAT.ATTEMPTS n) (hng 2 1) HNG.TRAIN_STAT.WIDTH w) (hng 2 1) HNG.TRAIN_STAT.MASK 255
  { put (put s (hng 2 1) HNG.RECAL.AUTO_MS 5) hub HUB.CAP_EFF_LO.CAP 8 with recal := if n = 9 then [(17, 3)] else [] }
def modA : TrainFind := { mask := 0xFF, lanes := [], ok := true }
theorem wit_training : hingeThere (hngS 1 0 0) 2 1 = true ∧ rdF (hngS 1 0 0) (hng 2 1) HNG.TRAIN_STAT.STATE = 1 ∧ modA.ok = true ∧ goodMask (hngS 1 0 0) modA ≠ 0 ∧ goodMask (hngS 1 0 0) { modA with mask := 0 } = 0
    ∧ rdF (hngS 0 1 0) (hng 2 1) HNG.TRAIN_STAT.STATE = 0 ∧ 0 < rdF (hngS 0 1 0) (hng 2 1) HNG.TRAIN_STAT.ATTEMPTS ∧ rdF (hngS 0 2 0) (hng 2 1) HNG.TRAIN_STAT.ATTEMPTS < 3
    ∧ hingeThere run 0 2 = true ∧ rdF (put (put run (hng 0 2) HNG.TRAIN_STAT.ATTEMPTS 3) (hng 0 2) HNG.TRAIN_STAT.STATE 0) (hng 0 2) HNG.TRAIN_STAT.ATTEMPTS = 3
    ∧ present run (hng 0 4) = true ∧ fitted run.variant 28 = true ∧ rdF run (hng 0 4) HNG.TRAIN_STAT.STATE ≠ 2 ∧ modA.mask % 4 ≠ 0 := by decide +kernel
theorem wit_modules : hingeThere (hngS 2 0 8) 2 1 = true ∧ rdF (hngS 2 0 8) (hng 2 1) HNG.RECAL.BUSY ≠ 1 ∧ rdF (hngS 2 0 8) (hng 2 1) HNG.TRAIN_STAT.STATE = 2 ∧ 1 < rdF (hngS 2 0 8) (hng 2 1) HNG.TRAIN_STAT.WIDTH
    ∧ (∀ r, r ∈ hingeRes 2 1 → guarSum (hngS 2 0 8) r false ≤ rdF (hngS 2 0 8) bwr BWR.CAPACITY.CAP r * (8 - 1) / 8) ∧ bit (rdF (hngS 2 0 8) (hng 2 1) HNG.TRAIN_STAT.MASK) 7 = true ∧ capEff (hngS 2 0 8) 3 = true
    ∧ rdF (hngS 2 0 8) (hng 2 1) HNG.RECAL.AUTO_MS ≠ 0 ∧ rdF (hngS 2 0 1) (hng 2 1) HNG.TRAIN_STAT.WIDTH ≤ 1 ∧ mfind (hngS 2 9 8).recal 17 = some 3 ∧ hingeUp (hngS 2 0 8) 2 1 = true ∧ 255 - 2 ^ 7 ≠ 0 := by decide +kernel
theorem test_training : rdF (after (.hingeTrainAttempt 2 1 modA) (hngS 1 0 0)) (hng (farEnd 2 1).1 (farEnd 2 1).2) HNG.TRAIN_STAT.WIDTH = 8 := by decide +kernel
/-- The open site trained, without and with its profile; a resynchronising stack. -/
def siteS (up : Bool) : State := { put (put run (hng 0 4) HNG.TRAIN_STAT.STATE 2) (mch 3) MCH.RESYNC.BUSY 1 with dies := if up then run.dies ++ [] else mput run.dies 28 {}, profile := 2 ^ 52 + 4 * 2 ^ 56 }
def profA : BitVec 512 := BitVec.ofNat 512 (16 * 2 ^ 40 + crc32 [0, 0, 0, 0, 0, 16, 0, 0, 0, 0, 0, 0, 0, 0, 0, 0, 0, 0, 0, 0, 0, 0, 0, 0, 0, 0, 0, 0, 0, 0, 0, 0, 0, 0, 0, 0, 0, 0, 0, 0, 0, 0, 0, 0, 0, 0, 0, 0, 0, 0, 0, 0, 0, 0, 0, 0, 0, 0, 0, 0] * 2 ^ 480)
theorem wit_site : isComp 19 = true ∧ dieUp (siteS true) 19 = true ∧ rdF (siteS false) (hng 0 4) HNG.TRAIN_STAT.STATE = 2 ∧ dieUp (siteS false) 28 = false ∧ profileBad (0 : BitVec 512).toNat = true
    ∧ profileBad profA.toNat = false ∧ dieUp (siteS true) 28 = true ∧ bit (profByte (siteS true).profile 6) 4 = true ∧ rdF (siteS true) (mch 3) MCH.RESYNC.BUSY ≠ 0 := by decide +kernel
/-- A Ward window of 64 KB at 4096 that may be read and written whole, with a ceiling of 1 unit; an interrupt route. -/
def wardS (rd ceil : Nat) : State :=
  let s := put (put (put (siteS true) wrd WRD.WIN_CTRL.EN 1 2) wrd WRD.WIN_LO.SIZE_EXP 16 2) wrd WRD.WIN_CTRL.READ rd 2
  put (put (put (put s wrd WRD.WIN_CTRL.WR_FULL 1 2) wrd WRD.WIN_RATE.CEIL ceil 2) wrd WRD.WIN_LO.BASE 16 2) wrd WRD.IRQ.ENTRY 0x80010005 1
/-- A header of the site: its operation, units and address. -/
def wh (op u a : Nat) : Nat := op * 2 ^ 123 + u * 2 ^ 120 + 5 * 2 ^ 110 + a * 2 ^ 48
/-- A transaction is held already. -/
def heldS : State := { wardS 1 1 with io := { (wardS 1 1).io with held := [(wh 3 2 65536, 0)], heldWin := some 2 } }
theorem wit_ward : dieUp heldS 28 = true ∧ present heldS wrd = true ∧ heldS.io.heldWin.isSome = true ∧ dieUp (wardS 1 1) 28 = true ∧ present (wardS 1 1) wrd = true ∧ (wardS 1 1).io.heldWin = none
    ∧ wardForm (wh 1 1 65536 + 1) = some 0 ∧ wardForm (wh 1 5 65536) = some 1 ∧ wardForm (wh 1 1 65536) = none ∧ wOp (wh 1 1 65536) ∈ [1, 3, 4] ∧ wardWin (wardS 1 1) (wAddr (wh 1 1 131072)) (wLen (wh 1 1 131072)) = none
    ∧ wardForm (wh 1 1 131072) = none ∧ wardWin (wardS 0 1) (wAddr (wh 1 1 65536)) (wLen (wh 1 1 65536)) = some 2 ∧ rdF (wardS 0 1) wrd WRD.WIN_CTRL.READ 2 = 0
    ∧ wardForm (wh 3 2 65536) = none ∧ wOp (wh 3 2 65536) = 3 ∧ wardWin (wardS 1 1) (wAddr (wh 3 2 65536)) (wLen (wh 3 2 65536)) = some 2 ∧ rdF (wardS 1 1) wrd WRD.WIN_CTRL.WR_FULL 2 ≠ 0 ∧ rdF (wardS 1 1) wrd WRD.WIN_RATE.CEIL 2 ≠ 0
    ∧ rdF (wardS 1 1) wrd WRD.WIN_RATE.CEIL 2 < mget 0 (wardS 1 1).io.wUsed 2 + wUnits (wh 3 2 65536)
    ∧ wardForm (wh 9 0 1) = none ∧ wOp (wh 9 0 1) = 9 ∧ wAddr (wh 9 0 1) % 32 < profByte (wardS 1 1).profile 7 ∧ entEn (rdF (wardS 1 1) wrd WRD.IRQ.ENTRY (wAddr (wh 9 0 1) % 32)) = true := by decide +kernel

/-- The barrier up, with frames unacknowledged in both directions, one received; a LINK and a RETRY for them. -/
def barS (st typ tag pay : Nat) (cr : Nat := 0) : State :=
  let s := put run bar BAR.LINK_STAT.STATE st
  let d : BDir := { seq := 3, credits := cr, out := [⟨7, 1, 0, 0, {}⟩, ⟨typ, 2, tag, pay, { mach := true }⟩], wait := [⟨8, 0, 9, 9, {}⟩], got := 1 }
  { s with bar := { s.bar with toField := d, toHost := d, links := [(true, 1, 64)], retries := [(true, 2)], regs := [(5, { hart := 0xFF, size := 4, back := [], since := 0 })] } }
/-- Many replays of this instant. -/
def replS (n : Nat) : State := { barS 2 7 0 0 with bar := { (barS 2 7 0 0).bar with replays := List.replicate n 0 } }
/-- The barrier down since instant 5 at a paired manager with a class that runs and a pair port. -/
def lossS : State :=
  let s := put (put (put (put (put run (ylk 0) YLK.PAIR_STAT.STATE 2) (ylk 0) YLK.CL_STAT.ROLE 1) (ylk 2) YLK.PORT_STAT.STATE 2) (ylk 2) YLK.PORT_CFG.PAIR 1) (ylk 0) YLK.PAIR_STAT.PARTNER 5
  { s with bar := { s.bar with downAt := some 5 }, scan := { s.scan with cls := [(3, { on := true, begun := true, next := 4 })] } }
theorem wit_link : (barS 2 7 0 0).bar.links = [(true, 1, 64)] ∧ (dirOfBar (barS 2 7 0 0) true).out.findIdx? (fun f => f.seq = 1) = some 0 ∧ (barS 2 7 0 0).bar.retries = [(true, 2)]
    ∧ (dirOfBar (barS 2 7 0 0) true).out.findIdx? (fun f => f.seq = 2) = some 1 ∧ barUp (barS 2 7 0 0) = true ∧ rdF (replS 17) bar BAR.LINK_STAT.STATE ≠ 0
    ∧ 16 < ((replS 17).bar.replays.filter (fun t => (replS 17).gtime < t + 3200000)).length ∧ ((replS 16).bar.replays.filter (fun t => (replS 16).gtime < t + 3200000)).length ≤ 16 := by decide +kernel
theorem wit_train : fldUp run = true ∧ rdF run bar BAR.LINK_STAT.STATE = 0 ∧ 3 ≤ modeOf run ∧ modeOf run ≤ 6 ∧ fldUp (pkg 2) = true ∧ rdF (pkg 2) bar BAR.LINK_STAT.STATE = 0 ∧ modeOf (pkg 2) = 2
    ∧ lossS.bar.downAt = some 5 ∧ pairedMgr lossS = true ∧ rdF lossS bar BAR.LINK_STAT.STATE = 0 ∧ fastest lossS = some 3 ∧ pairPort lossS = some 2 := by decide +kernel
/-- The frame of `barS` that arrives next. -/
def frameA (typ tag pay : Nat) : BFrame := ⟨typ, 2, tag, pay, { mach := true }⟩
theorem frame_next (toField : Bool) (typ tag pay : Nat) : nextFrame (barS 2 typ tag pay) toField typ (frameA typ tag pay) := by
  cases toField <;> exact ⟨rfl, rfl, rfl⟩
/-- The same with session 9 of class 1 Cyclic on a working port, and a segment of class 1 in the field die's map. -/
def flipS : State :=
  let s := put (put (put (put (put (barS 2 0x104 1 77) (fld 3) FLD.PORT_CFG.EN 1) (fld 3) FLD.PORT_STAT.LINK 1) (fld 0) FLD.SESS_CFG0.CLASS 1 0 10) (fld 0) FLD.SESS_CFG0.PORT 2 0 10) (fld 0) FLD.SESS_CFG2.CNT 1 0 10
  { s with fld := { s.fld with segs := [(0, 9)], nxt := [(0, 5), (40, 6)], sess := [(9, { st := 3 })] } }
theorem wit_flip : (flipS.fld.nxt.map (·.1)).Nodup ∧ 9 ∈ sessOfClass flipS 1 ∧ (sessOf flipS 9).st = 3 ∧ portOn flipS (se flipS FLD.SESS_CFG0.PORT 9) = true ∧ modeOf flipS ≠ 5 ∧ fldSegClass flipS 0 = some 1 ∧ barUp flipS = true := by decide +kernel
/-- A register frame for FLD instance 0: SESS_SEL at offset 0x48, written whole. -/
def regPay : Nat := 0x48 * 2 ^ 16 + 4 * 2 ^ 32 + 0x321 * 2 ^ 64 + 15 * 2 ^ 128
theorem wit_regwr : frameView regPay = .base ∧ bits regPay 27 16 % 4 = 0 ∧ 0x40 ≤ bits regPay 27 16 ∧ bits regPay 39 32 = 4 ∧ bits regPay 135 128 = 15
    ∧ regFields (frameBlk regPay) (bits regPay 27 16) = [(FLD.SESS_SEL.SESSION, 0)] ∧ FLD.SESS_SEL.SESSION.acc = .rw ∧ FLD.SESS_SEL.SESSION.cm = false
    ∧ denied (barS 2 0x302 0 regPay) (frameBlk regPay) FLD.SESS_SEL.SESSION 0 (frameA 0x302 0 regPay).who true = false
    ∧ ignoredVal (barS 2 0x302 0 regPay) (frameBlk regPay) FLD.SESS_SEL.SESSION (newVal (barS 2 0x302 0 regPay) (frameBlk regPay) FLD.SESS_SEL.SESSION 0 .base (bits regPay 127 64 % 2 ^ 32)) = false
    ∧ reservedVal (barS 2 0x302 0 regPay) (frameBlk regPay) FLD.SESS_SEL.SESSION 0 (newVal (barS 2 0x302 0 regPay) (frameBlk regPay) FLD.SESS_SEL.SESSION 0 .base (bits regPay 127 64 % 2 ^ 32)) = false := by decide +kernel
theorem wit_regrd : barUp (regReadGo (frameIn (barS 2 0x301 0 regPay) true) { mach := true } (frameBlk regPay) (frameView regPay) (bits regPay 27 16) (bits regPay 39 32) (frameAddr regPay)).2 = true
    ∧ mfind (barS 2 0x303 4 0).bar.regs (4 % 1024) = none ∧ 5 / 2048 = mget 0 (barS 2 0x303 5 0).ioGen (fldTag 5) ∧ (∃ r, mfind (barS 2 0x303 5 0).bar.regs (5 % 1024) = some r ∧ r.hart = 0xFF ∧ r.back = [])
    ∧ entEn (routeOf (put (barS 2 0x401 3 1) hub HUB.ROUTE.ENTRY 0x80020007 0 (1 + 24 * 65536 + (fld 3).slot)) (fld 3)) = true :=
  ⟨by decide +kernel, by decide +kernel, by decide +kernel, ⟨_, rfl, rfl, rfl⟩, by decide +kernel⟩

/-- Field port 2 working, session 9 in state `st` generation 3 on it with one input line; the barrier at `b`. -/
def fieldS (st b : Nat) : State :=
  let s := put (put (put (put (put run (fld 3) FLD.PORT_CFG.EN 1) (fld 3) FLD.PORT_STAT.LINK 1) (fld 0) FLD.SESS_CFG0.PORT 2 0 10) (fld 0) FLD.SESS_CFG1.CNT 1 0 10) bar BAR.LINK_STAT.STATE b
  { put (put (put s (fld 0) FLD.SESS_CFG0.EN 1 0 10) (fld 0) FLD.SESS_ID_LO.ID 77 0 10) (fld 0) FLD.SESS_CFG1.LINE 4 0 10 with
    fld := { sess := [(9, { st := st, gen := 3, boot := 8, miss := 2, got := decide (st = 2) })], flips := [(0, 100, 25)], anns := [(5, ⟨66, 2, 1, 0, 9, 4⟩)] } }
/-- During a firmware switch. -/
def switchS : State := { fieldS 2 2 with fld := { (fieldS 2 2).fld with switching := some 1 } }
theorem wit_hello : portOn switchS 2 = true ∧ modeOf switchS ≠ 5 ∧ switchS.fld.switching ≠ none ∧ portOn (fieldS 3 2) 2 = true ∧ modeOf (fieldS 3 2) ≠ 5 ∧ (fieldS 3 2).fld.switching = none
    ∧ helloMatch (fieldS 3 2) 2 77 9 1 0 = true ∧ (sessOf (fieldS 3 2) 9).st ≠ 5 ∧ (sessOf (fieldS 3 2) 9).boot ≠ 1 ∧ ¬((sessOf (fieldS 3 2) 9).st ≤ 1 ∨ ((sessOf (fieldS 3 2) 9).st ≠ 5 ∧ (sessOf (fieldS 3 2) 9).boot ≠ 8))
    ∧ helloMatch (fieldS 3 2) 2 78 9 1 0 = false ∧ (fieldS 0 2).fld.switching = none ∧ helloMatch (fieldS 0 2) 2 78 9 1 0 = false := by decide +kernel
theorem wit_cycin : 2 ≤ (sessOf (fieldS 2 2) 9).st ∧ (sessOf (fieldS 2 2) 9).st ≤ 4 ∧ (sessOf (fieldS 2 2) 9).gen = 3 ∧ se (fieldS 2 2) FLD.SESS_CFG1.CNT 9 = 1 ∧ barUp (fieldS 2 2) = true ∧ portOn (fieldS 2 2) 2 = true
    ∧ (sessOf (fieldS 4 2) 9).st = 4 ∧ 2 ≤ rdF (fieldS 4 2) bar BAR.LINK_STAT.STATE ∧ (sessOf (fieldS 5 2) 9).st = 5 ∧ fldUp (fieldS 5 2) = true := by decide +kernel
theorem wit_ann : mfind (fieldS 1 0).fld.anns 5 = some ⟨66, 2, 1, 0, 9, 4⟩ ∧ (sessOf (fieldS 1 0) 9).st = 1 ∧ ((fieldS 1 0).fld.anns.map (·.1)).Nodup ∧ mfind (fieldS 3 0).fld.flips 0 = some (100, 25)
    ∧ rdF (fieldS 3 0) bar BAR.LINK_STAT.STATE = 0 ∧ fldUp (fieldS 3 0) = true ∧ ((fieldS 3 0).fld.sess.map (·.1)).Nodup ∧ 9 ∈ sessOfClass (fieldS 3 0) 0 ∧ (sessOf (fieldS 3 0) 9).st = 3 ∧ 2 ≤ (sessOf (fieldS 3 0) 9).miss := by decide +kernel
theorem wit_ann_one : ∀ i b, mfind (fieldS 1 0).fld.anns i = some b → b.req = 9 → i = 5 := by
  intro i b h _
  refine Decidable.byContradiction fun n => ?_
  have e : mfind (fieldS 1 0).fld.anns i = none := by
    show mfind [(5, (⟨66, 2, 1, 0, 9, 4⟩ : Ann))] i = none
    simp [mfind, Ne.symm n]
  rw [e] at h; cases h
/-- A Cyclic session that has been heard since the last boundary. -/
def gotS : State := { fieldS 3 0 with fld := { (fieldS 3 0).fld with sess := [(9, { st := 3, gen := 3, got := true })] } }
theorem wit_got : mfind gotS.fld.flips 0 = some (100, 25) ∧ rdF gotS bar BAR.LINK_STAT.STATE = 0 ∧ fldUp gotS = true ∧ (gotS.fld.sess.map (·.1)).Nodup ∧ 9 ∈ sessOfClass gotS 0 ∧ (sessOf gotS 9).st = 3 ∧ (sessOf gotS 9).got = true := by decide +kernel
/-- The watch engine in Watch: point 1 on slot 0 of session 9, limits 10 to 20, a sample of `v` polled. -/
def watchS (m v : Nat) : State :=
  let s := put (put (put (put (put (put (fieldS 3 0) (pwr 0) PWR.MODE.MODE m) (fld 9) FLD.WATCH_CFG.EN 1) (fld 9) FLD.WP_CFG.EN 1 0 2) (fld 9) FLD.WP_CFG.SESSION 9 0 2) (fld 9) FLD.WP_LIM.LO 10 0 2) (fld 9) FLD.WP_LIM.HI 20 0 2
  { put s (fld 3) FLD.PORT_STAT.ROLE 1 with fld := { s.fld with wakeAt := some 50, pollAt := some 60, polled := [(9, [v])] } }
theorem wit_field_ports : portOn (watchS 4 0) 2 = true ∧ (watchS 4 0).fld.switching = none ∧ prio1 (watchS 4 0) 2 = 128 ∧ rdF (watchS 4 0) (fld 3) FLD.PORT_STAT.ROLE = 1
    ∧ rdF (put (watchS 4 0) (fld 3) FLD.PORT_STAT.ROLE 3) (fld 3) FLD.PORT_STAT.ROLE = 3 ∧ fldUp (watchS 4 0) = true ∧ modeOf (watchS 2 0) = 2 ∧ rdF (watchS 2 0) (fld 9) FLD.WATCH_CFG.EN ≠ 0 ∧ fldUp (watchS 2 0) = true
    ∧ (watchS 2 0).fld.wakeAt = some 50 ∧ portOn (watchS 2 0) (se (watchS 2 0) FLD.SESS_CFG0.PORT 9) = true ∧ (watchS 2 0).fld.pollAt = some 60 ∧ watchPoints (watchS 2 0) = [1]
    ∧ mfind (watchS 2 0x8005).fld.polled (wp (watchS 2 0x8005) FLD.WP_CFG.SESSION 1) = some [0x8005] ∧ bit 0x8005 15 = true ∧ bit 5 15 = false ∧ 5 < wp (watchS 2 0x8005) FLD.WP_LIM.LO 1 ∧ wp (watchS 2 0x8005) FLD.WP_LIM.HI 1 < 30
    ∧ wp (watchS 2 0x8005) FLD.WP_CFG.SIGNED 1 = 0 ∧ (watchS 2 0).fld.held = false ∧ watchPoints (fieldS 3 0) = [] ∧ ({ run with fld := { run.fld with held := true } } : State).fld.held = true := by decide +kernel

/-- The normal enables on where `en`, hart 0 in a run state and privilege. -/
def dbgS (r : Run) (p : Priv) (en : Nat) : State :=
  let s := put (put run hub HUB.DBG_CTRL.NID en) hub HUB.DBG_CTRL.NNID en
  setHart s 0 { setCsr (hartOf s 0) 0x7B1 0x1000 with run := r, priv := p, lastPc := 0x44, x := [(5, 99)] }
theorem wit_debug : 0 < hartCount (dbgS .running .s 1) ∧ (hartOf (dbgS .running .s 1) 0).run ≠ .halted ∧ atBoundary (hartOf (dbgS .running .s 1) 0) = true ∧ (hartOf (dbgS .running .s 1) 0).deferred = []
    ∧ (hartOf (dbgS .running .s 1) 0).stepping = false ∧ (hartOf (dbgS .running .s 1) 0).run ∈ [.running, .wfi, .scanWait] ∧ invasiveOn (dbgS .running .s 1) (hartOf (dbgS .running .s 1) 0) = true
    ∧ invasiveOn (dbgS .running .m 1) (hartOf (dbgS .running .m 1) 0) = false ∧ (hartOf (dbgS .running .m 1) 0).deferred = [] ∧ (hartOf (dbgS .halted .s 1) 0).run = .halted
    ∧ (hartOf (dbgS .halted .s 1) 0).deferred = [] ∧ invasiveOn (dbgS .halted .s 1) (hartOf (dbgS .halted .s 1) 0) = true ∧ invasiveOn (dbgS .halted .s 0) (hartOf (dbgS .halted .s 0) 0) = false
    ∧ rdF (dbgS .halted .s 0) hub HUB.SEV_INFO.VALID = 0 ∧ bits 0x105 9 8 ≠ 3 ∧ csrFault (dbgView (hartOf (dbgS .halted .s 1) 0)) 0x105 false = none ∧ iregFault (dbgView (hartOf (dbgS .halted .s 1) 0)) 0x105 = none
    ∧ bits 0x340 9 8 = 3 ∧ dbgOn (dbgS .halted .s 1) 0 = false ∧ dbgOn (dbgS .halted .s 0) 2 = false ∧ dbgOn (dbgS .halted .s 1) 2 = true := by decide +kernel
theorem test_pc_sample : (after (.debugAbstractAccess 0 .pcSample) (dbgS .running .s 1)).resp = ⟨false, 0x44⟩ := by decide +kernel

/-- The endpoint enabled and reached by the host, window 3 of BAR2 over 64 KB of memory, the ROM BAR on; reads outstanding under tags 1 (host), 2 (a root port, configuration) and 3 (the open site). -/
def sepS : State :=
  let s := put (put (put (put (put (put run sep SEP.STAT.LINK_UP 1) sep SEP.STAT.MSE 1) sep SEP.STAT.BME 1) sep SEP.WIN_CTRL.EN 1 3) sep SEP.WIN_LO.SIZE_EXP 16 3) sep SEP.WIN_CTRL.R 1 3
  let s := setHdr (put s sep SEP.WIN_CTRL.W 1 3) sep { hdrOf s sep with enable := true }
  let x : IoTxn := { hart := 0xFF, num := 0, sec := false, addr := 0, size := 4, port := 4, link := 0, gen := 0, cfg := false, since := 0 }
  { s with io := { s.io with bars := [(12, 1)], msixEn := true, msix := mdel s.io.msix 28, pend := [1] }, iot := [(1, x), (2, { x with port := 2, cfg := true }), (3, { x with port := 5 }), (4, { x with port := 2 })] }
/-- The same during a Function Level Reset, and with PERST# asserted and the link down. -/
def flrS : State := { sepS with io := { sepS.io with flr := true } }
def perstS : State := put (put sepS sep SEP.STAT.PERST 1) sep SEP.STAT.LINK_UP 0
theorem wit_host : rdF sepS sep SEP.STAT.LINK_UP ≠ 0 ∧ flrS.io.flr = true ∧ (hdrOf sepS sep).enable = true ∧ sepS.io.flr = false ∧ cfgDword sepS 12 = some 1 ∧ rdF sepS sep SEP.STAT.BME = 1 ∧ hostReach sepS = true
    ∧ bit (mget 0 sepS.io.bars 12) 0 = true ∧ 0x10000 + 4 ≤ 0x20000 ∧ winOfs sepS 3 + 2 ^ winExp sepS 3 < 0x10000 + 4 ∧ (∀ w, w < 32 → winEn sepS w = true → w = 3)
    ∧ (List.range 32).find? (fun w => winEn sepS w && 2 + 2 * rdF sepS sep SEP.WIN_CTRL.BAR w = 2 && decide (winOfs sepS w ≤ 64) && decide (64 + 8 ≤ winOfs sepS w + 2 ^ winExp sepS w)) = some 3
    ∧ rdF sepS sep SEP.WIN_CTRL.R 3 ≠ 0 ∧ rdF sepS sep SEP.WIN_CTRL.W 3 ≠ 0 ∧ isMem (zoneOf sepS (winTgt sepS 3 + (64 - winOfs sepS 3))) = true
    ∧ hostReach (put sepS sep SEP.STAT.MSE 0) = false ∧ rdF (put sepS sep SEP.STAT.MSE 0) sep SEP.STAT.LINK_UP ≠ 0 ∧ rdF sepS sep SEP.STAT.DSTATE ≠ 3 ∧ fitsBlock sepS.variant sep = true ∧ rdF sepS sep SEP.STAT.PERST ≠ 1
    ∧ 3 ≤ modeOf sepS ∧ rdF perstS sep SEP.STAT.PERST ≠ 0 := by decide +kernel
theorem wit_compl : (∃ x, mfind sepS.iot 1 = some x ∧ x.hart = 0xFF ∧ x.port = 4 ∧ x.gen % 256 = rdF sepS sep SEP.STAT.GEN) ∧ (∃ x, mfind sepS.iot 2 = some x ∧ x.hart = 0xFF ∧ x.port < 4 ∧ x.cfg = true)
    ∧ (∃ x, mfind sepS.iot 4 = some x ∧ x.hart = 0xFF ∧ x.port < 4 ∧ x.cfg = false) ∧ (∃ x, mfind sepS.iot 3 = some x ∧ x.hart = 0xFF ∧ x.port ≠ 4) ∧ mfind sepS.iot 9 = none
    ∧ sepS.io.pend.find? (fun n => sepCan sepS && !vecMasked sepS n) = some 1 :=
  ⟨⟨_, rfl, rfl, rfl, by decide +kernel⟩, ⟨_, rfl, rfl, by decide, rfl⟩, ⟨_, rfl, rfl, by decide, rfl⟩, ⟨_, rfl, rfl, by decide⟩, rfl, by decide +kernel⟩
/-- Hart 0 waits for a load. -/
def loadS : State :=
  let s := withHart (fun x => { x with cur := some (.load 0 false 5 1 0 8 (.int false)), ioTag := some 7 })
  { s with iot := [(7, { hart := 0, num := 0, sec := true, addr := 0, size := 8, port := 0, link := 0, gen := 0, cfg := false, since := 0 })] }
theorem wit_load_wait : ∃ x, mfind loadS.iot 7 = some x ∧ (hartOf loadS x.hart).ioTag = some 7 ∧ x.hart < 0xFF ∧ (hartOf loadS x.hart).cur = some (.load 0 false 5 1 0 x.size (.int false)) :=
  ⟨_, rfl, by decide +kernel, by decide, by decide +kernel⟩
theorem test_hub_completion : xr (hartOf (after (.hubCompletion 7 0 99 false) loadS) 0) 5 = 99 := by decide +kernel

/-- Root port 2 with links in mode 2, link 0 up; its device contexts are at address 0, that of requester 4 is valid for memory and interrupts, that of requester 5 for memory alone. -/
def rootS (en : Nat) : State :=
  let s := put (put (put (put run (rcx 2) RCX.LINK_CFG.MODE 2) (rcx 2) RCX.LINK_CFG.UP 1) (rcx 2) RCX.DCT_LO.EN en) (rcx 2) RCX.MSI_ADDR_LO.ADDR 0x9000
  { put s hub HUB.APL_SRC.ENTRY 0xA0010005 12 with dram := [(64, 5), (80, 1)], iot := [(1, { hart := 0xFF, num := 0, sec := false, addr := 0, size := 4, port := 2, link := 0, gen := 0, cfg := false, since := 0 })] }
theorem wit_root : 3 ≤ modeOf (rootS 1) ∧ 3 ∈ portLinks (rootS 1) 2 ∧ linkUp (rootS 1) 2 3 = false ∧ rdF (rootS 1) (rcx 2) RCX.LINK_CFG.HOLD ≠ 1 ∧ rdF (rootS 1) (rcx 2) RCX.LINK_CFG.UP < 16 ∧ linkUp (rootS 1) 2 0 = true
    ∧ 0x1000 ≠ msiAddr (rootS 1) 2 ∧ domState (rootS 1) 0 2 = 0 ∧ rdF (rootS 1) (rcx 2) RCX.LINK_CFG.UP ≠ 0 ∧ (rootS 1).wires.contains (3 + 4 * 2 + 1) = false ∧ powered (rootS 1) = true
    ∧ entSm (rdF (rootS 1) hub HUB.APL_SRC.ENTRY 12) ∈ [4, 6] ∧ entEn (rdF (rootS 1) hub HUB.APL_SRC.ENTRY 12) = true := by decide +kernel
/-- A context that is not in the cache is read from memory. -/
theorem devCtx_read (s : State) (p rid : Nat) (h : mget [] s.io.ctx p = []) : devCtx s p rid =
    (let s := (draw s).2
     let a := rdF s (rcx p) RCX.DCT_LO.BASE * 2 ^ 20 + rdF s (rcx p) RCX.DCT_HI.BASE * 2 ^ 32 + 16 * rid
     let w : Who := { num := 78 + p }
     if !isMem (zoneOf s a) then (⟨rid, 0, 0⟩, s)
     else
       let ((w0, bad0), s) := ioReadMem s w a 8
       let ((w1, bad1), s) := ioReadMem s w (a + 8) 8
       if bad0 || bad1 then (⟨rid, 0, 0⟩, s)
       else
         let e : DevCtx := ⟨rid, w0, w1⟩
         (e, { s with io := { s.io with ctx := mput s.io.ctx p (e :: mget [] s.io.ctx p) } })) := by
  unfold devCtx draw
  simp [h]
theorem wit_ctx : (∃ e u, devCtx (rootS 1) 2 4 = (e, u) ∧ (ctxOk u 2 e = true ∧ e.w1 / 2 ^ 60 = 0 ∧ isMem (zoneOf u 0x1000) = true ∧ bit e.w0 2 = true ∧ 9 % 2 ^ 11 ≠ 0))
    ∧ (∃ e u, devCtx (rootS 1) 2 5 = (e, u) ∧ (ctxOk u 2 e = true ∧ bit e.w0 2 = false))
    ∧ (∃ e u, devCtx (rootS 0) 2 4 = (e, u) ∧ (ctxOk u 2 e = false ∧ rdF u (rcx 2) RCX.FAULT_INFO.VALID = 0)) :=
  ⟨⟨(devCtx (rootS 1) 2 4).1, (devCtx (rootS 1) 2 4).2, rfl, by rw [devCtx_read _ _ _ (by decide +kernel)]; decide +kernel⟩,
    ⟨(devCtx (rootS 1) 2 5).1, (devCtx (rootS 1) 2 5).2, rfl, by rw [devCtx_read _ _ _ (by decide +kernel)]; decide +kernel⟩,
    ⟨(devCtx (rootS 0) 2 4).1, (devCtx (rootS 0) 2 4).2, rfl, by rw [devCtx_read _ _ _ (by decide +kernel)]; decide +kernel⟩⟩

/-- Yilust port 2 enabled in link state `st`, its peer at position 5, this package at 3; window 1 of 64 KB writable; interrupts permitted; a copy outstanding where `c`. -/
def ylkS (st : Nat) (c : Bool) : State :=
  let s := put (put (put (put (put run (ylk 2) YLK.PORT_CFG.EN 1) (ylk 2) YLK.PORT_STAT.STATE st) (ylk 0) YLK.CL_CFG.POS 3) (ylk 2) YLK.PORT_CFG.IRQ_EN 1) (ylk 2) YLK.PORT_STAT.PEER_POS 5
  let s := put (put (put s (ylk 2) YLK.WIN_CTRL.EN 1 1) (ylk 2) YLK.WIN_CTRL.W 1 1) (ylk 2) YLK.WIN_LO.SIZE_EXP 16 1
  { put s (ylk 2) YLK.COPY_LEN.LINES 3 with cl := { s.cl with nbr := [(2, ⟨5, 1, 5, 0, true, 0⟩)], near := [(5, (2, 0))], parent := some 2, copies := if c then [(2, ⟨0, 0, 0, [7], 8, false⟩)] else [] } }
def yh (src dst : Nat) (bc : Bool) : YHdr := { port := 2, src := src, dst := dst, bcast := bc, bad := false }
theorem wit_ylk : ylkPowered (ylkS 1 false) = true ∧ rdF (ylkS 1 false) (ylk 2) YLK.PORT_CFG.EN ≠ 0 ∧ rdF (ylkS 1 false) (ylk 2) YLK.PORT_STAT.STATE = 1 ∧ rdF (ylkS 3 false) (ylk 2) YLK.PORT_STAT.STATE = 3
    ∧ ylkUp (ylkS 2 true) 2 = true ∧ joinOf (ylkS 2 true) ≠ 3 ∧ ¬((yh 5 4 false).bcast = true ∨ (yh 5 4 false).dst = myPos (ylkS 2 true)) ∧ (yh 5 3 false).dst = myPos (ylkS 2 true)
    ∧ rdF (ylkS 2 true) (ylk 2) YLK.PORT_CFG.IRQ_EN = 1 ∧ 1 < hartCount (ylkS 2 true) ∧ rdF (ylkS 2 true) (ylk 2) YLK.PORT_STAT.GEN = 0 ∧ yWindow (ylkS 2 true) 2 64 64 = some 1 ∧ yWindow (ylkS 2 true) 2 65536 64 = none
    ∧ isMem (zoneOf (ylkS 2 true) (yTgt (ylkS 2 true) 2 1 + (64 - yOfs (ylkS 2 true) 2 1))) = true ∧ mfind (ylkS 2 true).cl.copies 2 = some ⟨0, 0, 0, [7], 8, false⟩ ∧ mfind (ylkS 2 false).cl.copies 2 = none
    ∧ ylkUp (ylkS 1 false) 2 = false ∧ 0 < rdF (ylkS 2 false) (ylk 2) YLK.COPY_LEN.LINES ∧ rdF (put (ylkS 2 false) (ylk 2) YLK.COPY_LEN.LINES 0) (ylk 2) YLK.COPY_LEN.LINES = 0 ∧ (whoOf (ylkS 2 true) mHart).mach = true := by decide +kernel
theorem wit_ylk_port : portOpen (ylkS 2 true) (ylk 2) ∧ portOpen (ylkS 2 false) (ylk 2) ∧ portOpen (ylkS 1 false) (ylk 2) := by unfold portOpen; decide +kernel
theorem wit_cl_leave : asked (askS (ylkS 2 false) 1 0x11 []) 1 0x11 9 := asked_of (by decide +kernel)
theorem test_copy_go : ((mfind (after (.copyGo mHart 2) (ylkS 2 false)).cl.copies 2).map (·.tags)) = some [0, 1, 2] := by decide +kernel

/-- This package at position 3 with port 2 up, its peer the manager at 5 where `par`, in a role and join state; GTIME 200. -/
def clusS (role join : Nat) (par : Bool) (sel : Nat := 0) : State :=
  let s := put (put (put (put (put (put run (ylk 2) YLK.PORT_CFG.EN 1) (ylk 2) YLK.PORT_STAT.STATE 2) (ylk 0) YLK.CL_CFG.POS 3) (ylk 0) YLK.CL_CFG.MGR_SEL sel) (ylk 0) YLK.CL_STAT.ROLE role) (ylk 0) YLK.CL_STAT.JOIN join
  { s with gtime := 200, cl := { s.cl with nbr := if par then [(2, ⟨5, 1, 5, 0, true, 0⟩)] else [], parent := if par then some 2 else none, firstUp := some 9, members := if role = 1 then [(3, 0), (7, 100)] else [], asked := some 100, catchTo := some 5000, dly := 10 } }
def yc (src dst : Nat) : YHdr := { port := 2, src := src, dst := dst, bcast := false, bad := false }
theorem wit_cluster : (yc 9 3).dst = myPos (clusS 1 2 false) ∧ ylkUp (clusS 1 2 false) 2 = true ∧ clRole (clusS 1 2 false) = 1 ∧ (yc 9 3).src ≠ myPos (clusS 1 2 false) ∧ (clusS 1 2 false).gtime = 200 ∧ mfind (clusS 1 2 false).cl.serials 9 = none
    ∧ mfind (clusS 1 2 false).cl.members 9 = none ∧ (yc 3 3).src = myPos (clusS 1 2 false) ∧ mfind (clusS 1 2 false).cl.nbr 2 = none ∧ clRole (clusS 0 0 false) = 0 ∧ joinOf (clusS 0 0 false) = 0 ∧ (clusS 0 0 false).cl.nbr = []
    ∧ clRole (clusS 2 2 true) ≠ 1 ∧ mfind (clusS 1 2 false).cl.members 7 = some 100 ∧ 7 ≠ myPos (clusS 1 2 false) ∧ (clusS 0 0 false 1).cl.firstUp = some 9 ∧ (clusS 0 0 false 1).cl.named = false ∧ mgrSel (clusS 0 0 false 1) = true
    ∧ (clusS 0 0 false 1).cl.sels = [] ∧ joinOf (clusS 0 0 false 1) ≠ 3 ∧ joinOf (clusS 2 2 true) = 2 ∧ pairState (clusS 2 2 true) ≠ 2 ∧ mgrSel (clusS 2 2 true) = false ∧ mgrSel (clusS 2 2 true 1) = true ∧ joinOf (clusS 1 2 false) = 2 ∧ (clusS 1 2 false).cl.parent ≠ some 2
    ∧ fromParent (clusS 0 1 true) (yc 5 3) = true ∧ joinOf (clusS 0 1 true) = 1 ∧ ((200 : Int) - ((185 + 10 : Nat) : Int)).natAbs ≤ 16 ∧ ((200 : Int) - ((9000 + 10 : Nat) : Int)) < -1024 ∧ fromParent (clusS 2 2 true) (yc 5 3) = true
    ∧ (clusS 2 2 true).cl.parent = some 2 ∧ mfind (clusS 2 2 true).cl.nbr 2 = some ⟨5, 1, 5, 0, true, 0⟩ ∧ (clusS 2 2 true).cl.asked = some 100 ∧ (clusS 2 2 true).cl.catchTo = some 5000 ∧ (clusS 2 2 true).gtime ≤ 5000
    ∧ epochOf (clusS 2 2 true) = 0 := by decide +kernel
/-- A serial that is not this package's. -/
theorem wit_serial : ∃ x, x ≠ Config.hubSerial := ⟨Config.hubSerial + 1, Nat.succ_ne_self _⟩
/-- A pair with position 5 over ports 1 and 2: role, pair state, mode; class 3 runs and its scan is held whole. -/
def pairS (role st mode : Nat) (whole : Bool := true) : State :=
  let port := fun (s : State) (p : Nat) => put (put (put s (ylk p) YLK.PORT_CFG.EN 1) (ylk p) YLK.PORT_STAT.STATE 2) (ylk p) YLK.PORT_CFG.PAIR 1
  let s := port (port (pkg mode) 1) 2
  let s := put (put (put (put (put s (ylk 0) YLK.CL_CFG.POS 3) (ylk 0) YLK.CL_CFG.MGR_SEL 1) (ylk 0) YLK.CL_STAT.ROLE role) (ylk 0) YLK.PAIR_STAT.STATE st) (ylk 0) YLK.PAIR_STAT.PARTNER 5
  { s with cl := { s.cl with nbr := [(1, ⟨5, 3, 3, 1, true, 0⟩), (2, ⟨5, 3, 3, 1, true, 0⟩)], lastPair := 3150000, rend := if whole then [(3, (3, 0))] else [] },
           scan := { s.scan with cls := [(3, { on := true, begun := true, next := 4 })] } }
theorem wit_pair : fromPair (pairS 3 2 5) (yc 5 3) ∧ fromPair (pairS 1 0 4) (yc 5 3) ∧ fromPair (pairS 3 1 5) (yc 5 3) ∧ fromPair (pairS 1 2 4) (yc 5 3) := by unfold fromPair; decide +kernel
theorem wit_pair_not : ylkUp (pairS 3 2 5) 2 = true ∧ ¬fromPair (pairS 3 2 5) (yc 9 3) := by unfold fromPair; decide +kernel
theorem wit_pair_rest : pairState (pairS 3 2 5) ≠ 0 ∧ pairPort (pairS 3 2 5) = some 1 ∧ clRole (pairS 1 0 4) = 1 ∧ modeOf (pairS 1 0 4) = 4 ∧ canPair (pairS 1 0 4) 5 = true ∧ clRole (pairS 3 2 5) ≠ 1 ∧ clRole (pairS 3 1 5) = 3 ∧ pairState (pairS 3 1 5) = 1
    ∧ (clsOf (pairS 1 2 4) 3).next = 4 ∧ (pairS 1 2 4).gtime < clsNext (pairS 1 2 4) 3 ∧ standby (pairS 3 2 5) = true ∧ descNext (pairS 3 2 5) 70 = 0 ∧ (pairS 3 2 5).spl.dq.length < 256 ∧ modeOf (pairS 3 2 5) = 5
    ∧ (clsOf (pairS 3 2 5) 3).on = true ∧ (clsOf (pairS 3 2 5) 3).begun = true ∧ replWhole (pairS 3 2 5) 3 4 = true ∧ clsNext (pairS 3 2 5) 3 - 32000 ≤ 3150000 + 64000 ∧ (pairS 3 2 5).cl.hand ≠ some (3, 4)
    ∧ replWhole (pairS 3 2 5 false) 3 4 = false ∧ pairState (pairS 3 1 5 false) ≠ 2 ∧ standby (pairS 3 1 5 false) = true := by decide +kernel

/-- Two commands wait: the first is taken, the second stays. -/
theorem test_step_front : (match step { run with pending := [.doorbellWrite 3, .link] } with
    | .next t => t.pending
    | _ => []) = [.link] := by decide +kernel
/-- Nothing waits: one unit of time passes in Run, 32 in Standby, none while Off. -/
theorem test_step_idle : ([4, 1, 0].map fun m => match step (pkg m) with
    | .next t => t.gtime
    | _ => 99) = [1, 32, 0] := by decide +kernel
theorem wit_queue : run.pending = [] ∧ modeOf run = 4 ∧ run.cl.catchTo = none ∧ run.cl.slew = false ∧ modeOf (pkg 1) = 1 ∧ modeOf (pkg 0) = 0
    ∧ ({ run with cl := { run.cl with slew := true, phase := 63 } } : State).cl.slew = true ∧ ({ run with cl := { run.cl with catchTo := some 9 } } : State).cl.catchTo = some 9 := by decide +kernel
theorem wit_memories : memoriesWf run ∧ memoriesWf State.reset := by unfold memoriesWf; decide +kernel
/-- A step of GTIME, with a front command that is none of the three which reset the time keeper. -/
theorem wit_gtime : ∃ t, step run = .next t ∧ run.gtime ≤ t.gtime := ⟨_, rfl, by decide +kernel⟩

/-- Ill-formed commands, one for each check of `Instr.wf` and of the well-formedness of operands. -/
theorem test_ill_hart : ([.instructionExecute 240 false .hint, .instructionExecute 0 false (.lui 32 0), .instructionExecute 0 false (.jalr 0 32 0), .instructionExecute 0 false (.opImm .add 32 0 0),
    .instructionExecute 0 false (.branch .eq 0 32 0), .instructionExecute 0 false (.op .add 0 0 32), .instructionExecute 0 false (.mul .mul 0 32 0), .instructionExecute 0 false (.fp .add false 8 0 0 0 0),
    .instructionExecute 0 false (.fp .madd false 0 0 0 0 32), .load 0 false 32 0 0 4 .fp, .load 0 false 0 32 0 4 .fp, .load 0 false 0 0 0 3 .fp, .store 0 false 0 32 0 4 .int, .store 0 false 0 0 0 16 .int,
    .amo 0 .add 0 0 32 4, .lr 0 32 0 4, .sc 0 0 32 0 4, .sfenceVma 0 32 0, .hfence 0 true 0 32, .cboClean 0 32, .csrAccess 0 .rw 4096 0 (.reg 0), .csrAccess 0 .rw 0 0 (.reg 32), .csrAccess 0 .rw 0 0 (.imm 32),
    .scanDone 0 32, .hpmOverflow 0 2, .hpmOverflow 0 32, .fence 240, .debugResume 240] : List Instr).all (fun i => !i.wf) = true := by decide +kernel
theorem test_ill_regs : ([.hubIpiWrite (.hart 240) 0, .hubIpiWrite (.io 128 false) 0, .aplSrcWrite .warden 0 0, .aplSrcWrite .warden 32 0, .aplicSourceEdge 28 true, .evtMaskWrite .warden ⟨64, 0⟩ 0, .evtMaskWrite .warden ⟨0, 65536⟩ 0,
    .registerWrite .warden (2 ^ 48) .w32 0, .viewBitWrite .warden ⟨0, 1⟩ .set 2 0, .viewBitWrite .warden ⟨0, 1⟩ .set 4096 0, .aliasWrite .warden ⟨0, 1⟩ 64 0 0, .aliasWrite .warden ⟨0, 1⟩ 0 32 0, .commitPoint ⟨64, 0⟩,
    .viewWindowRead .warden 64 0 2, .viewWindowRead .warden 0 0x4000000 2, .viewWindowRead .warden 0 0 3, .sepWinEnable .warden 32 0, .counterOverflow ⟨0, 1⟩ 8, .bwWindowStart 16, .domCtrlRequest .warden 0 6 0, .domCtrlRequest .warden 0 0 4] : List Instr).all (fun i => !i.wf) = true := by decide +kernel
theorem test_ill_links : ([.rootLock 64 0, .dvfsSwitch 0 6, .powerOnReset false ⟨2, 0, false⟩, .powerOnReset false ⟨0, 16, false⟩, .homeRequest ⟨72, 0, .read, false, 0⟩ .good, .homeRequest ⟨0, 2 ^ 42, .read, false, 0⟩ .good,
    .homeRequest ⟨0, 0, .read, false, 16⟩ .good, .ioRequest .warden (2 ^ 42) .read 0, .ioRequest .warden 0 .read 16, .snoop 72 0, .snoop 0 (2 ^ 42), .pendingServe (2 ^ 42) .good, .hubCompletion 1024 0 0 false, .hubCompletion 0 256 0 false,
    .hingeTrainAttempt 64 0 ⟨0, [], true⟩, .hingeTrainAttempt 0 16 ⟨0, [], true⟩, .recalAuto 0 0 8, .ddrChannelLoss 8, .resyncDone 8, .barrierTrainAttempt (2 ^ 24), .presend 8, .grantCutoff 8, .fieldHello 8 0 0 0 0 0,
    .cycIn 0 4096 0 0 [], .cycIn 0 0 256 0 [], .cycIn 0 0 0 1 [0], .hostWindowRequest 1024 0 0 4 none false, .hostWindowRequest 0 1 0 4 none false, .doorbellWrite 32, .hostCompletion 0 65536 0 0 false, .deviceRequest 4 0 0 0 4 none false,
    .deviceRequest 0 4 0 0 4 none false, .deviceRequest 0 0 65536 0 4 none false, .intxMessage 0 4 true, .ylkHello ⟨4, 0, 0, false, false⟩ 0 false 0 0 0 0 0, .ylkHello ⟨0, 16, 0, false, false⟩ 0 false 0 0 0 0 0,
    .ylkHello ⟨0, 0, 16, false, false⟩ 0 false 0 0 0 0 0, .memberTimeout 16, .ylkWr ⟨0, 0, 0, false, false⟩ 0 0 0 0 [], .replLine ⟨0, 0, 0, false, false⟩ 0 0 16384 [], .replLine ⟨0, 0, 0, false, false⟩ 0 0 0 [],
    .replDesc ⟨0, 0, 0, false, false⟩ (List.replicate 9 (0, 0)), .replSess ⟨0, 0, 0, false, false⟩ (List.replicate 5 (0, 0, 0, 0)), .info 3, .l2OpDone 0 6, .supplyDroop 40] : List Instr).all (fun i => !i.wf) = true := by decide +kernel
theorem test_ill_image (n : Nat) (h : 0x100000 < n) : (Instr.bootImageLoaded (List.replicate n 0)).wf = false := by
  show decide ((List.replicate n (0 : Byte)).length ≤ 0x100000) = false
  rw [List.length_replicate]; exact decide_eq_false (Nat.not_le.mpr h)
theorem test_well_formed : ([.load 0 false 5 1 0 8 (.int false), .aplSrcWrite (.hart 239) 31 0, .fieldHello 7 0 0 0 0 0, .barrierTrainAttempt (2 ^ 24 - 1), .info 2] : List Instr).all (·.wf) = true := by decide +kernel
/-- The table gives its rows no bits: no word spells a command, and the queue stays as it is. -/
theorem test_no_word : decodeTableWord 32 0x13 = none ∧ (State.reset.withFetchWord 32 0x13).pending = [] := by decide +kernel

end Sys2Proof.Tests
end

section
/-! The events of a block (R43, R53, R100): the message of a route entry, what follows a change of the event output, the
accesses of the header words, and the capture of an event. -/
namespace Sys2Proof.Machine
open Sys2Proof

/-- The messages that the router sends for a source whose entry is `e` (R100): one if the entry is enabled. -/
def entryMsgs (src e : Nat) : List IrqMsg :=
  if entEn e then [⟨src, entHart e, if entSec e then 0 else 1 + entFile e, entIdent e⟩] else []

@[simp] theorem irqs_wakeFor (s : State) (d n : Nat) (c : Option Instr) : (wakeFor s d n c).irqs = s.irqs := by
  simp [wakeFor, apply_ite State.irqs]

@[simp] theorem irqs_sendMsg (s : State) (m : IrqMsg) : (sendMsg s m).irqs = s.irqs ++ [m] := by
  unfold sendMsg
  simp only []
  split
  · exact irqs_wakeFor _ _ _ _
  · rfl

@[simp] theorem irqs_sendEntry (s : State) (src e : Nat) : (sendEntry s src e).irqs = s.irqs ++ entryMsgs src e := by
  unfold sendEntry entryMsgs
  split
  · exact irqs_sendMsg _ _
  · exact (List.append_nil _).symm

/-- Outside the field die a message goes out if the event output is asserted and either rose or is signalled again. -/
theorem irqs_outChange {s : State} {b : Blk} {old new again : Bool} (hb : b.die ≠ 24) :
    (outChange s b old new again).irqs = s.irqs ++ if new && (!old || again) then entryMsgs (bkey b) (routeOf s b) else [] := by
  rw [outChange_host hb]
  split
  · exact irqs_sendEntry _ _ _
  · exact (List.append_nil _).symm

/-- On the field die only the barrier sees a change of the event output (R293). -/
theorem outChange_field {s : State} {b : Blk} {old new again : Bool} (hb : b.die = 24) :
    outChange s b old new again = { s with bar := (outChange s b old new again).bar } := by
  unfold outChange barSend
  rw [if_pos hb]
  split
  · split <;> rfl
  · rfl

theorem hdrOf_of_hdrs {s t : State} (h : t.hdrs = s.hdrs) (b : Blk) : hdrOf t b = hdrOf s b := by simp [hdrOf, h]

@[simp] theorem hdrOf_outChange (s : State) (b c : Blk) (old new again : Bool) : hdrOf (outChange s b old new again) c = hdrOf s c :=
  hdrOf_of_hdrs (hdrs_outChange s b old new again) c

/-- A frame holds as well when both states keep the same response. -/
theorem regFrame_withResp {bs : List Blk} {s t : State} (h : regFrame bs s t) (r : Resp) :
    regFrame bs { s with resp := r } { t with resp := r } :=
  by
  have hr : ({ t with resp := r } : State) = { { s with fields := t.fields, hdrs := t.hdrs, irqs := t.irqs, doms := t.doms } with resp := r } :=
    congrArg (fun u : State => { u with resp := r }) h.1
  exact ⟨hr, h.2⟩

/-- What a write that replaces a block's header and signals its event output again does (R43, R100). -/
theorem respond_outChange_again {s : State} {b : Blk} (h : Hdr) (old : Bool) (hb : b.die ≠ 24) :
    let t := respond (outChange (setHdr s b h) b old (evtOut h) true) 0
    hdrOf t b = h ∧ regFrame [b] { s with resp := {} } t
      ∧ t.irqs = s.irqs ++ if evtOut (hdrOf t b) then entryMsgs (bkey b) (routeOf s b) else [] := by
  have hh : hdrOf (respond (outChange (setHdr s b h) b old (evtOut h) true) 0) b = h :=
    (hdrOf_outChange _ _ _ _ _ _).trans (hdrOf_setHdr_same _ _ _)
  have hf : regFrame [b] s (outChange (setHdr s b h) b old (evtOut h) true) :=
    regFrame_trans (regFrame_setHdr (by simp)) (regFrame_outChange hb)
  refine ⟨hh, regFrame_withResp hf {}, ?_⟩
  rw [hh, respond_irqs, irqs_outChange hb, Bool.or_true, Bool.and_true]
  rfl

/-- Every block decodes at least the offsets of the header (R40, R50). -/
theorem decodeOff_header (b : Blk) {off : Nat} (ho : off < 0x40) : decodeOff b off = off := by
  have hs : 6 ≤ spanExp (typeOf b) := by unfold spanExp; split <;> omega
  exact Nat.mod_eq_of_lt (Nat.lt_of_lt_of_le ho (Nat.pow_le_pow_right Nat.two_pos hs))

/-- No header word but BLK_CTRL refuses an access (R42, R52). -/
theorem countRefused_header (s : State) (b : Blk) (w : Who) (a m : Nat) (wr : Bool) {off : Nat} (ho : off < 0x40) (hc : off ≠ 8) :
    countRefused s w a wr (refusals s b off w m wr) = s := by
  have hr : refusals s b off w m wr = [] := by simp [refusals, ho, hc]
  simp [countRefused, hr]

/-- A write of a header word other than BLK_CTRL, of a block whose port is open. -/
theorem regWr_header {s : State} {b : Blk} (hp : portOpen s b) (m : Master) {off : Nat} (ha : off % 4 = 0) (ho : off < 0x40) (hc : off ≠ 8)
    (x : BitVec 32) : regWr s m b off x.toNat = respond (wrHeader s b off (whoOf s m) .base x.toNat 15) 0 := by
  rw [regWr_eq hp m ha (by omega), decodeOff_header b ho, countRefused_header s b _ _ _ _ ho hc, Nat.mod_eq_of_lt x.isLt]
  simp [portWrite, ho]

/-- EVT_STAT reads SEQ and the pending bits, and marks them seen. -/
theorem portRead_evtStat (s : State) (b : Blk) (w : Who) :
    portRead s b 0x010 w .base false
      = ((hdrOf s b).seq.toNat * 2 ^ 24 + (hdrOf s b).pend.toNat, setHdr s b { hdrOf s b with seen := true }) := rfl

theorem regRd_evtStat {s : State} {b : Blk} (hp : portOpen s b) (m : Master) :
    regRd s m b 0x010 = respond (setHdr s b { hdrOf s b with seen := true }) ((hdrOf s b).seq.toNat * 2 ^ 24 + (hdrOf s b).pend.toNat) := by
  have hlt : (hdrOf s b).seq.toNat * 2 ^ 24 + (hdrOf s b).pend.toNat < 2 ^ 32 := by
    have := (hdrOf s b).seq.isLt
    have := (hdrOf s b).pend.isLt
    omega
  rw [regRd_eq hp m (by decide) (by decide) _ rfl, decodeOff_header b (by decide), countRefused_header s b _ _ _ _ (by decide) (by decide),
    portRead_evtStat, Nat.mod_eq_of_lt hlt]

/-- A write of EVT_ACK reaches the acknowledgement of its lowest byte. -/
theorem regWr_evtAck {s : State} {b : Blk} (hp : portOpen s b) (m : Master) (x : BitVec 32) :
    regWr s m b 0x014 x.toNat = respond (evtAck s b (BitVec.ofNat 8 x.toNat)) 0 :=
  regWr_header hp m (by decide) (by decide) (by decide) x

theorem regWr_evtMask {s : State} {b : Blk} (hp : portOpen s b) (m : Master) (x : BitVec 32) :
    regWr s m b 0x018 x.toNat = respond (evtMask s b (BitVec.ofNat 24 x.toNat)) 0 := by
  have hv : BitVec.ofNat 24 (viewVal (hdrOf s b).mask.toNat x.toNat 24 .base) = BitVec.ofNat 24 x.toNat :=
    BitVec.eq_of_toNat_eq (by simp [viewVal])
  rw [regWr_header hp m (by decide) (by decide) (by decide) x, ← hv]
  rfl

/-- The pending bits that an acknowledgement leaves: those captured less than `age` steps of SEQ ago (R53). -/
def ackKept (h : Hdr) (age : Nat) : BitVec 24 :=
  (List.range 24).foldl (fun a n => if h.pend.getLsbD n && decide ((h.seq - mget 0 h.capt n).toNat < age) then a ||| (1#24 <<< n) else a) 0

theorem evtAck_stale {s : State} {b : Blk} {sq : BitVec 8} (h : 128 ≤ ((hdrOf s b).seq - sq).toNat) : evtAck s b sq = staleAck s b :=
  if_pos h

theorem evtAck_recent {s : State} {b : Blk} {sq : BitVec 8} (h : ((hdrOf s b).seq - sq).toNat < 128) :
    let h' := { hdrOf s b with pend := ackKept (hdrOf s b) ((hdrOf s b).seq - sq).toNat }
    evtAck s b sq = outChange (setHdr s b h') b (evtOut (hdrOf s b)) (evtOut h') true :=
  if_neg (Nat.not_le.mpr h)

theorem getLsbD_one_shiftLeft {n k : Nat} (hk : k < 24) : (1#24 <<< n).getLsbD k = decide (n = k) := by
  rw [← BitVec.twoPow_eq, BitVec.getLsbD_twoPow]
  by_cases h : n = k <;> simp [h, hk]

/-- A word built from single bits has those that were chosen. -/
theorem getLsbD_foldl_setBits (p : Nat → Bool) {k : Nat} (hk : k < 24) (l : List Nat) (a : BitVec 24) :
    (l.foldl (fun a n => if p n then a ||| (1#24 <<< n) else a) a).getLsbD k = (a.getLsbD k || (decide (k ∈ l) && p k)) := by
  induction l generalizing a with
  | nil => simp
  | cons n l ih =>
    rw [List.foldl_cons, ih]
    by_cases hn : n = k
    · subst hn
      cases p n <;> simp [getLsbD_one_shiftLeft hk]
    · cases p n <;> simp [getLsbD_one_shiftLeft hk, hn, Ne.symm hn]

theorem getLsbD_ackKept (h : Hdr) (age : Nat) {n : Nat} (hn : n < 24) :
    (ackKept h age).getLsbD n = (h.pend.getLsbD n && decide ((h.seq - mget 0 h.capt n).toNat < age)) := by
  rw [ackKept, getLsbD_foldl_setBits (fun n => h.pend.getLsbD n && decide ((h.seq - mget 0 h.capt n).toNat < age)) hn]
  simp [hn]

/-- A capture replaces the block's header, and what follows is what follows the change of its event output. -/
theorem capture_eq_outChange (s : State) (b : Blk) (n : Nat) :
    capture s b n = outChange (setHdr s b (hdrOf (capture s b n) b)) b (evtOut (hdrOf s b)) (evtOut (hdrOf (capture s b n) b)) := by
  rw [hdrOf_capture]
  rfl

theorem hdrOf_capture_other {s : State} {b c : Blk} {n : Nat} (hc : bkey c ≠ bkey b) : hdrOf (capture s b n) c = hdrOf s c := by
  rw [capture_eq_outChange, hdrOf_outChange, hdrOf_setHdr_other _ _ _ _ hc]

theorem pend_capture_other {s : State} {b : Blk} {n k : Nat} (hk : k < 24) (hn : k ≠ n) :
    (hdrOf (capture s b n) b).pend.getLsbD k = (hdrOf s b).pend.getLsbD k := by
  simp [hdrOf_capture, getLsbD_one_shiftLeft hk, Ne.symm hn]

/-- An event that is new, or that a reader may have seen, takes a new sequence number. -/
theorem seq_capture_fresh {s : State} {b : Blk} {n : Nat} (h : (hdrOf s b).pend.getLsbD n = false ∨ (hdrOf s b).seen = true) :
    (hdrOf (capture s b n) b).seq = (hdrOf s b).seq + 1 ∧ (hdrOf (capture s b n) b).seen = false := by
  rw [hdrOf_capture]
  rcases h with h | h <;> simp [h]

/-- An event that is pending and that no reader has seen keeps the current sequence number. -/
theorem seq_capture_pending {s : State} {b : Blk} {n : Nat} (h : (hdrOf s b).pend.getLsbD n = true ∧ (hdrOf s b).seen = false) :
    (hdrOf (capture s b n) b).seq = (hdrOf s b).seq ∧ (hdrOf (capture s b n) b).seen = false := by
  obtain ⟨hp, hs⟩ := h
  simp [hdrOf_capture, hp, hs]

theorem capt_capture_same (s : State) (b : Blk) (n : Nat) : mget 0 (hdrOf (capture s b n) b).capt n = (hdrOf (capture s b n) b).seq := by
  simp [hdrOf_capture]

theorem capt_capture_other {s : State} {b : Blk} {n k : Nat} (hk : k ≠ n) :
    mget 0 (hdrOf (capture s b n) b).capt k = mget 0 (hdrOf s b).capt k := by
  simp [hdrOf_capture, mget_mput_other _ _ _ _ _ hk]

theorem mask_capture (s : State) (b : Blk) (n : Nat) : (hdrOf (capture s b n) b).mask = (hdrOf s b).mask := by
  rw [hdrOf_capture]

/-- Outside the field die a capture sends one message exactly if the event output rises and the route entry is enabled. -/
theorem irqs_capture {s : State} {b : Blk} {n : Nat} (hb : b.die ≠ 24) :
    (capture s b n).irqs = s.irqs ++ if evtOut (hdrOf s b) = false ∧ evtOut (hdrOf (capture s b n) b) = true ∧ entEn (routeOf s b) = true then
      [⟨bkey b, entHart (routeOf s b), if entSec (routeOf s b) then 0 else 1 + entFile (routeOf s b), entIdent (routeOf s b)⟩] else [] := by
  have hr : ∀ h, routeOf (setHdr s b h) b = routeOf s b := fun _ => rfl
  rw [capture_eq_outChange, irqs_outChange hb, setHdr_irqs, hr, hdrOf_outChange, hdrOf_setHdr_same]
  cases evtOut (hdrOf s b) <;> cases evtOut (hdrOf (capture s b n) b) <;> simp [entryMsgs]

/-- A capture on the field die touches headers and the barrier only. -/
theorem capture_field {s : State} {b : Blk} {n : Nat} (hb : b.die = 24) :
    capture s b n = { s with hdrs := (capture s b n).hdrs, bar := (capture s b n).bar } := by
  rw [capture_eq_outChange, outChange_field hb]
  rfl

/-- Settles O20: each access leads to its header operation, and a capture is read off the header it leaves. -/
theorem eventSequence : Obligations.EventSequence := by
  unfold Obligations.EventSequence
  refine ⟨fun s m b hp => ?_, fun s b n hn => ?_⟩
  · have hb : b.die ≠ 24 := answers_die hp.2.2
    refine ⟨⟨_, rfl, regRd_evtStat hp m⟩, fun v => ⟨fun hold => ?stale, fun hnew => ?recent⟩, fun v => ?mask⟩
    case stale => exact ⟨_, rfl, (regWr_evtAck hp m v).trans (by rw [evtAck_stale hold]; rfl)⟩
    case recent =>
      refine ⟨respond (evtAck s b (BitVec.ofNat 8 v.toNat)) 0, congrArg Host.Outcome.next (regWr_evtAck hp m v), ?_⟩
      rw [evtAck_recent hnew]
      obtain ⟨hh, hf, hi⟩ := respond_outChange_again (s := s)
        { hdrOf s b with pend := ackKept (hdrOf s b) ((hdrOf s b).seq - BitVec.ofNat 8 v.toNat).toNat } (evtOut (hdrOf s b)) hb
      refine ⟨by rw [hh], hf, fun n hn => ?_, hi⟩
      rw [hh]
      exact getLsbD_ackKept _ _ hn
    case mask => exact ⟨_, congrArg Host.Outcome.next (regWr_evtMask hp m v), respond_outChange_again _ _ hb⟩
  · exact ⟨raised_capture hn, fun k hk hkn => pend_capture_other hk hkn, seq_capture_fresh, seq_capture_pending,
      capt_capture_same s b n, fun k hk => capt_capture_other hk, mask_capture s b n, fun c hc => hdrOf_capture_other hc,
      fun hb => ⟨regFrame_capture (by simp) hb, irqs_capture hb⟩, capture_field⟩

end Sys2Proof.Machine
end

section
/-! What is recorded stands: the operations on the way to Lockdown keep the queued Lockbox records and the pending events
(R53, R408). -/
namespace Sys2Proof.Machine
open Sys2Proof

/-- Lockbox records that are queued stay queued, and events that are pending stay pending. -/
structure RecordsKept (s t : State) : Prop where
  log : ∀ r ∈ s.lbq, r ∈ t.lbq
  pend : ∀ b n, raised s b n → raised t b n

/-- An event pending in any block stays so when an event is captured. -/
theorem raised_capture_any {s : State} {b c : Blk} {n m : Nat} (h : raised s c m) : raised (capture s b n) c m := by
  by_cases hc : bkey c = bkey b
  · have hk : ∀ u, hdrOf u c = hdrOf u b := fun u => by unfold hdrOf; rw [hc]
    unfold raised at *
    rw [hk] at *
    exact raised_capture_of h
  · unfold raised at *
    rwa [hdrOf_capture_other hc]

theorem regsOnly_capture {s : State} {b : Blk} {n : Nat} (hd : b.die ≠ 24) : regsOnly s (capture s b n) :=
  (regFrame_capture (bs := [b]) (by simp) hd).1

namespace RecordsKept
variable {s t : State}

theorem refl (s : State) : RecordsKept s s := ⟨fun _ h => h, fun _ _ h => h⟩

theorem trans {u : State} (h : RecordsKept s t) (k : RecordsKept t u) : RecordsKept s u :=
  ⟨fun r hr => k.log r (h.log r hr), fun b n hn => k.pend b n (h.pend b n hn)⟩

theorem of_eq (hl : t.lbq = s.lbq) (hh : t.hdrs = s.hdrs) : RecordsKept s t := by
  refine ⟨fun r hr => by rwa [hl], fun b n hn => ?_⟩
  unfold raised at *
  rwa [hdrOf_of_hdrs hh]

theorem foldl {α : Type} {f : State → α → State} (hf : ∀ u a, RecordsKept u (f u a)) (l : List α) (h : RecordsKept s t) :
    RecordsKept s (l.foldl f t) :=
  List.foldlRecOn l f h fun u hu a _ => hu.trans (hf u a)

theorem wrF {b : Blk} {f : Field} {v n k : Nat} (h : RecordsKept s t) : RecordsKept s (wrF t b f v n k) :=
  h.trans (of_eq rfl rfl)

theorem capture {b : Blk} {n : Nat} (hd : b.die ≠ 24) (h : RecordsKept s t) : RecordsKept s (capture t b n) :=
  have hl : (Machine.capture t b n).lbq = t.lbq := by rw [regsOnly_capture (s := t) (n := n) hd]
  h.trans ⟨fun r hr => by rwa [hl], fun _ _ hr => raised_capture_any hr⟩

theorem send {d : TxTo} {k : Nat} {a : List Nat} (h : RecordsKept s t) : RecordsKept s (send t d k a) :=
  h.trans (of_eq rfl rfl)

theorem logRec {code die inst : Nat} {pay : List Nat} {sec hw : Bool} (h : RecordsKept s t) :
    RecordsKept s (logRec t code die inst pay sec hw) := by
  refine h.trans ?_
  unfold Machine.logRec
  split
  · exact ⟨fun r hr => List.mem_append_left _ hr, fun _ _ h => h⟩
  · exact of_eq rfl rfl

theorem answer {c st : Nat} (h : RecordsKept s t) : RecordsKept s (answer t c st) :=
  capture (by decide) (h.trans (of_eq rfl rfl))

theorem goMode {m cause : Nat} (h : RecordsKept s t) : RecordsKept s (goMode t m cause) :=
  capture (by decide) (send (wrF (wrF (wrF (wrF (logRec h))))))

theorem barSend {d : Bool} {typ tag pay : Nat} {who : Who} (h : RecordsKept s t) :
    RecordsKept s (barSend t d typ tag pay who) := by
  refine h.trans (of_eq ?_ (hdrs_barSend t d typ tag pay who))
  unfold Machine.barSend
  split
  · split <;> rfl
  · rfl

end RecordsKept

/-- A failed access of a hart changes that hart only. -/
theorem ioErr_eq (s : State) (h : Nat) : ioErr s h = { s with harts := (ioErr s h).harts } := by
  unfold ioErr raise
  split
  · dsimp only
    split <;> rfl
  · rfl

/-- A waiting request that ends changes the requests, the hart that waits and the response. -/
theorem ioFail_eq (s : State) (tag : Nat) :
    ioFail s tag = { s with iot := (ioFail s tag).iot, harts := (ioFail s tag).harts, resp := (ioFail s tag).resp } := by
  unfold ioFail
  split
  · rfl
  · dsimp only
    split
    · rw [ioErr_eq]
    · split <;> rfl

/-- A read of the field die that ends in an error changes the reads that wait, the hart, the response and what is sent. -/
theorem barRegErr_eq (s : State) (tag : Nat) (r : BarReg) :
    barRegErr s tag r = { s with bar := { s.bar with regs := mdel s.bar.regs tag }, harts := (barRegErr s tag r).harts,
                                 resp := (barRegErr s tag r).resp, tx := (barRegErr s tag r).tx } := by
  unfold barRegErr
  dsimp only
  split
  · unfold backSend
    split <;> rfl
  · split
    · rw [ioErr_eq]
    · rfl

end Sys2Proof.Machine
end

section
/-! The isolation barrier goes down (R292, R293): what that leaves alone, whatever was under way. -/
namespace Sys2Proof.Machine
open Sys2Proof

theorem sameMemory_refl (s : State) : sameMemory s s := ⟨rfl, rfl, rfl, rfl, rfl, rfl⟩

theorem sameMemory_trans {s t u : State} (h : sameMemory s t) (k : sameMemory t u) : sameMemory s u := by
  unfold sameMemory at *
  simp only [h, k, and_self]

theorem sameMemory_of_regsOnly {s t : State} (h : regsOnly s t) : sameMemory s t := by
  rw [h]
  exact sameMemory_refl s

/-- What the fall of the barrier keeps: records, memory, GTIME and the hold of Lockdown; and a barrier that is down stays
down. -/
structure StaysDown (s t : State) : Prop extends RecordsKept s t where
  memory : sameMemory s t
  gtime : t.gtime = s.gtime
  hold : t.bar.ldHold = s.bar.ldHold
  down : rdF s bar BAR.LINK_STAT.STATE = 0 → rdF t bar BAR.LINK_STAT.STATE = 0

namespace StaysDown
variable {s t : State}

theorem refl (s : State) : StaysDown s s := ⟨.refl s, sameMemory_refl s, rfl, rfl, id⟩

theorem trans {u : State} (h : StaysDown s t) (k : StaysDown t u) : StaysDown s u :=
  ⟨h.toRecordsKept.trans k.toRecordsKept, sameMemory_trans h.memory k.memory, k.gtime.trans h.gtime, k.hold.trans h.hold,
    fun hd => k.down (h.down hd)⟩

theorem foldl {α : Type} {f : State → α → State} (hf : ∀ u a, StaysDown u (f u a)) (l : List α) (h : StaysDown s t) :
    StaysDown s (l.foldl f t) :=
  List.foldlRecOn l f h fun u hu a _ => hu.trans (hf u a)

/-- A change outside registers, headers, records, memory, time and the hold. -/
theorem of_eq (hf : t.fields = s.fields) (hh : t.hdrs = s.hdrs) (hl : t.lbq = s.lbq) (hm : sameMemory s t)
    (hg : t.gtime = s.gtime) (hb : t.bar.ldHold = s.bar.ldHold) : StaysDown s t :=
  ⟨.of_eq hl hh, hm, hg, hb, fun hd => (rdF_of_fields s t _ _ _ _ hf).trans hd⟩

theorem wrF {b : Blk} {f : Field} {v n k : Nat} (hk : fkey bar BAR.LINK_STAT.STATE 0 0 ≠ fkey b f n k)
    (h : StaysDown s t) : StaysDown s (wrF t b f v n k) :=
  h.trans ⟨.of_eq rfl rfl, sameMemory_refl t, rfl, rfl, fun hd => (rdF_wrF_other _ _ _ _ _ _ _ _ _ _ hk).trans hd⟩

theorem capture {b : Blk} {n : Nat} (hd : b.die ≠ 24) (h : StaysDown s t) : StaysDown s (capture t b n) := by
  have hr : regsOnly t (Machine.capture t b n) := regsOnly_capture hd
  refine h.trans ⟨.capture hd (.refl t), sameMemory_of_regsOnly hr, ?_, ?_, fun hz => ?_⟩
  · rw [hr]
  · rw [hr]
  · exact (rdF_capture hd (by decide) (by decide) (by decide) (by decide)).trans hz

theorem send {d : TxTo} {k : Nat} {a : List Nat} (h : StaysDown s t) : StaysDown s (send t d k a) :=
  h.trans (of_eq rfl rfl rfl (sameMemory_refl t) rfl rfl)

theorem setChan {c : Nat} {x : Chan} (h : StaysDown s t) : StaysDown s (setChan t c x) :=
  h.trans (of_eq rfl rfl rfl (sameMemory_refl t) rfl rfl)

theorem logRec {code die inst : Nat} {pay : List Nat} {sec hw : Bool} (h : StaysDown s t) :
    StaysDown s (logRec t code die inst pay sec hw) := by
  refine h.trans ?_
  have hk : RecordsKept t (Machine.logRec t code die inst pay sec hw) := .logRec (.refl t)
  revert hk
  unfold Machine.logRec
  split <;> exact fun hk => ⟨hk, sameMemory_refl t, rfl, rfl, id⟩

theorem answer {c st : Nat} (h : StaysDown s t) : StaysDown s (answer t c st) := by
  have hb : fkey bar BAR.LINK_STAT.STATE 0 0 ≠ fkey wdn (chBusyF c) 0 0 := by unfold chBusyF; split <;> decide
  have hs : fkey bar BAR.LINK_STAT.STATE 0 0 ≠ fkey wdn (chStatF c) 0 0 := by unfold chStatF; split <;> decide
  exact capture (by decide) (setChan (wrF hs (wrF hb h)))

theorem endCode {code st : Nat} (h : StaysDown s t) : StaysDown s (endCode t code st) := by
  refine foldl (fun u c => ?_) _ h
  split
  · exact answer (refl u)
  · exact refl u

theorem barRegErr (s : State) (tag : Nat) (r : BarReg) : StaysDown s (barRegErr s tag r) := by
  rw [barRegErr_eq]
  exact of_eq rfl rfl rfl (sameMemory_refl s) rfl rfl

theorem cycOut (s : State) (n q : Nat) (safe : Bool) : StaysDown s (cycOut s n q safe) := by
  unfold Machine.cycOut portSend
  split
  · exact send (refl s)
  · exact refl s

theorem goMode {m cause : Nat} (h : StaysDown s t) : StaysDown s (goMode t m cause) :=
  capture (by decide) (send (wrF (by decide) (wrF (by decide) (wrF (by decide) (wrF (by decide) (logRec h))))))

end StaysDown

/-- The fall of the barrier passes through a state in which its link is down, and the rest of it leaves the link so. -/
theorem barDown_through (s : State) :
    ∃ u, rdF u bar BAR.LINK_STAT.STATE = 0 ∧ StaysDown s u ∧ StaysDown u (barDown s) := by
  unfold barDown
  split
  next hd => exact ⟨s, hd, .refl s, .refl s⟩
  next =>
    have hz : rdF (wrF s bar BAR.LINK_STAT.STATE 0) bar BAR.LINK_STAT.STATE = 0 := rdF_wrF_same s _ _ 0 _ _
    refine ⟨_, hz, ⟨.of_eq rfl rfl, sameMemory_refl s, rfl, rfl, fun _ => hz⟩, ?_⟩
    extract_lets one cut lost counted b f emptied ended logged
    have hcut : StaysDown (wrF s bar BAR.LINK_STAT.STATE 0) cut := .wrF (by decide) (.refl _)
    have hcounted : StaysDown cut counted := .wrF (by decide) (.refl _)
    have hemptied : StaysDown counted emptied := .of_eq rfl rfl rfl (sameMemory_refl _) rfl rfl
    have hended : StaysDown emptied ended := .endCode (.foldl (fun u (e : Nat × BarReg) => .barRegErr u e.1 e.2) _ (.refl _))
    have hlogged : StaysDown ended logged := .logRec (.capture (by decide) (.refl _))
    refine (hcut.trans (hcounted.trans (hemptied.trans hended))).trans ?_
    split
    · split
      · exact .goMode (.refl _)
      · exact .refl _
    · split
      · refine .foldl (fun u e => ?_) _ hlogged
        split
        · exact .cycOut u _ _ _
        · exact .refl u
      · exact hlogged

theorem staysDown_barDown (s : State) : StaysDown s (barDown s) := by
  obtain ⟨u, -, hu, hb⟩ := barDown_through s
  exact hu.trans hb

theorem link_barDown (s : State) : rdF (barDown s) bar BAR.LINK_STAT.STATE = 0 := by
  obtain ⟨u, hz, -, hb⟩ := barDown_through s
  exact hb.down hz

end Sys2Proof.Machine
end

section
/-! GTIME runs on (R70, R419, R421): the counters of clock cycles count, and nothing of memory or the barrier moves. -/
namespace Sys2Proof.Machine
open Sys2Proof

theorem regsOnly_wrF {s t : State} {b : Blk} {f : Field} {v n k : Nat} (h : regsOnly s t) : regsOnly s (wrF t b f v n k) :=
  regsOnly_trans h rfl

theorem regsOnly_ctrPut {s t : State} {b : Blk} {i v : Nat} (h : regsOnly s t) : regsOnly s (ctrPut t b i v) :=
  regsOnly_wrF (regsOnly_wrF h)

theorem regsOnly_ctrOvf {s t : State} {b : Blk} {i : Nat} (h : regsOnly s t) : regsOnly s (ctrOvf t b i) :=
  regsOnly_trans (regsOnly_wrF (regsOnly_wrF (regsOnly_wrF (regsOnly_wrF (regsOnly_wrF h))))) (regsOnly_capture (by decide))

theorem regsOnly_ctrAdd (s : State) (b : Blk) (i n : Nat) : regsOnly s (ctrAdd s b i n) := by
  have hput : ∀ v, regsOnly s (ctrPut s b i v) := fun v => regsOnly_ctrPut (regsOnly_refl s)
  unfold ctrAdd
  extract_lets v put w carried
  split
  · exact hput v
  · split
    · split
      · exact regsOnly_ctrPut (hput v)
      · exact regsOnly_ctrOvf (regsOnly_ctrPut (hput v))
    · exact regsOnly_ctrOvf (hput v)

theorem regsOnly_timeCount (s : State) (t0 t1 : Nat) : regsOnly s (timeCount s t0 t1) := by
  refine List.foldlRecOn _ _ (regsOnly_refl s) fun u hu e _ => ?_
  extract_lets bank b i
  split
  · exact hu
  · exact regsOnly_trans hu (regsOnly_ctrAdd u b i _)

theorem runTo_spec (s : State) (t : Nat) :
    (runTo s t).gtime = max s.gtime t ∧ sameMemory s (runTo s t) ∧ (runTo s t).bar = s.bar := by
  have h : regsOnly s (timeCount s s.gtime (max s.gtime t)) := regsOnly_timeCount s _ _
  have hb : (timeCount s s.gtime (max s.gtime t)).bar = s.bar := by rw [h]
  have hm : sameMemory s (timeCount s s.gtime (max s.gtime t)) := sameMemory_of_regsOnly h
  exact ⟨rfl, hm, hb⟩

/-- The hold of Lockdown ends (R382): the barrier goes down at that instant. -/
theorem lockdownHoldExpire_spec {s : State} {u : Nat} (h : s.bar.ldHold = some u) :
    gives .lockdownHoldExpire s fun t =>
      t.bar.ldHold = none ∧ rdF t bar BAR.LINK_STAT.STATE = 0 ∧ t.gtime = max s.gtime u ∧ sameMemory s t := by
  obtain ⟨hg, hm, -⟩ := runTo_spec s u
  have hd := staysDown_barDown { runTo s u with bar := { (runTo s u).bar with ldHold := none } }
  refine ⟨_, ?_, hd.hold, link_barDown _, hd.gtime.trans hg, sameMemory_trans hm hd.memory⟩
  show execLockdownHoldExpire s = _
  unfold execLockdownHoldExpire
  rw [h]

end Sys2Proof.Machine
end

section
/-! Lockdown (R378, R382, R409): the record of the condition, the loss of contents, the new mode. -/
namespace Sys2Proof.Machine
open Sys2Proof

namespace RecordsKept
variable {s t : State}

theorem ioFail (h : RecordsKept s t) (tag : Nat) : RecordsKept s (ioFail t tag) := by
  rw [ioFail_eq]
  exact h.trans (of_eq rfl rfl)

theorem bumpTag (h : RecordsKept s t) (tag : Nat) : RecordsKept s (bumpTag t tag) := h.trans (of_eq rfl rfl)

theorem rcxDown (s : State) (p l : Nat) : RecordsKept s (rcxDown s p l) := by
  unfold Machine.rcxDown
  split
  · exact refl s
  · extract_lets up cut io later ended dom gone ofLink dropped
    have hlater : RecordsKept s later := of_eq rfl rfl
    have hended : RecordsKept later ended :=
      foldl (fun u tag => bumpTag (ioFail (refl u) tag) tag) _ (refl later)
    have hdropped : RecordsKept ended dropped := of_eq rfl rfl
    exact capture (b := rcx p) (by simp [rcx, blkOf]) ((hlater.trans (hended.trans hdropped)).trans (of_eq rfl rfl))

theorem portGen (h : RecordsKept s t) (p : Nat) : RecordsKept s (portGen t p) := by
  unfold Machine.portGen
  extract_lets counted given
  split
  · exact h.trans (of_eq rfl rfl)
  · exact capture (b := ylk p) (by simp [ylk, blkOf]) (h.trans (of_eq rfl rfl))

theorem ylkDown (s : State) (p : Nat) : RecordsKept s (ylkDown s p) := by
  unfold Machine.ylkDown
  split
  · exact refl s
  · extract_lets b aged cleared cl left noted out alone
    have haged : RecordsKept s aged := portGen (wrF (refl s)) p
    have hleft : RecordsKept aged left := of_eq rfl rfl
    have hnoted : RecordsKept s noted := capture (b := ylk p) (by simp [ylk, blkOf]) (haged.trans hleft)
    split
    · split
      · exact hnoted.trans (of_eq rfl rfl)
      · exact hnoted.trans (of_eq rfl rfl)
    · exact hnoted

theorem ylkOff (s : State) : RecordsKept s (ylkOff s) := by
  unfold Machine.ylkOff
  extract_lets ports z left
  have hports : RecordsKept s ports := foldl (fun u p => wrF (ylkDown u p)) _ (refl s)
  have hleft : RecordsKept ports left := wrF (wrF (wrF (wrF (wrF (wrF (refl ports))))))
  clear_value left
  exact (hports.trans hleft).trans (of_eq rfl rfl)

theorem powerDown (s : State) : RecordsKept s (powerDown s) := by
  unfold Machine.powerDown
  extract_lets links off scan spl
  have hlinks : RecordsKept s links := foldl (fun u p => foldl (fun v l => rcxDown v p l) _ (refl u)) _ (refl s)
  have hoff : RecordsKept links off := ylkOff links
  clear_value off
  exact (hlinks.trans hoff).trans (of_eq rfl rfl)

/-- Sealing a fault starts with its record in the Lockbox queue (R409). -/
theorem sealFault (s : State) (cond : Nat) (pay : List Nat) :
    RecordsKept (Machine.logRec s 0xF0 0 0xFF ([cond, 0, 0, 0] ++ pay)) (sealFault s cond pay) := by
  unfold Machine.sealFault
  extract_lets r logged
  have hlogged : RecordsKept (Machine.logRec s 0xF0 0 0xFF ([cond, 0, 0, 0] ++ pay)) logged := refl logged
  clear_value logged
  split
  · exact capture (b := lbx) (by decide) (hlogged.trans (of_eq rfl rfl))
  · exact wrF hlogged

end RecordsKept

/-- Lockdown ends in the loss of everything outside the always-on domain and the change of mode; what was sealed and what was
pending before that stands. -/
theorem lockdown_through (s : State) (cond cause : Nat) (pay : List Nat) :
    ∃ u, RecordsKept (sealFault s cond pay) u ∧ lockdown s cond cause pay = goMode (powerDown u) 7 cause := by
  unfold lockdown
  extract_lets m paired fault refused wd stayed counted wd' saved ms up told bar' fld' fallen
  refine ⟨fallen, ?_, rfl⟩
  have hrefused : RecordsKept fault refused := by
    refine .foldl (fun u c => ?_) _ (.refl fault)
    dsimp only
    split
    · exact .answer (.refl u)
    · exact .refl u
  clear_value refused
  have hsaved : RecordsKept refused saved := .of_eq rfl rfl
  have htold : RecordsKept saved told := .foldl (fun u c => .barSend (.refl u)) _ (.refl saved)
  refine (hrefused.trans hsaved).trans ?_
  unfold fallen
  clear_value told saved
  split
  · exact .refl saved
  · split
    · split
      · exact (staysDown_barDown saved).toRecordsKept
      · exact htold.trans (.of_eq rfl rfl)
    · split
      · exact (staysDown_barDown saved).toRecordsKept
      · have hstop : RecordsKept saved { saved with fld := { saved.fld with stopped := true } } := .of_eq rfl rfl
        exact hstop.trans (staysDown_barDown _).toRecordsKept

/-- The new mode of the package and its cause are shown, and the change is captured (R377). -/
theorem nowMode_goMode (s : State) {m cause : Nat} (hm : m < 16) (hc : cause < 16) : nowMode (goMode s m cause) m cause := by
  have hread : ∀ (u : State) {f : Field}, f.off + f.stride * 0 < 4096 → f.lo < 32 →
      rdF (capture u (pwr 0) 0) (pwr 0) f = rdF u (pwr 0) f :=
    fun _ _ ho hl => rdF_capture (by decide) (by decide) ho hl (by decide)
  refine ⟨(hread _ (by decide) (by decide)).trans ?mode, (hread _ (by decide) (by decide)).trans ?cause, raised_capture (by decide)⟩
  case mode =>
    refine (rdF_wrF_other _ _ _ _ _ _ _ _ _ _ (by decide)).trans ?_
    refine (rdF_wrF_other _ _ _ _ _ _ _ _ _ _ (by decide)).trans ?_
    exact (rdF_wrF_same _ _ _ _ _ _).trans (Nat.mod_eq_of_lt hm)
  case cause =>
    refine (rdF_wrF_other _ _ _ _ _ _ _ _ _ _ (by decide)).trans ?_
    exact (rdF_wrF_same _ _ _ _ _ _).trans (Nat.mod_eq_of_lt hc)

theorem mfind_map_snd {β : Type} (m : Map β) (g : β → β) (k : Nat) :
    mfind (m.map fun e => (e.1, g e.2)) k = (mfind m k).map g := by
  induction m with
  | nil => rfl
  | cons e r ih =>
    simp only [List.map_cons, mfind, ih]
    split <;> rfl

theorem mget_map_resetHart (hs : Map Hart) (h : Nat) :
    mget ({} : Hart) (hs.map fun e => (e.1, resetHart e.2)) h = resetHart (mget {} hs h) := by
  unfold mget
  rw [mfind_map_snd]
  cases mfind hs h <;> rfl

/-- Every hart is in its reset state when the domains have lost power (R379). -/
theorem dark_powerDown (s : State) : dark (powerDown s) := by
  unfold powerDown
  extract_lets links off scan spl
  clear_value off
  refine ⟨rfl, rfl, rfl, fun h => ?_⟩
  unfold hartOf
  dsimp only
  rw [mget_map_resetHart]
  rfl

theorem harts_capture {s : State} {b : Blk} {n : Nat} (hd : b.die ≠ 24) : (capture s b n).harts = s.harts := by
  rw [regsOnly_capture (s := s) (n := n) hd]

theorem harts_logRec (s : State) (code die inst : Nat) (pay : List Nat) (sec hw : Bool) :
    (logRec s code die inst pay sec hw).harts = s.harts := by
  unfold logRec
  split <;> rfl

theorem harts_goMode (s : State) (m cause : Nat) : (goMode s m cause).harts = s.harts := by
  simp only [goMode, harts_capture (b := pwr 0) (by decide), send_harts, wrF_harts, harts_logRec]

/-- A change of mode brings nothing back. -/
theorem dark_goMode {s : State} (m cause : Nat) (h : dark s) : dark (goMode s m cause) := by
  obtain ⟨hl2, hl3, hls, hh⟩ := h
  obtain ⟨-, -, ml2, ml3, mls, -⟩ := (StaysDown.goMode (m := m) (cause := cause) (.refl s)).memory
  refine ⟨ml2.trans hl2, ml3.trans hl3, mls.trans hls, fun h => ?_⟩
  unfold hartOf at *
  rw [harts_goMode]
  exact hh h

/-- Lockdown leads to mode 7 with its cause and with the record of the condition. -/
theorem lockedDown_lockdown (s : State) (cond : Nat) {cause : Nat} (pay : List Nat) (hc : cause < 16) :
    lockedDown s (lockdown s cond cause pay) cond cause := by
  obtain ⟨u, hu, he⟩ := lockdown_through s cond cause pay
  rw [he]
  refine ⟨nowMode_goMode _ (by decide) hc, dark_goMode _ _ (dark_powerDown u), fun hq => ?_⟩
  have hk : RecordsKept (logRec s 0xF0 0 0xFF ([cond, 0, 0, 0] ++ pay)) (goMode (powerDown u) 7 cause) :=
    ((RecordsKept.sealFault s cond pay).trans hu).trans (.goMode (.powerDown u))
  have hr : (⟨0xF0, false, 0, 0xFF, s.gtime, modeOf s, [cond, 0, 0, 0] ++ pay, false⟩ : LbxRec)
      ∈ (logRec s 0xF0 0 0xFF ([cond, 0, 0, 0] ++ pay)).lbq := by
    simp [logRec, hq]
  exact ⟨_, hk.log _ hr, rfl, rfl, rfl, rfl⟩

/-- A fatal condition in Boot, Run, Shadow or Hold, outside a management pause, leads to Lockdown, whatever registers it has
changed before (R378). -/
theorem lockedDown_fatal {s u : State} (hu : regsOnly s u) (hm : modeOf u = modeOf s) (hp : powered s = true)
    (hw : s.wd.pause = false) {cond : Nat} (pay : List Nat) (hc : cond ≠ 7) : lockedDown s (fatal u cond pay) cond 4 := by
  have hq : u.lbq = s.lbq := by rw [hu]
  have hg : u.gtime = s.gtime := by rw [hu]
  have hn : ¬u.wd.pause = true := by rw [hu, hw]; decide
  have he : fatal u cond pay = lockdown u cond 4 pay := by
    unfold fatal
    rw [if_neg hn, if_pos (by rw [hm]; exact hp), if_neg hc]
  rw [he]
  have h := lockedDown_lockdown u cond pay (cause := 4) (by decide)
  unfold lockedDown at *
  rwa [hq, hg, hm] at h

/-- What is pending when a fatal condition comes stays so. -/
theorem raised_fatal {s : State} (cond : Nat) (pay : List Nat) {b : Blk} {n : Nat} (h : raised s b n) :
    raised (fatal s cond pay) b n := by
  unfold fatal
  split
  · exact h
  · split
    · obtain ⟨u, hu, he⟩ := lockdown_through s cond (if cond = 7 then 9 else 4) pay
      rw [he]
      have hs : RecordsKept s (sealFault s cond pay) := (RecordsKept.logRec (.refl s)).trans (.sealFault s cond pay)
      exact ((hs.trans hu).trans (.goMode (.powerDown u))).pend b n h
    · exact h

/-- During a management pause a fatal condition is latched (R413). -/
theorem fatal_paused {s : State} (cond : Nat) (pay : List Nat) (hw : s.wd.pause = true) :
    fatal s cond pay = { s with wd := { s.wd with latched := s.wd.latched ++ [.fatal cond pay] } } := if_pos hw

end Sys2Proof.Machine
end

section
/-! The commands that bring a fatal condition (R63, R178, R206, R434). -/
namespace Sys2Proof.Machine
open Sys2Proof

/-- The field die holds no fabric block (R40). -/
theorem xfb_die_of_present {s : State} {d : Nat} (h : present s (xfb d) = true) : (xfb d).die ≠ 24 := by
  intro hd
  obtain rfl : d = 24 := hd
  have hi : instOf (xfb 24) < instCount (xfb 24).die (typeOf (xfb 24)) := by
    simp only [present, Bool.and_eq_true, decide_eq_true_eq] at h
    obtain ⟨⟨⟨hi, -⟩, -⟩, -⟩ := h
    exact hi
  exact absurd hi (by decide)

theorem exec_refLoss {s : State} {d : Nat} (hp : powered s = true) (hr : hasRoot d = true) (hd : dieUp s d = true) :
    exec (.refLoss d) s = .next (fatal s 0 []) := by
  show execRefLoss d s = _
  simp [execRefLoss, hp, hr, hd]

theorem refLoss_locks {s : State} {d : Nat} (hp : powered s = true) (hw : s.wd.pause = false) (hr : hasRoot d = true)
    (hd : dieUp s d = true) : gives (.refLoss d) s fun t => lockedDown s t 0 4 :=
  ⟨_, exec_refLoss hp hr hd, lockedDown_fatal (regsOnly_refl s) rfl hp hw [] (by decide)⟩

theorem refLoss_latched {s : State} {d : Nat} (hp : powered s = true) (hw : s.wd.pause = true) (hr : hasRoot d = true)
    (hd : dieUp s d = true) :
    gives (.refLoss d) s fun t => t = { s with wd := { s.wd with latched := s.wd.latched ++ [.fatal 0 []] } } :=
  ⟨_, exec_refLoss hp hr hd, fatal_paused 0 [] hw⟩

theorem flitHeaderUe_locks {s : State} {d : Nat} (hp : powered s = true) (hw : s.wd.pause = false)
    (hx : present s (xfb d) = true) : gives (.flitHeaderUe d) s fun t => lockedDown s t 1 4 ∧ raised t (xfb d) 3 := by
  have hd : (xfb d).die ≠ 24 := xfb_die_of_present hx
  have hm : modeOf (capture s (xfb d) 3) = modeOf s := rdF_capture hd (by decide) (by decide) (by decide) (by decide)
  refine ⟨_, if_pos hx, lockedDown_fatal (regsOnly_capture hd) hm hp hw [] (by decide), ?_⟩
  exact raised_fatal 1 [] (raised_capture (by decide))

theorem ddrChannelLoss_locks {s : State} {c : Nat} (hp : powered s = true) (hw : s.wd.pause = false) (hc : c < ddrChans s) :
    gives (.ddrChannelLoss c) s fun t => lockedDown s t 2 4 :=
  ⟨_, if_pos hc, lockedDown_fatal (regsOnly_refl s) rfl hp hw _ (by decide)⟩

/-- REF_OK of a die is cleared in its clock block, which holds nothing of the mode. -/
theorem modeOf_clearRefOk (s : State) (d : Nat) : modeOf (wrF s (clk d) CLK.PLL_STAT.REF_OK 0) = modeOf s := by
  refine rdF_wrF_other _ _ _ _ _ _ _ _ _ _ ?_
  simp only [fkey, pwr, clk, blkOf, PWR.MODE.MODE, CLK.PLL_STAT.REF_OK]
  omega

/-- REFCLK_ABSENT shows the reference as lost on every die in service that has a root (R434). -/
def refLost (s : State) : State :=
  ((List.range 20).filter fun d => hasRoot d && dieUp s d).foldl (fun u d => wrF u (clk d) CLK.PLL_STAT.REF_OK 0) s

theorem exec_refclkAbsent {s : State} (st : Straps) (hp : powered s = true) :
    exec (.refclkAbsent st) s = .next (fatal (refLost s) 0 []) := if_pos hp

theorem regsOnly_refLost (s : State) : regsOnly s (refLost s) :=
  List.foldlRecOn _ _ (regsOnly_refl s) fun _ hu _ _ => regsOnly_wrF hu

theorem modeOf_refLost (s : State) : modeOf (refLost s) = modeOf s :=
  List.foldlRecOn _ _ (motive := fun u => modeOf u = modeOf s) rfl fun u hu d _ => (modeOf_clearRefOk u d).trans hu

theorem refclkAbsent_locks {s : State} (st : Straps) (hp : powered s = true) (hw : s.wd.pause = false) :
    gives (.refclkAbsent st) s fun t => lockedDown s t 0 4 :=
  ⟨_, exec_refclkAbsent st hp, lockedDown_fatal (regsOnly_refLost s) (modeOf_refLost s) hp hw [] (by decide)⟩

/-- Settles O45: each condition is one use of the way to Lockdown, and the hold ends in the fall of the barrier. -/
theorem fatalConditions : Obligations.FatalConditions := by
  unfold Obligations.FatalConditions
  refine ⟨fun s hp => ⟨fun hw => ⟨?ref, ?flit, ?ddr, ?absent⟩, fun hw d hr hd => refLoss_latched hp hw hr hd⟩,
    fun s u h => lockdownHoldExpire_spec h⟩
  case ref => exact fun d hr hd => refLoss_locks hp hw hr hd
  case flit => exact fun d hx => flitHeaderUe_locks hp hw hx
  case ddr => exact fun c hc => ddrChannelLoss_locks hp hw hc
  case absent => exact fun st => refclkAbsent_locks st hp hw

end Sys2Proof.Machine
end

section
/-! What outlasts a loss of power (R377, R379, R402, R408, R409, R412): neither the fall of the barrier nor the loss of the
main rails touches the record of the dies or what MRAM holds. -/
namespace Sys2Proof.Machine
open Sys2Proof

/-- The dies, and what MRAM holds: the durable lifetime counters, the ring, the sealed records, the configuration copies and
the firmware banks. -/
def lasting (s : State) : Map Die × Map Nat × Map (List Nat) × Map (List Nat) × Map CfgCopy × Map Bank :=
  (s.dies, s.wd.lifeCk, s.wd.ring, s.wd.seals, s.wd.copies, s.wd.banks)

theorem lasting_of_eq {s t : State} (hd : t.dies = s.dies) (hw : t.wd = s.wd) : lasting t = lasting s := by
  unfold lasting
  rw [hd, hw]

@[simp] theorem lasting_wrF (s : State) (b : Blk) (f : Field) (v n k : Nat) : lasting (wrF s b f v n k) = lasting s := rfl

theorem lasting_of_regsOnly {s t : State} (h : regsOnly s t) : lasting t = lasting s := by
  rw [h]
  rfl

theorem lasting_foldl {α : Type} {f : State → α → State} (hf : ∀ u a, lasting (f u a) = lasting u) (l : List α) (s : State) :
    lasting (l.foldl f s) = lasting s :=
  List.foldlRecOn l f (motive := fun u => lasting u = lasting s) rfl fun u hu a _ => (hf u a).trans hu

theorem lasting_capture {s : State} {b : Blk} {n : Nat} (hd : b.die ≠ 24) : lasting (capture s b n) = lasting s :=
  lasting_of_regsOnly (regsOnly_capture hd)

theorem lasting_logRec (s : State) (code die inst : Nat) (pay : List Nat) (sec hw : Bool) :
    lasting (logRec s code die inst pay sec hw) = lasting s := by
  unfold logRec
  split <;> rfl

/-- A change of mode touches registers, headers, messages on their way, and the Lockbox queue only (R377). -/
theorem goMode_eq (s : State) (m cause : Nat) :
    goMode s m cause = { s with fields := (goMode s m cause).fields, hdrs := (goMode s m cause).hdrs,
                                irqs := (goMode s m cause).irqs, doms := (goMode s m cause).doms, tx := (goMode s m cause).tx,
                                lbq := (goMode s m cause).lbq, lbDrop := (goMode s m cause).lbDrop } := by
  unfold goMode
  extract_lets o logged prev mode cause' trans
  have hlog : logged = { s with lbq := logged.lbq, lbDrop := logged.lbDrop } := by
    unfold logged logRec
    split <;> rfl
  have htrans : trans = { s with fields := trans.fields, lbq := trans.lbq, lbDrop := trans.lbDrop } := by
    unfold trans cause' mode prev
    rw [hlog]
    rfl
  clear_value trans
  rw [regsOnly_capture (b := pwr 0) (n := 0) (by decide), htrans]
  rfl

theorem lasting_goMode (s : State) (m cause : Nat) : lasting (goMode s m cause) = lasting s := by
  rw [goMode_eq]
  rfl

theorem lasting_answer (s : State) (c st : Nat) : lasting (answer s c st) = lasting s :=
  (lasting_capture (b := wdn) (by decide)).trans rfl

theorem lasting_endCode (s : State) (code st : Nat) : lasting (endCode s code st) = lasting s := by
  refine lasting_foldl (fun u c => ?_) _ _
  split
  · exact lasting_answer u c st
  · rfl

theorem lasting_barRegErr (s : State) (tag : Nat) (r : BarReg) : lasting (barRegErr s tag r) = lasting s := by
  rw [barRegErr_eq]
  rfl

theorem lasting_cycOut (s : State) (n q : Nat) (safe : Bool) : lasting (cycOut s n q safe) = lasting s := by
  unfold cycOut portSend
  split <;> rfl

theorem lasting_barDown (s : State) : lasting (barDown s) = lasting s := by
  unfold barDown
  split
  · rfl
  · extract_lets one cut lost counted b f emptied ended logged
    have hended : lasting ended = lasting s :=
      (lasting_endCode _ _ _).trans (lasting_foldl (fun u (e : Nat × BarReg) => lasting_barRegErr u e.1 e.2) _ _)
    have hlogged : lasting logged = lasting s :=
      (lasting_logRec _ _ _ _ _ _ _).trans ((lasting_capture (b := bar) (by decide)).trans hended)
    split
    · split
      · exact (lasting_goMode _ _ _).trans hended
      · exact hended
    · split
      · refine (lasting_foldl (fun u e => ?_) _ _).trans hlogged
        split
        · exact lasting_cycOut u _ _ _
        · rfl
      · exact hlogged

theorem lasting_bumpTag_ioFail (s : State) (tag : Nat) : lasting (bumpTag (ioFail s tag) tag) = lasting s := by
  rw [ioFail_eq]
  rfl

theorem lasting_rcxDown (s : State) (p l : Nat) : lasting (rcxDown s p l) = lasting s := by
  unfold rcxDown
  split
  · rfl
  · extract_lets up cut io later ended dom gone ofLink dropped
    have hended : lasting ended = lasting s := lasting_foldl lasting_bumpTag_ioFail _ later
    exact (lasting_capture (b := rcx p) (by simp [rcx, blkOf])).trans hended

theorem lasting_portGen (s : State) (p : Nat) : lasting (portGen s p) = lasting s := by
  unfold portGen
  extract_lets counted given
  split
  · rfl
  · exact lasting_capture (b := ylk p) (by simp [ylk, blkOf])

theorem lasting_ylkDown (s : State) (p : Nat) : lasting (ylkDown s p) = lasting s := by
  unfold ylkDown
  split
  · rfl
  · extract_lets b aged cleared cl left noted out alone
    have haged : lasting aged = lasting s := lasting_portGen _ p
    have hcleared : lasting cleared = lasting aged := by simp only [cleared, lasting_wrF]
    clear_value cleared
    have hleft : lasting left = lasting cleared := rfl
    have hnoted : lasting noted = lasting left := lasting_capture (b := ylk p) (by simp [ylk, blkOf])
    have hgone : lasting noted = lasting s := hnoted.trans (hleft.trans (hcleared.trans haged))
    clear_value noted
    split
    · split <;> exact hgone
    · exact hgone

theorem lasting_ylkOff (s : State) : lasting (ylkOff s) = lasting s := by
  unfold ylkOff
  extract_lets ports z left
  have hports : lasting ports = lasting s :=
    lasting_foldl (fun u p => (lasting_wrF (ylkDown u p) _ _ _ _ _).trans (lasting_ylkDown u p)) _ s
  have hleft : lasting left = lasting ports := by simp only [left, z, lasting_wrF]
  clear_value left
  exact hleft.trans hports

theorem lasting_powerDown (s : State) : lasting (powerDown s) = lasting s := by
  unfold powerDown
  extract_lets links off scan spl
  have hlinks : lasting links = lasting s := lasting_foldl (fun u p => lasting_foldl (fun v l => lasting_rcxDown v p l) _ u) _ s
  have hoff : lasting off = lasting s := (lasting_ylkOff links).trans hlinks
  clear_value off
  exact hoff

/-- The package goes Off (R377) and what MRAM holds stands. -/
theorem lasting_goOff (s : State) (brown : Bool) : lasting (goOff s brown) = lasting s := by
  unfold goOff
  extract_lets fallen wd noted down
  have hfallen : lasting fallen = lasting s := lasting_barDown s
  clear_value fallen
  have hnoted : lasting noted = lasting fallen := rfl
  have hdown : lasting down = lasting s := (lasting_powerDown noted).trans (hnoted.trans hfallen)
  clear_value down
  exact hdown

end Sys2Proof.Machine
end

section
/-! Power-on reset of the always-on domain (R70, R74, R377, R386, R412, R434, R435). -/
namespace Sys2Proof.Machine
open Sys2Proof

/-- A change of mode leaves every register but PWR.MODE and the wake counters of the fabric alone. -/
theorem rdF_goMode_other {s : State} {m cause : Nat} {c : Blk} {f : Field} (hc : inSpace c = true) (ho : f.off + f.stride * 0 < 4096)
    (hl : f.lo < 32) (hx : c ≠ xfb 0)
    (hk : ∀ g ∈ [PWR.MODE.PREV, PWR.MODE.MODE, PWR.MODE.CAUSE, PWR.MODE.TRANS], fkey c f 0 0 ≠ fkey (pwr 0) g 0 0) :
    rdF (goMode s m cause) c f = rdF s c f := by
  simp only [List.mem_cons, List.not_mem_nil, or_false, forall_eq_or_imp, forall_eq] at hk
  obtain ⟨hprev, hmode, hcause, htrans⟩ := hk
  refine (rdF_capture (b := pwr 0) (n := 0) (by decide) hc ho hl hx).trans ?_
  refine (rdF_wrF_other _ _ _ _ _ _ _ _ _ _ htrans).trans ?_
  refine (rdF_wrF_other _ _ _ _ _ _ _ _ _ _ hcause).trans ?_
  refine (rdF_wrF_other _ _ _ _ _ _ _ _ _ _ hmode).trans ?_
  refine (rdF_wrF_other _ _ _ _ _ _ _ _ _ _ hprev).trans ?_
  refine rdF_of_fields _ _ _ _ _ _ ?_
  unfold logRec
  split <;> rfl

/-- The power-on reset ends in the change to Standby, with cause 0 (R377). -/
theorem nowMode_powerOn (s : State) (brown : Bool) (st : Straps) : nowMode (powerOn s brown st) 1 0 :=
  nowMode_goMode _ (by decide) (by decide)

/-- GTIME starts at 0, and no contents of harts, caches, main memory or local stores are left (R70, R74). -/
theorem cleared_powerOn (s : State) (brown : Bool) (st : Straps) :
    let t := powerOn s brown st
    t.gtime = 0 ∧ t.harts = [] ∧ t.l2 = [] ∧ t.l3 = [] ∧ t.dram = [] ∧ t.lstore = [] := by
  unfold powerOn
  rw [goMode_eq]
  exact ⟨rfl, rfl, rfl, rfl, rfl, rfl⟩

/-- What MRAM and the field island hold stands, and the Warden shows the brown-out and the boot source (R395, R408, R409). -/
theorem kept_powerOn (s : State) (brown : Bool) (st : Straps) :
    let t := powerOn s brown st
    t.dies = s.dies.filter (fun e => e.1 = 24) ∧ t.wd.ring = s.wd.ring ∧ t.wd.seals = s.wd.seals ∧ t.wd.copies = s.wd.copies
      ∧ t.wd.banks = s.wd.banks ∧ t.wd.brown = brown ∧ t.wd.bootSrc = st.bootSrc := by
  unfold powerOn
  rw [goMode_eq]
  exact ⟨rfl, rfl, rfl, rfl, rfl, rfl, rfl⟩

/-- The lifetime counters after a power-on reset: the durable ones, with the power cycle and a brown-out counted (R412). -/
def powerOnLife (life : Map Nat) (brown : Bool) : Map Nat :=
  let counted := mput life (7 * 4096) (mget 0 life (7 * 4096) + 1)
  if brown then mput counted (7 * 4096 + 2) (mget 0 counted (7 * 4096 + 2) + 1) else counted

theorem life_powerOn (s : State) (brown : Bool) (st : Straps) :
    (powerOn s brown st).life = powerOnLife s.wd.lifeCk brown ∧ (powerOn s brown st).wd.lifeCk = (powerOn s brown st).life := by
  unfold powerOn
  rw [goMode_eq]
  exact ⟨rfl, rfl⟩

theorem powerCycles_powerOnLife (life : Map Nat) (brown : Bool) :
    mget 0 (powerOnLife life brown) (7 * 4096) = mget 0 life (7 * 4096) + 1 := by
  cases brown with
  | false => exact mget_mput_same _ _ _ _
  | true => exact (mget_mput_other _ _ _ _ _ (by decide)).trans (mget_mput_same _ _ _ _)

theorem brownOuts_powerOnLife (life : Map Nat) (brown : Bool) :
    mget 0 (powerOnLife life brown) (7 * 4096 + 2) = mget 0 life (7 * 4096 + 2) + b2n brown := by
  have hcycle : ∀ v, mget 0 (mput life (7 * 4096) v) (7 * 4096 + 2) = mget 0 life (7 * 4096 + 2) :=
    fun v => mget_mput_other _ _ _ _ _ (by decide)
  cases brown with
  | false => exact hcycle _
  | true => exact (mget_mput_same _ _ _ _).trans (congrArg (· + 1) (hcycle _))

/-- The straps are shown in YLK.CL_CFG (R357). -/
theorem straps_powerOn (s : State) (brown : Bool) (st : Straps) :
    rdF (powerOn s brown st) y0 YLK.CL_CFG.POS = st.clPos % 16 ∧ rdF (powerOn s brown st) y0 YLK.CL_CFG.MGR_SEL = b2n st.mgrSel := by
  have hmode : ∀ {u : State} {f : Field} {v : Nat}, f ∈ [YLK.CL_CFG.POS, YLK.CL_CFG.MGR_SEL] →
      rdF (goMode (wrF u (pwr 0) PWR.MODE.MODE v) 1 0) y0 f = rdF u y0 f := by
    intro u f v hf
    simp only [List.mem_cons, List.not_mem_nil, or_false] at hf
    obtain rfl | rfl := hf <;>
      exact (rdF_goMode_other (by decide) (by decide) (by decide) (by decide) (by decide)).trans
        (rdF_wrF_other _ _ _ _ _ _ _ _ _ _ (by decide))
  unfold powerOn
  refine ⟨(hmode (by simp)).trans ?pos, (hmode (by simp)).trans ?mgrSel⟩
  case pos => exact (rdF_wrF_other _ _ _ _ _ _ _ _ _ _ (by decide)).trans (rdF_wrF_same _ _ _ _ _ _)
  case mgrSel =>
    refine (rdF_wrF_same _ _ _ _ _ _).trans ?_
    cases st.mgrSel <;> rfl

/-- VSTBY comes into range while the package is Off (R431). -/
theorem exec_powerOnReset {s : State} (brown : Bool) (st : Straps) (hm : modeOf s = 0) :
    exec (.powerOnReset brown st) s = .next (powerOn s (brown || s.wd.brown) st) := if_neg fun hne => hne hm

/-- A brown-out in Standby or Watch takes the package through Off (R386). -/
theorem exec_brownout {s : State} (st : Straps) (hm : modeOf s = 1 ∨ modeOf s = 2) :
    exec (.brownout st) s = .next (powerOn (goOff s true) true st) := if_pos (by simpa using hm)

/-- So does the loss of the reference there (R434). -/
theorem exec_refclkAbsent_low {s : State} (st : Straps) (hm : modeOf s = 1 ∨ modeOf s = 2) :
    exec (.refclkAbsent st) s = .next (powerOn (goOff s true) true st) := by
  have hp : ¬powered s = true := by
    unfold powered
    obtain h | h := hm <;> rw [h] <;> decide
  exact (if_neg hp).trans (if_pos (by simpa using hm))

/-- Settles O44: each way to a power-on reset ends in `powerOn` of a state that still holds what outlasts a loss of power. -/
theorem powerOnReset : Obligations.PowerOnReset := by
  unfold Obligations.PowerOnReset
  intro s brown st after
  have hafter : ∀ u b, lasting u = lasting s → after b (powerOn u b st) := by
    intro u b hu
    simp only [lasting, Prod.mk.injEq] at hu
    obtain ⟨hdies, hlife, hring, hseals, hcopies, hbanks⟩ := hu
    obtain ⟨hmode, -, hraised⟩ := nowMode_powerOn u b st
    obtain ⟨htime, hharts, hl2, hl3, hdram, hlstore⟩ := cleared_powerOn u b st
    obtain ⟨kdies, kring, kseals, kcopies, kbanks, hbrown, hsrc⟩ := kept_powerOn u b st
    obtain ⟨hcount, hdurable⟩ := life_powerOn u b st
    obtain ⟨hpos, hsel⟩ := straps_powerOn u b st
    rw [hlife] at hcount
    refine ⟨htime, hmode, hraised, hharts, hl2, hl3, hdram, hlstore, kdies.trans (by rw [hdies]), ?cycles, hdurable, ?brownOuts,
      kring.trans hring, kseals.trans hseals, kcopies.trans hcopies, kbanks.trans hbanks, hbrown, hsrc, hpos, hsel⟩
    case cycles => rw [hcount, powerCycles_powerOnLife]
    case brownOuts => rw [hcount, brownOuts_powerOnLife]
  have hoff : after true (powerOn (goOff s true) true st) := hafter _ _ (lasting_goOff s true)
  exact ⟨fun hm => ⟨_, exec_powerOnReset brown st hm, hafter s _ rfl⟩,
    fun hm => ⟨⟨_, exec_brownout st hm, hoff⟩, ⟨_, exec_refclkAbsent_low st hm, hoff⟩⟩⟩

end Sys2Proof.Machine
end

section
/-! Registers that lie apart: fields with different keys, and the registers of the power blocks (R390-R393) across the capture of
an event and across throttling. -/
namespace Sys2Proof.Machine
open Sys2Proof

theorem fkey_ne_of_lo {b c : Blk} {f g : Field} {n m k l : Nat} (hf : f.lo < 32) (hg : g.lo < 32) (h : f.lo ≠ g.lo) :
    fkey b f n k ≠ fkey c g m l := by
  unfold fkey
  omega

/-- A register whose place is within its block's page. -/
def inPage (f : Field) : Bool := decide (f.off < 4096) && decide (f.lo < 32)

/-- Two registers that no key can confuse: they differ in the offset or in the lowest bit. -/
def apart (f g : Field) : Bool := inPage f && inPage g && (decide (f.off ≠ g.off) || decide (f.lo ≠ g.lo))

theorem fkey_ne_of_apart {b c : Blk} {f g : Field} (h : apart f g = true) : fkey b f 0 0 ≠ fkey c g 0 0 := by
  simp only [apart, inPage, Bool.and_eq_true, Bool.or_eq_true, decide_eq_true_eq] at h
  obtain ⟨⟨⟨hfo, hf⟩, hgo, hg⟩, hne⟩ := h
  simp only [fkey, Nat.mul_zero, Nat.add_zero]
  omega

theorem rdF_wrF_apart {s : State} {b c : Blk} {f g : Field} {v : Nat} (h : apart g f = true) :
    rdF (wrF s b f v) c g = rdF s c g :=
  rdF_wrF_other _ _ _ _ _ _ _ _ _ _ (fkey_ne_of_apart h)

theorem rdF_addF_apart {s : State} {b c : Blk} {f g : Field} {v : Nat} (h : apart g f = true) :
    rdF (addF s b f v) c g = rdF s c g := rdF_wrF_apart h

/-- A count rises by one until it saturates (R12). -/
theorem rdF_addF_same (s : State) (b : Blk) (f : Field) : rdF (addF s b f) b f = min (2 ^ (f.hi + 1 - f.lo) - 1) (rdF s b f + 1) := by
  refine (rdF_wrF_same _ _ _ _ _ _).trans (Nat.mod_eq_of_lt ?_)
  have hpos : 0 < 2 ^ (f.hi + 1 - f.lo) := Nat.two_pow_pos _
  omega

theorem inSpace_of_lt {b : Blk} (hd : b.die < 64) (hs : b.slot < 65536) : inSpace b = true :=
  (Bool.and_eq_true_iff).2 ⟨decide_eq_true hd, decide_eq_true hs⟩

theorem inSpace_pwr {d : Nat} (hd : d < 64) : inSpace (pwr d) = true := inSpace_of_lt hd (show 80 < 65536 by decide)

/-- A frame that names no power block leaves the registers of each as they are. -/
theorem rdF_pwr_of_regFrame {bs : List Blk} {s t : State} (h : regFrame bs s t) {d : Nat} (hd : d < 64)
    (hbs : ∀ b ∈ bs, b ≠ pwr d) {f : Field} (hf : inPage f = true) : rdF t (pwr d) f = rdF s (pwr d) f := by
  simp only [inPage, Bool.and_eq_true, decide_eq_true_eq] at hf
  refine rdF_regFrame h (inSpace_pwr hd) (by simpa using hf.1) hf.2 fun b hb => ?_
  obtain rfl | hb := List.mem_cons.1 hb
  · simp [xfb, pwr, blkOf]
  · exact hbs b hb

theorem rdF_capture_pwr {s : State} {b : Blk} {d n : Nat} {f : Field} (hb : b.die ≠ 24) (hd : d < 64) (hf : inPage f = true) :
    rdF (capture s b n) (pwr d) f = rdF s (pwr d) f := by
  simp only [inPage, Bool.and_eq_true, decide_eq_true_eq] at hf
  exact rdF_capture hb (inSpace_pwr hd) (by simpa using hf.1) hf.2 (by simp [xfb, pwr, blkOf])

/-- The clock blocks of the compute dies. -/
def computeClocks : List Blk := (List.range 72).map fun c => clk (clDie c)

/-- Throttling acts on the clock blocks of compute dies only (R390, R393), and pending events stay pending. -/
theorem applyThrottle_spec (s : State) : regFrame computeClocks s (applyThrottle s) ∧ RecordsKept s (applyThrottle s) := by
  refine List.foldlRecOn _ _ (motive := fun u => regFrame computeClocks s u ∧ RecordsKept s u) ⟨regFrame_refl _ s, .refl s⟩
    fun u ⟨hf, hk⟩ c hc => ?_
  extract_lets d n v throttled
  have hd : d < 20 := by
    have : c < 72 := List.mem_range.1 hc
    simp only [d, clDie]
    omega
  have hn : n < 6 := Nat.mod_lt _ (by decide)
  have hb : clk d ∈ xfb 0 :: computeClocks := List.mem_cons_of_mem _ (List.mem_map.2 ⟨c, hc, rfl⟩)
  have hs : inSpace (clk d) = true := inSpace_of_lt (show d < 64 by omega) (show 64 < 65536 by decide)
  have h24 : (clk d).die ≠ 24 := by simp only [clk, blkOf]; omega
  split
  · exact ⟨hf, hk⟩
  · have hthrottled : regFrame computeClocks u throttled :=
      regFrame_wrF hb hs (by simp only [CLK.CLU_STAT.THROTTLED]; omega) (by decide)
    refine ⟨regFrame_trans hf (regFrame_trans hthrottled (regFrame_trans (regFrame_wrF hb hs ?_ (by decide)) (regFrame_capture hb h24))),
      .capture h24 (.wrF (.wrF hk))⟩
    simp only [CLK.CLU_STAT.DIV]
    omega

theorem regsOnly_applyThrottle (s : State) : regsOnly s (applyThrottle s) := (applyThrottle_spec s).1.1

theorem raised_applyThrottle {s : State} {b : Blk} {n : Nat} (h : raised s b n) : raised (applyThrottle s) b n :=
  (applyThrottle_spec s).2.pend b n h

theorem rdF_applyThrottle_pwr {s : State} {d : Nat} {f : Field} (hd : d < 64) (hf : inPage f = true) :
    rdF (applyThrottle s) (pwr d) f = rdF s (pwr d) f := by
  refine rdF_pwr_of_regFrame (applyThrottle_spec s).1 hd (fun b hb => ?_) hf
  obtain ⟨c, -, rfl⟩ := List.mem_map.1 hb
  simp [clk, pwr, blkOf]

end Sys2Proof.Machine
end

section
/-! A reading of one die's sensors (R390, R391, R412). -/
namespace Sys2Proof.Machine
open Sys2Proof

theorem lt_of_hasRoot {d : Nat} (h : hasRoot d = true) : d < 20 := by
  simp only [hasRoot, Bool.or_eq_true, Bool.and_eq_true, decide_eq_true_eq] at h
  omega

/-- The readings at the critical temperature in a row, after one more reading. -/
def critRun (s : State) (d : Nat) (t : Int) : Nat := if 108 ≤ t then mget 0 s.wd.crit d + 1 else 0

/-- What a reading leaves on record: the time in its bin, the temperature now and at its peak, the run of critical readings. -/
def noteReading (s : State) (d : Nat) (t : Int) : State :=
  let t8 := (BitVec.ofInt 8 t).toNat
  let now := wrF (lifeAdd s (4096 + d * 64 + tempBin t)) (pwr d) PWR.TEMP.NOW t8
  let seen := if (BitVec.ofNat 8 (rdF s (pwr d) PWR.TEMP.PEAK)).toInt < t then wrF now (pwr d) PWR.TEMP.PEAK t8 else now
  { seen with wd := { seen.wd with crit := mput seen.wd.crit d (critRun seen d t) } }

/-- A reading is held against THROT, and against THROT - HYST while the die throttles (R390). -/
def throttleDie (s : State) (d : Nat) (t : Int) : State :=
  let th : Int := (rdF s (pwr d) PWR.THERM_CFG.THROT : Int)
  let hy : Int := (rdF s (pwr d) PWR.THERM_CFG.HYST : Int)
  let was := rdF s (pwr d) PWR.THERM_STAT.CAUSING = 1
  if !was && th ≤ t then capture (addF (wrF s (pwr d) PWR.THERM_STAT.CAUSING 1) (pwr d) PWR.THERM_STAT.COUNT) (pwr d) 1
  else if was && t < th - hy then capture (wrF s (pwr d) PWR.THERM_STAT.CAUSING 0) (pwr d) 1
  else s

theorem noteReading_eq (s : State) (d : Nat) (t : Int) :
    noteReading s d t = { s with fields := (noteReading s d t).fields,
                                 life := mput s.life (4096 + d * 64 + tempBin t) (mget 0 s.life (4096 + d * 64 + tempBin t) + 1),
                                 wd := { s.wd with crit := mput s.wd.crit d (critRun s d t) } } := by
  unfold noteReading
  dsimp only
  split <;> rfl

theorem rdF_noteReading_now (s : State) (d : Nat) (t : Int) :
    rdF (noteReading s d t) (pwr d) PWR.TEMP.NOW = (BitVec.ofInt 8 t).toNat := by
  have hnow : ∀ u, rdF (wrF u (pwr d) PWR.TEMP.NOW (BitVec.ofInt 8 t).toNat) (pwr d) PWR.TEMP.NOW = (BitVec.ofInt 8 t).toNat :=
    fun u => (rdF_wrF_same _ _ _ _ _ _).trans (Nat.mod_eq_of_lt (BitVec.isLt _))
  show rdF (ite _ _ _) _ _ = _
  split
  · exact (rdF_wrF_apart (by decide)).trans (hnow _)
  · exact hnow _

/-- A reading touches no other register of a power block than TEMP. -/
theorem rdF_noteReading_other {s : State} {d : Nat} {t : Int} {b : Blk} {f : Field} (hn : apart f PWR.TEMP.NOW = true)
    (hp : apart f PWR.TEMP.PEAK = true) : rdF (noteReading s d t) b f = rdF s b f := by
  show rdF (ite _ _ _) _ _ = _
  split
  · exact (rdF_wrF_apart hp).trans (rdF_wrF_apart hn)
  · exact rdF_wrF_apart hn

/-- Outside a management pause, or on a compute die, a reading is recorded and then held against the limits (R413). -/
theorem thermDie_eq {s : State} {d : Nat} (t : Int) (h : s.wd.pause = false ∨ 8 ≤ d) :
    thermDie s d t = throttleDie (noteReading s d t) d t := by
  have hpause : (noteReading s d t).wd.pause = s.wd.pause := by rw [noteReading_eq]
  have hn : ¬((noteReading s d t).wd.pause && decide (d < 8)) = true := by
    rw [hpause]
    obtain h | h := h
    · simp [h]
    · simp [h]
  exact if_neg hn

section
variable {s : State} {d : Nat} {t : Int}

theorem throttleDie_starts (hc : rdF s (pwr d) PWR.THERM_STAT.CAUSING ≠ 1) (ht : (rdF s (pwr d) PWR.THERM_CFG.THROT : Int) ≤ t) :
    throttleDie s d t = capture (addF (wrF s (pwr d) PWR.THERM_STAT.CAUSING 1) (pwr d) PWR.THERM_STAT.COUNT) (pwr d) 1 := by
  simp [throttleDie, hc, ht]

theorem throttleDie_ends (hc : rdF s (pwr d) PWR.THERM_STAT.CAUSING = 1)
    (ht : t < (rdF s (pwr d) PWR.THERM_CFG.THROT : Int) - (rdF s (pwr d) PWR.THERM_CFG.HYST : Int)) :
    throttleDie s d t = capture (wrF s (pwr d) PWR.THERM_STAT.CAUSING 0) (pwr d) 1 := by
  simp [throttleDie, hc, ht]

theorem throttleDie_stays (hc : rdF s (pwr d) PWR.THERM_STAT.CAUSING = 1)
    (ht : (rdF s (pwr d) PWR.THERM_CFG.THROT : Int) - (rdF s (pwr d) PWR.THERM_CFG.HYST : Int) ≤ t) : throttleDie s d t = s := by
  simp [throttleDie, hc, Int.not_lt.2 ht]

theorem regsOnly_throttleDie (s : State) (t : Int) (hd : d ≠ 24) : regsOnly s (throttleDie s d t) := by
  unfold throttleDie
  extract_lets th hy was
  split
  · exact regsOnly_trans (regsOnly_wrF (regsOnly_wrF (regsOnly_refl s))) (regsOnly_capture hd)
  · split
    · exact regsOnly_trans (regsOnly_wrF (regsOnly_refl s)) (regsOnly_capture hd)
    · exact regsOnly_refl s

/-- Of the registers of a power block the comparison touches THERM_STAT only. -/
theorem rdF_throttleDie_other {e : Nat} {f : Field} (hd : d ≠ 24) (he : e < 64) (hf : inPage f = true)
    (hcausing : apart f PWR.THERM_STAT.CAUSING = true) (hcount : apart f PWR.THERM_STAT.COUNT = true) :
    rdF (throttleDie s d t) (pwr e) f = rdF s (pwr e) f := by
  unfold throttleDie
  extract_lets th hy was
  split
  · exact (rdF_capture_pwr hd he hf).trans ((rdF_addF_apart hcount).trans (rdF_wrF_apart hcausing))
  · split
    · exact (rdF_capture_pwr hd he hf).trans (rdF_wrF_apart hcausing)
    · rfl

end

/-- The state after one die's reading, with throttling applied to the clusters. -/
def heated (s : State) (d : Nat) (t : Int) : State := applyThrottle (throttleDie (noteReading s d t) d t)

theorem exec_thermalSample {s : State} {d : Nat} (t : Int) (hp : powered s = true) (hr : hasRoot d = true) (hd : dieUp s d = true)
    (h : s.wd.pause = false ∨ 8 ≤ d) :
    exec (.thermalSample [(d, t)]) s =
      .next (if 10 ≤ mget 0 (heated s d t).wd.crit d then fatal (heated s d t) 7 [] else heated s d t) := by
  show execThermalSample [(d, t)] s = _
  by_cases hcrit : 10 ≤ mget 0 (heated s d t).wd.crit d
  all_goals
    unfold heated at hcrit ⊢
    simp [execThermalSample, hp, hr, hd, thermDie_eq t h, hcrit]

/-- Beyond registers a reading changes its bin's time and the run of critical readings. -/
theorem regsOnly_heated (s : State) {d : Nat} (t : Int) (hd : d ≠ 24) : regsOnly (noteReading s d t) (heated s d t) :=
  regsOnly_trans (regsOnly_throttleDie _ t hd) (regsOnly_applyThrottle _)

theorem heated_rest (s : State) {d : Nat} (t : Int) (hd : d ≠ 24) :
    (heated s d t).life = mput s.life (4096 + d * 64 + tempBin t) (mget 0 s.life (4096 + d * 64 + tempBin t) + 1)
      ∧ (heated s d t).wd = { s.wd with crit := mput s.wd.crit d (critRun s d t) } ∧ (heated s d t).harts = s.harts
      ∧ sameMemory s (heated s d t) := by
  rw [regsOnly_heated s t hd, noteReading_eq]
  exact ⟨rfl, rfl, rfl, sameMemory_refl s⟩

theorem crit_heated (s : State) {d : Nat} (t : Int) (hd : d ≠ 24) : mget 0 (heated s d t).wd.crit d = critRun s d t := by
  obtain ⟨-, hwd, -⟩ := heated_rest s t hd
  rw [hwd]
  exact mget_mput_same _ _ _ _

theorem modeOf_heated (s : State) {d : Nat} (t : Int) (hd : d ≠ 24) : modeOf (heated s d t) = modeOf s := by
  refine (rdF_applyThrottle_pwr (by decide) (by decide)).trans ?_
  refine (rdF_throttleDie_other hd (by decide) (by decide) (by decide) (by decide)).trans ?_
  exact rdF_noteReading_other (by decide) (by decide)

theorem now_heated (s : State) {d : Nat} (t : Int) (hr : hasRoot d = true) :
    rdF (heated s d t) (pwr d) PWR.TEMP.NOW = (BitVec.ofInt 8 t).toNat := by
  have hd : d < 20 := lt_of_hasRoot hr
  refine (rdF_applyThrottle_pwr (by omega) (by decide)).trans ?_
  refine (rdF_throttleDie_other (by omega) (by omega) (by decide) (by decide) (by decide)).trans ?_
  exact rdF_noteReading_now s d t

section
variable {s : State} {d : Nat} {t : Int}

theorem rdF_throttled_capture {u : State} {n : Nat} {f : Field} (hr : hasRoot d = true) (hf : inPage f = true) :
    rdF (applyThrottle (capture u (pwr d) n)) (pwr d) f = rdF u (pwr d) f := by
  have hd : d < 20 := lt_of_hasRoot hr
  have h24 : (pwr d).die ≠ 24 := by simp only [pwr, blkOf]; omega
  exact (rdF_applyThrottle_pwr (by omega) hf).trans (rdF_capture_pwr h24 (by omega) hf)

/-- A reading at THROT starts throttling, which is counted and captured (R390). -/
theorem heated_starts (hr : hasRoot d = true) (hc : rdF s (pwr d) PWR.THERM_STAT.CAUSING ≠ 1)
    (ht : (rdF s (pwr d) PWR.THERM_CFG.THROT : Int) ≤ t) :
    rdF (heated s d t) (pwr d) PWR.THERM_STAT.CAUSING = 1 ∧ raised (heated s d t) (pwr d) 1
      ∧ rdF (heated s d t) (pwr d) PWR.THERM_STAT.COUNT = min 65535 (rdF s (pwr d) PWR.THERM_STAT.COUNT + 1) := by
  have hnote : ∀ {f}, apart f PWR.TEMP.NOW = true → apart f PWR.TEMP.PEAK = true → rdF (noteReading s d t) (pwr d) f = rdF s (pwr d) f :=
    rdF_noteReading_other
  unfold heated
  rw [throttleDie_starts (by rwa [hnote (by decide) (by decide)]) (by rwa [hnote (by decide) (by decide)])]
  refine ⟨?causing, raised_applyThrottle (raised_capture (by decide)), ?count⟩
  case causing => exact (rdF_throttled_capture hr (by decide)).trans ((rdF_addF_apart (by decide)).trans (rdF_wrF_same _ _ _ _ _ _))
  case count =>
    refine (rdF_throttled_capture hr (by decide)).trans ((rdF_addF_same _ _ _).trans ?_)
    rw [rdF_wrF_apart (by decide), hnote (by decide) (by decide)]
    rfl

/-- A reading below THROT - HYST ends throttling, which is captured. -/
theorem heated_ends (hr : hasRoot d = true) (hc : rdF s (pwr d) PWR.THERM_STAT.CAUSING = 1)
    (ht : t < (rdF s (pwr d) PWR.THERM_CFG.THROT : Int) - (rdF s (pwr d) PWR.THERM_CFG.HYST : Int)) :
    rdF (heated s d t) (pwr d) PWR.THERM_STAT.CAUSING = 0 ∧ raised (heated s d t) (pwr d) 1 := by
  have hd : d < 20 := lt_of_hasRoot hr
  unfold heated
  rw [throttleDie_ends ((rdF_noteReading_other (by decide) (by decide)).trans hc)
    (by rwa [rdF_noteReading_other (by decide) (by decide), rdF_noteReading_other (by decide) (by decide)])]
  refine ⟨?_, raised_applyThrottle (raised_capture (by decide))⟩
  exact (rdF_throttled_capture hr (by decide)).trans (rdF_wrF_same _ _ _ _ _ _)

/-- Between the two limits a die that throttles goes on. -/
theorem heated_stays (hr : hasRoot d = true) (hc : rdF s (pwr d) PWR.THERM_STAT.CAUSING = 1)
    (ht : (rdF s (pwr d) PWR.THERM_CFG.THROT : Int) - (rdF s (pwr d) PWR.THERM_CFG.HYST : Int) ≤ t) :
    rdF (heated s d t) (pwr d) PWR.THERM_STAT.CAUSING = 1 := by
  have hd : d < 20 := lt_of_hasRoot hr
  have hnoted : rdF (noteReading s d t) (pwr d) PWR.THERM_STAT.CAUSING = 1 :=
    (rdF_noteReading_other (by decide) (by decide)).trans hc
  unfold heated
  rw [throttleDie_stays hnoted (by rwa [rdF_noteReading_other (by decide) (by decide), rdF_noteReading_other (by decide) (by decide)])]
  exact (rdF_applyThrottle_pwr (by omega) (by decide)).trans hnoted

end

/-- The tenth critical reading in a row leads to Lockdown with cause 9 (R378, R391). -/
theorem fatal_critical {s : State} (hp : powered s = true) (hw : s.wd.pause = false) :
    nowMode (fatal s 7 []) 7 9 ∧ dark (fatal s 7 []) := by
  have hn : ¬s.wd.pause = true := by simp [hw]
  have he : fatal s 7 [] = lockdown s 7 9 [] := by
    unfold fatal
    rw [if_neg hn]
    exact if_pos hp
  obtain ⟨hmode, hdark, -⟩ := lockedDown_lockdown s 7 [] (cause := 9) (by decide)
  rw [he]
  exact ⟨hmode, hdark⟩

section
variable {s : State} {d : Nat} {t : Int} {P : State → Prop}

/-- Fewer than ten critical readings in a row: the reading has no other effect. -/
theorem gives_heated (hp : powered s = true) (hr : hasRoot d = true) (hd : dieUp s d = true) (h : s.wd.pause = false ∨ 8 ≤ d)
    (hc : critRun s d t < 10) (hP : P (heated s d t)) : gives (.thermalSample [(d, t)]) s P := by
  have hd20 : d < 20 := lt_of_hasRoot hr
  refine ⟨_, (exec_thermalSample t hp hr hd h).trans (congrArg _ (if_neg ?_)), hP⟩
  rw [crit_heated s t (by omega)]
  omega

theorem gives_critical (hp : powered s = true) (hr : hasRoot d = true) (hd : dieUp s d = true) (hw : s.wd.pause = false)
    (hc : critRun s d t = 10) : gives (.thermalSample [(d, t)]) s fun u => nowMode u 7 9 ∧ dark u := by
  have h24 : d ≠ 24 := by
    have := lt_of_hasRoot hr
    omega
  obtain ⟨-, hwd, -⟩ := heated_rest s t h24
  refine ⟨_, (exec_thermalSample t hp hr hd (.inl hw)).trans (congrArg _ (if_pos ?_)), fatal_critical ?_ ?_⟩
  · exact Nat.le_of_eq ((crit_heated s t h24).trans hc).symm
  · unfold powered
    rw [modeOf_heated s t h24]
    exact hp
  · rw [hwd]
    exact hw

end

end Sys2Proof.Machine
end

section
/-! Power limiting (R392). -/
namespace Sys2Proof.Machine
open Sys2Proof

/-- The samples of the last 10 ms. -/
def powerWindow (s : State) (w : Nat) : List Nat := (w :: s.wd.samples).take 100

/-- Their sum: 100 times the average in W over a full window. -/
def powerSum (s : State) (w : Nat) : Nat := (powerWindow s w).foldl (· + ·) 0

/-- What a sample leaves on record: the window, the average and the peak. -/
def notePower (s : State) (w : Nat) : State :=
  let shown := wrF { s with wd := { s.wd with samples := powerWindow s w } } (pwr 0) PWR.PKG_PWR.AVG_W (powerSum s w / 100)
  if rdF shown (pwr 0) PWR.PKG_PWR.PEAK_W < w then wrF shown (pwr 0) PWR.PKG_PWR.PEAK_W w else shown

/-- Limiting is on or off. -/
def setLimiting (s : State) (lim : Bool) : State := { s with wd := { s.wd with limiting := lim } }

/-- Limiting starts: it is counted, captured, and applied to the clusters. -/
def startLimiting (s : State) : State :=
  applyThrottle (capture (addF (setLimiting s true) (pwr 0) PWR.LIMIT_CNT.COUNT) (pwr 0) 3)

/-- Limiting ends. -/
def endLimiting (s : State) : State := applyThrottle (setLimiting s false)

/-- After sample `w` the registers show the average and the peak, limiting stands as `lim` says, and harts and memory are as
they were. -/
structure PowerShown (s : State) (w : Nat) (lim : Bool) (t : State) : Prop where
  wd : t.wd = { s.wd with samples := powerWindow s w, limiting := lim }
  avg : rdF t (pwr 0) PWR.PKG_PWR.AVG_W = powerSum s w / 100 % 65536
  peak : rdF t (pwr 0) PWR.PKG_PWR.PEAK_W = max (rdF s (pwr 0) PWR.PKG_PWR.PEAK_W) w
  harts : t.harts = s.harts
  memory : sameMemory s t

section
variable {s : State} {w : Nat}

theorem powerShown_notePower (hw : w < 65536) : PowerShown s w s.wd.limiting (notePower s w) := by
  unfold notePower
  extract_lets _ shown
  have havg : rdF shown (pwr 0) PWR.PKG_PWR.AVG_W = powerSum s w / 100 % 65536 := rdF_wrF_same _ _ _ _ _ _
  have hpeak : rdF shown (pwr 0) PWR.PKG_PWR.PEAK_W = rdF s (pwr 0) PWR.PKG_PWR.PEAK_W := rdF_wrF_apart (by decide)
  split
  next hlt =>
    rw [hpeak] at hlt
    have hnew : rdF (wrF shown (pwr 0) PWR.PKG_PWR.PEAK_W w) (pwr 0) PWR.PKG_PWR.PEAK_W = w :=
      (rdF_wrF_same _ _ _ _ _ _).trans (Nat.mod_eq_of_lt hw)
    exact ⟨rfl, (rdF_wrF_apart (by decide)).trans havg, hnew.trans (Nat.max_eq_right (Nat.le_of_lt hlt)).symm, rfl, sameMemory_refl s⟩
  next hle =>
    rw [hpeak] at hle
    exact ⟨rfl, havg, hpeak.trans (Nat.max_eq_left (Nat.not_lt.1 hle)).symm, rfl, sameMemory_refl s⟩

theorem powerShown_startLimiting {u : State} {lim : Bool} (h : PowerShown s w lim u) :
    PowerShown s w true (startLimiting u) ∧ raised (startLimiting u) (pwr 0) 3 := by
  have hr : regsOnly (setLimiting u true) (startLimiting u) :=
    regsOnly_trans (regsOnly_trans (regsOnly_wrF (regsOnly_refl _)) (regsOnly_capture (by decide))) (regsOnly_applyThrottle _)
  have hmem : sameMemory (setLimiting u true) (startLimiting u) := sameMemory_of_regsOnly hr
  have hread : ∀ {f}, inPage f = true → apart f PWR.LIMIT_CNT.COUNT = true → rdF (startLimiting u) (pwr 0) f = rdF u (pwr 0) f :=
    fun hf hl => (rdF_applyThrottle_pwr (by decide) hf).trans
      ((rdF_capture_pwr (by decide) (by decide) hf).trans (rdF_addF_apart hl))
  refine ⟨⟨?wd, (hread (by decide) (by decide)).trans h.avg, (hread (by decide) (by decide)).trans h.peak, ?harts,
    sameMemory_trans h.memory hmem⟩, raised_applyThrottle (raised_capture (by decide))⟩
  case wd =>
    rw [hr]
    show { u.wd with limiting := true } = _
    rw [h.wd]
  case harts =>
    rw [hr]
    exact h.harts

theorem powerShown_endLimiting {u : State} {lim : Bool} (h : PowerShown s w lim u) : PowerShown s w false (endLimiting u) := by
  have hr : regsOnly (setLimiting u false) (endLimiting u) := regsOnly_applyThrottle _
  have hmem : sameMemory (setLimiting u false) (endLimiting u) := sameMemory_of_regsOnly hr
  refine ⟨?wd, (rdF_applyThrottle_pwr (by decide) (by decide)).trans h.avg,
    (rdF_applyThrottle_pwr (by decide) (by decide)).trans h.peak, ?harts, sameMemory_trans h.memory hmem⟩
  case wd =>
    rw [hr]
    show { u.wd with limiting := false } = _
    rw [h.wd]
  case harts =>
    rw [hr]
    exact h.harts

/-- A sample is recorded, and then starts limiting, ends it, or leaves it as it is (R392). -/
theorem exec_powerSample (hp : powered s = true) (hn : s.wd.pause = false) (hw : w < 65536) :
    exec (.powerSample w) s = .next (
      if !s.wd.limiting && (850 < w || 70000 < powerSum s w) then startLimiting (notePower s w)
      else if s.wd.limiting && powerSum s w < 68000 then endLimiting (notePower s w)
      else notePower s w) := by
  have hlim : (notePower s w).wd.limiting = s.wd.limiting := by rw [(powerShown_notePower hw).wd]
  have he : exec (.powerSample w) s =
      if !(notePower s w).wd.limiting && (850 < w || 70000 < powerSum s w) then .next (startLimiting (notePower s w))
      else if (notePower s w).wd.limiting && powerSum s w < 68000 then .next (endLimiting (notePower s w))
      else .next (notePower s w) := if_neg (by simp [hp, hn])
  rw [he, hlim]
  split
  · rfl
  · split <;> rfl

/-- The three outcomes of a sample: limiting starts, ends, or stands. -/
theorem powerSample_spec (hp : powered s = true) (hn : s.wd.pause = false) (hw : w < 65536) :
    gives (.powerSample w) s fun t => ∃ lim, PowerShown s w lim t
      ∧ (s.wd.limiting = false → (lim = true ↔ 850 < w ∨ 70000 < powerSum s w) ∧ (lim = true → raised t (pwr 0) 3))
      ∧ (s.wd.limiting = true → (lim = true ↔ 68000 ≤ powerSum s w)) := by
  have hnoted : PowerShown s w s.wd.limiting (notePower s w) := powerShown_notePower hw
  refine ⟨_, exec_powerSample hp hn hw, ?_⟩
  split
  next hstart =>
    obtain ⟨hshown, hraised⟩ := powerShown_startLimiting hnoted
    exact ⟨true, hshown, by simp_all⟩
  next hstart =>
    split
    next hend => exact ⟨false, powerShown_endLimiting hnoted, by simp_all⟩
    next hend => exact ⟨s.wd.limiting, hnoted, by simp_all⟩

end

end Sys2Proof.Machine
end

section
/-! Power domains (R160, R384): a domain that has reached its state, and what waited for it. -/
namespace Sys2Proof.Machine
open Sys2Proof

/-- What a domain is on its way to and what it holds, whether or not a packet is waking it. -/
def domTask (s : State) (k : Nat) : Dom := { mget ({} : Dom) s.doms k with waking := false }

/-- A message that wakes a cluster adds nothing to what any domain holds. -/
theorem domTask_wakeFor (s : State) (d n k : Nat) : domTask (wakeFor s d n none) k = domTask s k := by
  unfold domTask wakeFor
  by_cases hk : k = domKey d n
  · subst hk
    simp [apply_ite State.doms]
  · simp [mget_mput_other _ _ _ _ _ hk, apply_ite State.doms]

theorem domTask_sendMsg (s : State) (m : IrqMsg) (k : Nat) : domTask (sendMsg s m) k = domTask s k := by
  unfold sendMsg
  dsimp only
  split
  · exact domTask_wakeFor _ _ _ _
  · rfl

theorem domTask_sendEntry (s : State) (src e k : Nat) : domTask (sendEntry s src e) k = domTask s k := by
  unfold sendEntry
  split
  · exact domTask_sendMsg _ _ _
  · rfl

theorem domTask_capture (s : State) (b : Blk) (n k : Nat) : domTask (capture s b n) k = domTask s k := by
  by_cases hb : b.die = 24
  · rw [capture_field hb]
    rfl
  · rw [capture_eq_outChange, outChange_host hb]
    split
    · exact domTask_sendEntry _ _ _ _
    · rfl

/-- The wake counters start at bits 0 and 16 of their registers. -/
theorem rdF_wakeFor_of_lo {s : State} {d n m k : Nat} {c : Option Instr} {b : Blk} {f : Field} (hl : f.lo < 32) (h0 : f.lo ≠ 0)
    (h16 : f.lo ≠ 16) : rdF (wakeFor s d n c) b f m k = rdF s b f m k := by
  have hret : ∀ u, rdF (addF u (xfb 0) XFB.WAKE_CNT.RET) b f m k = rdF u b f m k :=
    fun u => rdF_wrF_other _ _ _ _ _ _ _ _ _ _ (fkey_ne_of_lo hl (by decide) h16)
  have hcg : ∀ u, rdF (addF u (xfb 0) XFB.WAKE_CNT.CG) b f m k = rdF u b f m k :=
    fun u => rdF_wrF_other _ _ _ _ _ _ _ _ _ _ (fkey_ne_of_lo hl (by decide) h0)
  have hhold : ∀ u, rdF (addF u (xfb 0) XFB.WAKE_HOLD.COUNT) b f m k = rdF u b f m k :=
    fun u => rdF_wrF_other _ _ _ _ _ _ _ _ _ _ (fkey_ne_of_lo hl (by decide) h0)
  unfold wakeFor
  extract_lets dm woken kept
  have hwoken : rdF woken b f m k = rdF s b f m k := by
    unfold woken
    split
    · rfl
    · split
      · exact hret s
      · exact hcg s
  show rdF kept b f m k = _
  unfold kept
  split
  · exact hwoken
  · exact (hhold _).trans hwoken

theorem rdF_sendMsg_of_lo {s : State} {m : IrqMsg} {n k : Nat} {b : Blk} {f : Field} (hl : f.lo < 32) (h0 : f.lo ≠ 0) (h16 : f.lo ≠ 16) :
    rdF (sendMsg s m) b f n k = rdF s b f n k := by
  unfold sendMsg
  dsimp only
  split
  · exact rdF_wakeFor_of_lo hl h0 h16
  · rfl

theorem rdF_sendEntry_of_lo {s : State} {src e m k : Nat} {b : Blk} {f : Field} (hl : f.lo < 32) (h0 : f.lo ≠ 0) (h16 : f.lo ≠ 16) :
    rdF (sendEntry s src e) b f m k = rdF s b f m k := by
  unfold sendEntry
  split
  · exact rdF_sendMsg_of_lo hl h0 h16
  · rfl

/-- On any die, the capture of an event leaves every register alone that cannot be a wake counter. -/
theorem rdF_capture_of_lo {s : State} {b c : Blk} {n m k : Nat} {f : Field} (hl : f.lo < 32) (h0 : f.lo ≠ 0) (h16 : f.lo ≠ 16) :
    rdF (capture s b n) c f m k = rdF s c f m k := by
  by_cases hb : b.die = 24
  · rw [capture_field hb]
    rfl
  · rw [capture_eq_outChange, outChange_host hb]
    split
    · exact rdF_sendEntry_of_lo hl h0 h16
    · rfl

/-- On any die, the capture of an event changes registers, headers, messages, wakes, and what the barrier carries. -/
theorem capture_eq (s : State) (b : Blk) (n : Nat) :
    capture s b n = { s with fields := (capture s b n).fields, hdrs := (capture s b n).hdrs, irqs := (capture s b n).irqs,
                             doms := (capture s b n).doms, bar := (capture s b n).bar } := by
  by_cases hb : b.die = 24
  · rw [capture_field hb]
  · rw [regsOnly_capture (s := s) (n := n) hb]

/-- The domain has reached state `g`: its register shows it, and the event is captured. -/
def showDomain (s : State) (d n g : Nat) : State :=
  capture (wrF (wrF s (pwr d) PWR.DOM_CTRL.STATE g n) (pwr d) PWR.DOM_CTRL.STATUS 1 n) (pwr d) 2

section
variable {s : State} {d n g : Nat}

theorem showDomain_shows (hg : g < 4) : domState (showDomain s d n g) d n = g
    ∧ rdF (showDomain s d n g) (pwr d) PWR.DOM_CTRL.STATUS n = 1 ∧ raised (showDomain s d n g) (pwr d) 2 := by
  refine ⟨?state, ?status, raised_capture (by decide)⟩
  case state =>
    refine (rdF_capture_of_lo (by decide) (by decide) (by decide)).trans ?_
    refine (rdF_wrF_other _ _ _ _ _ _ _ _ _ _ (fkey_ne_of_lo (by decide) (by decide) (by decide))).trans ?_
    exact (rdF_wrF_same _ _ _ _ _ _).trans (Nat.mod_eq_of_lt hg)
  case status => exact (rdF_capture_of_lo (by decide) (by decide) (by decide)).trans (rdF_wrF_same _ _ _ _ _ _)

theorem showDomain_rest (s : State) (d n g : Nat) : (showDomain s d n g).harts = s.harts ∧ sameMemory s (showDomain s d n g)
    ∧ (showDomain s d n g).tx = s.tx := by
  unfold showDomain
  rw [capture_eq]
  exact ⟨rfl, sameMemory_refl s, rfl⟩

theorem domTask_showDomain (s : State) (d n g k : Nat) : domTask (showDomain s d n g) k = domTask s k := domTask_capture _ _ _ _

/-- The state in which the domain is on its way nowhere. -/
def arrived (s : State) (d n : Nat) : State :=
  { s with doms := mput s.doms (domKey d n) { mget ({} : Dom) s.doms (domKey d n) with goal := none } }

theorem domTask_arrived (s : State) (d n : Nat) : domTask (arrived s d n) (domKey d n) = { domTask s (domKey d n) with goal := none } := by
  simp [domTask, arrived]

/-- A domain that has nothing held as a command is awake once its messages have been sent. -/
theorem deliverHeld_messages (h : (mget ({} : Dom) s.doms (domKey d n)).held = []) :
    deliverHeld s d n = { s with
      doms := mput s.doms (domKey d n) { mget ({} : Dom) s.doms (domKey d n) with waking := false, held := [], heldTx := [] },
      tx := s.tx ++ (mget ({} : Dom) s.doms (domKey d n)).heldTx } := by
  unfold deliverHeld
  dsimp only
  rw [h]
  rfl

/-- The state in which a domain shows that it has arrived: the L2 of a cluster that goes to retention is clean (R161, R384). -/
def readied (s : State) (d n g : Nat) : State :=
  if g = 2 && 8 ≤ d then cleanCluster (arrived s d n) ((d - 8) * 6 + n) else arrived s d n

theorem exec_domainStateReached (hgoal : (mget ({} : Dom) s.doms (domKey d n)).goal = some g) :
    exec (.domainStateReached d n) s = .next (
      if g = 0 then deliverHeld (showDomain (readied s d n g) d n g) d n else showDomain (readied s d n g) d n g) := by
  show execDomainStateReached d n s = _
  unfold execDomainStateReached
  rw [hgoal]
  rfl

/-- Whatever state but awake a domain reaches, it shows it. -/
theorem domainStateReached_shows {P : State → Prop} (hgoal : (mget ({} : Dom) s.doms (domKey d n)).goal = some g) (h0 : g ≠ 0)
    (hP : P (showDomain (readied s d n g) d n g)) : gives (.domainStateReached d n) s P :=
  ⟨_, (exec_domainStateReached hgoal).trans (congrArg _ (if_neg h0)), hP⟩

/-- A domain that goes to sleep without an L2 to clean changes nothing else. -/
theorem domainStateReached_asleep (hgoal : (mget ({} : Dom) s.doms (domKey d n)).goal = some g) (hg : g < 4) (h0 : g ≠ 0)
    (hc : ¬(g = 2 ∧ 8 ≤ d)) : gives (.domainStateReached d n) s fun t => domState t d n = g ∧ rdF t (pwr d) PWR.DOM_CTRL.STATUS n = 1
      ∧ raised t (pwr d) 2 ∧ (mget {} t.doms (domKey d n)).goal = none ∧ t.harts = s.harts ∧ sameMemory s t := by
  have hready : readied s d n g = arrived s d n := if_neg (by simpa using hc)
  have htask := (domTask_showDomain (arrived s d n) d n g (domKey d n)).trans (domTask_arrived s d n)
  obtain ⟨hstate, hstatus, hraised⟩ := showDomain_shows (s := arrived s d n) (d := d) (n := n) hg
  obtain ⟨hharts, hmem, -⟩ := showDomain_rest (arrived s d n) d n g
  refine domainStateReached_shows hgoal h0 ?_
  rw [hready]
  exact ⟨hstate, hstatus, hraised, congrArg Dom.goal htask, hharts, hmem⟩

/-- A domain that has woken by request sends what it held (R160, R384). -/
theorem domainStateReached_awake (hgoal : (mget ({} : Dom) s.doms (domKey d n)).goal = some 0)
    (hheld : (mget ({} : Dom) s.doms (domKey d n)).held = []) :
    gives (.domainStateReached d n) s fun t => domState t d n = 0 ∧ rdF t (pwr d) PWR.DOM_CTRL.STATUS n = 1 ∧ raised t (pwr d) 2
      ∧ (mget {} t.doms (domKey d n)).waking = false ∧ t.tx = s.tx ++ (mget ({} : Dom) s.doms (domKey d n)).heldTx
      ∧ t.harts = s.harts ∧ sameMemory s t := by
  have hready : readied s d n 0 = arrived s d n := if_neg (by simp)
  have htask := (domTask_showDomain (arrived s d n) d n 0 (domKey d n)).trans (domTask_arrived s d n)
  have hnone : (mget ({} : Dom) (showDomain (arrived s d n) d n 0).doms (domKey d n)).held = [] := (congrArg Dom.held htask).trans hheld
  have htx : (mget ({} : Dom) (showDomain (arrived s d n) d n 0).doms (domKey d n)).heldTx = (mget ({} : Dom) s.doms (domKey d n)).heldTx :=
    (congrArg Dom.heldTx htask).trans rfl
  obtain ⟨hstate, hstatus, hraised⟩ := showDomain_shows (s := arrived s d n) (d := d) (n := n) (g := 0) (by decide)
  obtain ⟨hharts, hmem, hsent⟩ := showDomain_rest (arrived s d n) d n 0
  refine ⟨_, (exec_domainStateReached hgoal).trans (congrArg _ (if_pos rfl)), ?_⟩
  rw [hready, deliverHeld_messages hnone, hsent, htx]
  exact ⟨hstate, hstatus, hraised, congrArg Dom.waking (mget_mput_same _ _ _ _), rfl, hharts, hmem⟩

/-- A domain that a packet has woken is awake and sends what it held (R160). -/
theorem domainWakeDone_awake (hwaking : (mget ({} : Dom) s.doms (domKey d n)).waking = true)
    (hheld : (mget ({} : Dom) s.doms (domKey d n)).held = []) :
    gives (.domainWakeDone d n) s fun t => domState t d n = 0 ∧ (mget {} t.doms (domKey d n)).waking = false
      ∧ (mget {} t.doms (domKey d n)).heldTx = []
      ∧ t = { s with fields := t.fields, doms := t.doms, tx := s.tx ++ (mget ({} : Dom) s.doms (domKey d n)).heldTx } := by
  have hnone : (mget ({} : Dom) (wrF s (pwr d) PWR.DOM_CTRL.STATE 0 n).doms (domKey d n)).held = [] := hheld
  refine ⟨_, if_pos hwaking, ?_⟩
  rw [deliverHeld_messages hnone]
  exact ⟨rdF_wrF_same _ _ _ _ _ _, congrArg Dom.waking (mget_mput_same _ _ _ _), congrArg Dom.heldTx (mget_mput_same _ _ _ _), rfl⟩

end

/-- Settles O47: a reading is `heated`, a power sample has one of three outcomes, and a domain shows the state it has reached. -/
theorem heatAndPower : Obligations.HeatAndPower := by
  unfold Obligations.HeatAndPower
  refine ⟨fun s hp => ⟨fun d v hr hd hw _ => ⟨?cool, ?critical, ?tenth⟩, ?power⟩, fun s d n => ⟨?asleep, ?retention, ?awake, ?woken⟩⟩
  case cool =>
    intro hv
    have hd20 : d < 20 := lt_of_hasRoot hr
    have hrun : critRun s d v = 0 := if_neg (Int.not_le.2 hv)
    obtain ⟨hlife, -, hharts, hmem⟩ := heated_rest s v (show d ≠ 24 by omega)
    refine gives_heated hp hr hd hw (by omega) ⟨now_heated s v hr, (crit_heated s v (by omega)).trans hrun, hharts, hmem, ?_,
      heated_starts hr, heated_ends hr, heated_stays hr⟩
    rw [hlife]
    exact mget_mput_same _ _ _ _
  case critical =>
    intro hv hcrit
    have hd20 : d < 20 := lt_of_hasRoot hr
    have hrun : critRun s d v = mget 0 s.wd.crit d + 1 := if_pos hv
    exact gives_heated hp hr hd hw (by omega) ⟨(crit_heated s v (by omega)).trans hrun, modeOf_heated s v (by omega)⟩
  case tenth =>
    intro hv hcrit hn
    exact gives_critical hp hr hd hn ((if_pos hv).trans (by rw [hcrit]))
  case power =>
    intro hn w hw
    obtain ⟨t, he, lim, hshown, hoff, hon⟩ := powerSample_spec hp hn hw
    have hlim : t.wd.limiting = lim := by rw [hshown.wd]
    refine ⟨t, he, by rw [hshown.wd]; rfl, hshown.avg, hshown.peak, hshown.harts, hshown.memory, ?starts, ?ends, ?goesOn, ?staysOff⟩
    all_goals rw [hlim]
    case starts =>
      intro h hhigh
      obtain ⟨hiff, hraised⟩ := hoff h
      have ht : lim = true := hiff.2 hhigh
      exact ⟨ht, hraised ht⟩
    case ends => exact fun h hlow => Bool.eq_false_iff.2 fun ht => Nat.not_le.2 hlow ((hon h).1 ht)
    case goesOn => exact fun h hhigh => (hon h).2 hhigh
    case staysOff => exact fun h hpeak havg => Bool.eq_false_iff.2 fun ht => (((hoff h).1).1 ht).elim (Nat.not_lt.2 hpeak) (Nat.not_lt.2 havg)
  case asleep => exact fun g hgoal hg hkind => domainStateReached_asleep hgoal hg (by omega) (by omega)
  case retention => exact fun hgoal _ => domainStateReached_shows hgoal (by decide) (showDomain_shows (by decide))
  case awake => exact fun hgoal hheld _ => domainStateReached_awake hgoal hheld
  case woken => exact fun hwaking hheld => domainWakeDone_awake hwaking hheld

end Sys2Proof.Machine
end
